-- ==== Sys2Proof/Word.lean ====
section
/-! DEFINITION. The words of the Saruz: bytes, 32-bit register words, 64-bit register pairs (R18, R21, R262). -/

namespace Sys2Proof

/-- One byte of memory or of the code stream. -/
abbrev Byte := BitVec 8

/-- One register word (R12, R70). -/
abbrev Word := BitVec 32

/-- One register pair, or an engine address (R21, R160). -/
abbrev DWord := BitVec 64

end Sys2Proof
end

