-- ==== Sys2Proof/Machine/Flags.lean ====
section
/-! DEFINITION. Carries and comparisons: the predicates that instructions write (R230, R233, R240). -/

namespace Sys2Proof.Machine

/-- The type letter of an integer operation (R197): signed, unsigned, raw bits. -/
abbrev signedT (t : Nat) : Bool := t == 0

/-- An operand of n bits as an integer, signed for T = s. -/
def intVal (n : Nat) (signed : Bool) (x : DWord) : Int :=
  let v := x.toNat % 2 ^ n
  if signed && decide (2 ^ (n - 1) ≤ v) then (v : Int) - 2 ^ n else v

/-- An integer modulo 2^n as a 64-bit container. -/
def wrapInt (n : Nat) (x : Int) : DWord := BitVec.ofNat 64 (x % (2 ^ n : Int)).toNat

/-- The carry of ua + ub + pc out of n bits (R230). -/
def carryOut (n : Nat) (a b : DWord) (c : Bool) : Bool :=
  decide (2 ^ n ≤ a.toNat % 2 ^ n + b.toNat % 2 ^ n + (if c then 1 else 0))

/-- The borrow of ua - ub - pc (R230). -/
def borrowOut (n : Nat) (a b : DWord) (c : Bool) : Bool :=
  decide (a.toNat % 2 ^ n < b.toNat % 2 ^ n + (if c then 1 else 0))

/-- a lies before b in the order of the type (R233, R240). -/
def ltT (n : Nat) (signed : Bool) (a b : DWord) : Bool := decide (intVal n signed a < intVal n signed b)

/-- The condition CC of cmp by its SUB value (R240). -/
def cmpCC (cc n : Nat) (signed : Bool) (a b : DWord) : Bool :=
  let x := intVal n signed a
  let y := intVal n signed b
  match cc with
  | 0 => x == y
  | 1 => x != y
  | 2 => decide (x < y)
  | 3 => decide (x ≤ y)
  | 4 => decide (y < x)
  | _ => decide (y ≤ x)

end Sys2Proof.Machine
end

