-- ==== Sys2Proof/Syntax.lean ====
section
/-! DEFINITION. The syntax: operand specifiers, the fields of a canonical word, and one constructor of
Instr for every row of the opcode table (operations, compact forms, steps of the machine). -/

namespace Sys2Proof

/-- A special register of R195; a 64-bit one has a low and a high half. -/
inductive Special where
  | tslot | gslot | corenum | clusternum
  | sptrLo | sptrHi | slimLo | slimHi | crecLo | crecHi | spselfLo | spselfHi
  | prank
  | lidx (i : Fin 8)
  | lext (i : Fin 8)
deriving DecidableEq, Repr

/-- An operand specifier (R18, R194); the reserved values are no specifier. -/
inductive Spec where
  | v (n : Fin 128)
  | g (n : Fin 64)
  | p (n : Fin 8)
  | q (n : Fin 4)
  | a (n : Fin 4)
  | zero
  | imm
  | special (r : Special)
deriving DecidableEq, Repr

/-- The fields of a canonical word beside its opcode (R193). NEG and GP are the guard. -/
structure Ops where
  neg : Bool
  gp  : Fin 8
  t   : Fin 8
  d   : Spec
  a   : Spec
  b   : Spec
  c   : Spec
  mod : BitVec 12
  imm : Word
deriving DecidableEq, Repr

/-- The kinds of access of a fault qualifier (R106, R329). -/
inductive AccessKind where
  | read | write | atomic | fetch
deriving DecidableEq, Repr

/-- What the window pager moves: a chunk of a register stack, or a trip record (R78, R80). -/
inductive PagerItem where
  | chunk (j : Nat)
  | trip (j : Nat)
deriving DecidableEq, Repr

/-- What an access arriving over the fabric does (R332). -/
inductive PeerOp where
  | load
  | store (data : List Byte)
  | update (op : Nat) (b c : DWord)
deriving DecidableEq, Repr

/-- Where an uncorrectable error strikes (R58, R368). -/
inductive EccPlace where
  | hbm (addr : Nat)
  | bank (die off : Nat)
  | scratch (cl co off : Nat)
  | vreg (cl co t w : Nat)
  | greg (cl co gs n : Nat)
  | pred (cl co t n : Nat)
  | qpred (cl co gs n : Nat)
deriving DecidableEq, Repr

/-- The algorithms an SPDM requester may offer (R362). -/
inductive SpdmAlg where
  | sm2 | sm3 | sm4gcm | other (n : Nat)
deriving DecidableEq, Repr

/-- The states of a TDISP device interface (R361). -/
inductive TdiState where
  | configUnlocked | configLocked | run | error
deriving DecidableEq, Repr

/-- What a host write carries beside its place and data: its PASID, if any (R315), and the IDE stream over which it comes, if any, with its T bit
(R361). -/
structure HostTag where
  pasid  : Option Nat
  stream : Option Nat := none
  t      : Bool := false
deriving DecidableEq, Repr

/-- What a bring-up finds (R388): which copies and steps succeed, and the values it reads. -/
structure BringUp where
  firstStageOk  : Bool
  secondCopyOk  : Bool
  nvmeOk        : Bool
  kernelOk      : Bool
  previousOk    : Bool
  stackFails    : List Nat
  portLanes     : List Nat
  entropyOk     : Bool
  fabid         : BitVec 32
  digests       : List (BitVec 256)
deriving DecidableEq, Repr

/-- One constructor per row of spec/opcode_table.json: the operations carry the fields of their canonical
word, the compact forms carry the fields of R204, and the steps of the machine carry what names the step
(cl a cluster, co a logical core, gs a group slot, fi a front, t a thread, id a request, qcb a queue
control block's address, fn a function: 0 the physical one, i + 1 virtual function i). -/
inductive Instr where
  /-- nop (R218). -/
  | nop (o : Ops)
  /-- exit (R214). -/
  | exit (o : Ops)
  /-- next (R214). -/
  | next (o : Ops)
  /-- ret (R215). -/
  | ret (o : Ops)
  /-- quit (R216). -/
  | quit (o : Ops)
  /-- yield (R217). -/
  | yield (o : Ops)
  /-- bar.arrive (R219). -/
  | barArrive (o : Ops)
  /-- bar.wait (R219). -/
  | barWait (o : Ops)
  /-- bar.sync (R219). -/
  | barSync (o : Ops)
  /-- spawn (R220). -/
  | spawn (o : Ops)
  /-- trap (R222). -/
  | trap (o : Ops)
  /-- tret (R224). -/
  | tret (o : Ops)
  /-- bkpt (R223). -/
  | bkpt (o : Ops)
  /-- movs (R225). -/
  | movs (o : Ops)
  /-- ctlr (R226). -/
  | ctlr (o : Ops)
  /-- ctlw (R226). -/
  | ctlw (o : Ops)
  /-- add (R230). -/
  | add (o : Ops)
  /-- addc (R230). -/
  | addc (o : Ops)
  /-- sub (R230). -/
  | sub (o : Ops)
  /-- subb (R230). -/
  | subb (o : Ops)
  /-- mul (R231). -/
  | mul (o : Ops)
  /-- mulh (R231). -/
  | mulh (o : Ops)
  /-- mad (R231). -/
  | mad (o : Ops)
  /-- madw (R231). -/
  | madw (o : Ops)
  /-- min (R233). -/
  | min (o : Ops)
  /-- max (R233). -/
  | max (o : Ops)
  /-- abs (R233). -/
  | abs (o : Ops)
  /-- neg (R233). -/
  | neg (o : Ops)
  /-- clamp (R233). -/
  | clamp (o : Ops)
  /-- idiv (R232). -/
  | idiv (o : Ops)
  /-- irem (R232). -/
  | irem (o : Ops)
  /-- shl (R234). -/
  | shl (o : Ops)
  /-- shr (R234). -/
  | shr (o : Ops)
  /-- sar (R234). -/
  | sar (o : Ops)
  /-- rotl (R234). -/
  | rotl (o : Ops)
  /-- fsh (R234). -/
  | fsh (o : Ops)
  /-- bfx (R235). -/
  | bfx (o : Ops)
  /-- bfi (R235). -/
  | bfi (o : Ops)
  /-- popc (R236). -/
  | popc (o : Ops)
  /-- clz (R236). -/
  | clz (o : Ops)
  /-- ctz (R236). -/
  | ctz (o : Ops)
  /-- brev (R236). -/
  | brev (o : Ops)
  /-- and (R237). -/
  | and (o : Ops)
  /-- or (R237). -/
  | or (o : Ops)
  /-- xor (R237). -/
  | xor (o : Ops)
  /-- not (R237). -/
  | not (o : Ops)
  /-- andn (R237). -/
  | andn (o : Ops)
  /-- bool3 (R237). -/
  | bool3 (o : Ops)
  /-- mov (R238). -/
  | mov (o : Ops)
  /-- movi (R238). -/
  | movi (o : Ops)
  /-- csel (R239). -/
  | csel (o : Ops)
  /-- cmp (R240). -/
  | cmp (o : Ops)
  /-- setv (R239). -/
  | setv (o : Ops)
  /-- lea (R241). -/
  | lea (o : Ops)
  /-- pand (R242). -/
  | pand (o : Ops)
  /-- por (R242). -/
  | por (o : Ops)
  /-- pxor (R242). -/
  | pxor (o : Ops)
  /-- pnot (R242). -/
  | pnot (o : Ops)
  /-- pmov (R242). -/
  | pmov (o : Ops)
  /-- xprev (R51). -/
  | xprev (o : Ops)
  /-- xscan (R51). -/
  | xscan (o : Ops)
  /-- xred (R51). -/
  | xred (o : Ops)
  /-- xbcast (R51). -/
  | xbcast (o : Ops)
  /-- xpick (R51). -/
  | xpick (o : Ops)
  /-- xput (R51). -/
  | xput (o : Ops)
  /-- xget (R51). -/
  | xget (o : Ops)
  /-- vote (R51). -/
  | vote (o : Ops)
  /-- first (R51). -/
  | first (o : Ops)
  /-- actc (R51). -/
  | actc (o : Ops)
  /-- fadd (R249). -/
  | fadd (o : Ops)
  /-- fsub (R249). -/
  | fsub (o : Ops)
  /-- fmul (R249). -/
  | fmul (o : Ops)
  /-- ffma (R249). -/
  | ffma (o : Ops)
  /-- fmin (R249). -/
  | fmin (o : Ops)
  /-- fmax (R249). -/
  | fmax (o : Ops)
  /-- fdiv (R249). -/
  | fdiv (o : Ops)
  /-- fcmp (R251). -/
  | fcmp (o : Ops)
  /-- fclass (R252). -/
  | fclass (o : Ops)
  /-- frnd (R253). -/
  | frnd (o : Ops)
  /-- ffrac (R253). -/
  | ffrac (o : Ops)
  /-- rcp (R254). -/
  | rcp (o : Ops)
  /-- rsq (R254). -/
  | rsq (o : Ops)
  /-- sqrt (R254). -/
  | sqrt (o : Ops)
  /-- exp2 (R254). -/
  | exp2 (o : Ops)
  /-- log2 (R254). -/
  | log2 (o : Ops)
  /-- sin (R254). -/
  | sin (o : Ops)
  /-- cos (R254). -/
  | cos (o : Ops)
  /-- tanh (R254). -/
  | tanh (o : Ops)
  /-- erf (R254). -/
  | erf (o : Ops)
  /-- cvt (R257). -/
  | cvt (o : Ops)
  /-- cvt.sc (R258). -/
  | cvtSc (o : Ops)
  /-- bscale (R259). -/
  | bscale (o : Ops)
  /-- pack (R260). -/
  | pack (o : Ops)
  /-- unpack (R260). -/
  | unpack (o : Ops)
  /-- ld (R267). -/
  | ld (o : Ops)
  /-- st (R268). -/
  | st (o : Ops)
  /-- ldk (R269). -/
  | ldk (o : Ops)
  /-- prf (R270). -/
  | prf (o : Ops)
  /-- atom (R272). -/
  | atom (o : Ops)
  /-- red (R273). -/
  | red (o : Ops)
  /-- fence.r (R276). -/
  | fenceR (o : Ops)
  /-- fence (R277). -/
  | fence (o : Ops)
  /-- cctl (R278). -/
  | cctl (o : Ops)
  /-- copy.box (R284). -/
  | copyBox (o : Ops)
  /-- copy.t (R284). -/
  | copyT (o : Ops)
  /-- copy.fill (R284). -/
  | copyFill (o : Ops)
  /-- layout (R285). -/
  | layout (o : Ops)
  /-- mma (R184). -/
  | mma (o : Ops)
  /-- mma.p (R185). -/
  | mmaP (o : Ops)
  /-- mma.g (R186). -/
  | mmaG (o : Ops)
  /-- mma.s (R187). -/
  | mmaS (o : Ops)
  /-- acc.clr (R188). -/
  | accClr (o : Ops)
  /-- acc.ld (R188). -/
  | accLd (o : Ops)
  /-- acc.st (R188). -/
  | accSt (o : Ops)
  /-- acc.stx (R189). -/
  | accStx (o : Ops)
  /-- bankop (R287). -/
  | bankop (o : Ops)
  /-- cexp (R288). -/
  | cexp (o : Ops)
  /-- cwait (R288). -/
  | cwait (o : Ops)
  /-- cacq (R288). -/
  | cacq (o : Ops)
  /-- cread (R288). -/
  | cread (o : Ops)
  /-- creset (R288). -/
  | creset (o : Ops)
  /-- add.s32 (R204). -/
  | addS32Compact (d a b : Fin 64)
  /-- sub.s32 (R204). -/
  | subS32Compact (d a b : Fin 64)
  /-- mul.s32 (R204). -/
  | mulS32Compact (d a b : Fin 64)
  /-- mad.s32 (R204). -/
  | madS32Compact (d a b c : Fin 64)
  /-- min.s32 (R204). -/
  | minS32Compact (d a b : Fin 64)
  /-- max.s32 (R204). -/
  | maxS32Compact (d a b : Fin 64)
  /-- min.z32 (R204). -/
  | minZ32Compact (d a b : Fin 64)
  /-- max.z32 (R204). -/
  | maxZ32Compact (d a b : Fin 64)
  /-- and.b32 (R204). -/
  | andCompact (d a b : Fin 64)
  /-- or.b32 (R204). -/
  | orCompact (d a b : Fin 64)
  /-- xor.b32 (R204). -/
  | xorCompact (d a b : Fin 64)
  /-- andn.b32 (R204). -/
  | andnCompact (d a b : Fin 64)
  /-- shl.b32 (R204). -/
  | shlCompact (d a b : Fin 64)
  /-- shr.b32 (R204). -/
  | shrCompact (d a b : Fin 64)
  /-- sar.s32 (R204). -/
  | sarCompact (d a b : Fin 64)
  /-- mov.b32 (R204). -/
  | movCompact (d a : Fin 64)
  /-- fadd.f32 (R204). -/
  | faddCompact (d a b : Fin 64)
  /-- fsub.f32 (R204). -/
  | fsubCompact (d a b : Fin 64)
  /-- fmul.f32 (R204). -/
  | fmulCompact (d a b : Fin 64)
  /-- ffma.f32 (R204). -/
  | ffmaCompact (d a b c : Fin 64)
  /-- fmin.f32 (R204). -/
  | fminCompact (d a b : Fin 64)
  /-- fmax.f32 (R204). -/
  | fmaxCompact (d a b : Fin 64)
  /-- cmp.eq.s32 (R204). -/
  | cmpEqS32Compact (d a b : Fin 64)
  /-- cmp.ne.s32 (R204). -/
  | cmpNeS32Compact (d a b : Fin 64)
  /-- cmp.lt.s32 (R204). -/
  | cmpLtS32Compact (d a b : Fin 64)
  /-- cmp.le.s32 (R204). -/
  | cmpLeS32Compact (d a b : Fin 64)
  /-- cmp.gt.s32 (R204). -/
  | cmpGtS32Compact (d a b : Fin 64)
  /-- cmp.ge.s32 (R204). -/
  | cmpGeS32Compact (d a b : Fin 64)
  /-- cmp.lt.z32 (R204). -/
  | cmpLtZ32Compact (d a b : Fin 64)
  /-- cmp.le.z32 (R204). -/
  | cmpLeZ32Compact (d a b : Fin 64)
  /-- cmp.gt.z32 (R204). -/
  | cmpGtZ32Compact (d a b : Fin 64)
  /-- cmp.ge.z32 (R204). -/
  | cmpGeZ32Compact (d a b : Fin 64)
  /-- ld.gm.b32 (R204). -/
  | ldGmCompact (d a b : Fin 64)
  /-- st.gm.b32 (R204). -/
  | stGmCompact (d a b : Fin 64)
  /-- ld.sp.b32 (R204). -/
  | ldSpCompact (d a b : Fin 64)
  /-- st.sp.b32 (R204). -/
  | stSpCompact (d a b : Fin 64)
  /-- add.s32 (R204). -/
  | addImmCompact (d a : Fin 64) (i : BitVec 12)
  /-- mul.s32 (R204). -/
  | mulImmCompact (d a : Fin 64) (i : BitVec 12)
  /-- and.b32 (R204). -/
  | andImmCompact (d a : Fin 64) (i : BitVec 12)
  /-- or.b32 (R204). -/
  | orImmCompact (d a : Fin 64) (i : BitVec 12)
  /-- xor.b32 (R204). -/
  | xorImmCompact (d a : Fin 64) (i : BitVec 12)
  /-- shl.b32 (R204). -/
  | shlImmCompact (d a : Fin 64) (i : BitVec 12)
  /-- shr.b32 (R204). -/
  | shrImmCompact (d a : Fin 64) (i : BitVec 12)
  /-- sar.s32 (R204). -/
  | sarImmCompact (d a : Fin 64) (i : BitVec 12)
  /-- movi (R204). -/
  | moviCompact (d : Fin 64) (i : BitVec 18)
  /-- cmp.eq.s32 (R204). -/
  | cmpEqImmCompact (d a : Fin 64) (i : BitVec 12)
  /-- cmp.ne.s32 (R204). -/
  | cmpNeImmCompact (d a : Fin 64) (i : BitVec 12)
  /-- cmp.lt.s32 (R204). -/
  | cmpLtImmCompact (d a : Fin 64) (i : BitVec 12)
  /-- cmp.le.s32 (R204). -/
  | cmpLeImmCompact (d a : Fin 64) (i : BitVec 12)
  /-- cmp.gt.s32 (R204). -/
  | cmpGtImmCompact (d a : Fin 64) (i : BitVec 12)
  /-- cmp.ge.s32 (R204). -/
  | cmpGeImmCompact (d a : Fin 64) (i : BitVec 12)
  /-- ld.gm.b32 (R204). -/
  | ldGmImmCompact (d a : Fin 64) (i : BitVec 12)
  /-- st.gm.b32 (R204). -/
  | stGmImmCompact (d a : Fin 64) (i : BitVec 12)
  /-- ld.sp.b32 (R204). -/
  | ldSpImmCompact (d a : Fin 64) (i : BitVec 12)
  /-- st.sp.b32 (R204). -/
  | stSpImmCompact (d a : Fin 64) (i : BitVec 12)
  /-- node_move (R35). -/
  | nodeMove (cl co t : Nat)
  /-- call (R71). -/
  | call (cl co t : Nat)
  /-- return (R73). -/
  | returnFrame (cl co t : Nat)
  /-- reform (R38). -/
  | reform (cl co t : Nat)
  /-- safe_arrival (R99). -/
  | safeArrival (cl co t : Nat)
  /-- instruction_fetch (R209). -/
  | instructionFetch (cl co gs fi : Nat)
  /-- long_op_lands (R65). -/
  | longOpLands (id : Nat)
  /-- access_perform (R120). -/
  | accessPerform (id : Nat)
  /-- home_atomic_perform (R274). -/
  | homeAtomicPerform (id : Nat)
  /-- trap_deliver (R221). -/
  | trapDeliver (cl co gs : Nat)
  /-- async_error_deliver (R346). -/
  | asyncErrorDeliver (cl co gs : Nat)
  /-- bin_file (R90). -/
  | binFile (cl co t : Nat)
  /-- bin_age_limit (R90). -/
  | binAgeLimit (cl co b : Nat)
  /-- thread_slot_free (R216). -/
  | threadSlotFree (cl co t : Nat)
  /-- chunk_spill (R80). -/
  | chunkSpill (cl co t : Nat) (x : PagerItem)
  /-- chunk_fill (R80). -/
  | chunkFill (cl co t : Nat) (x : PagerItem)
  /-- chunk_transfer_done (R81). -/
  | chunkTransferDone (id : Nat)
  /-- spawn_ring_take (R94). -/
  | spawnRingTake (cl co : Nat)
  /-- block_place (R87). -/
  | blockPlace (launch block cl co : Nat)
  /-- block_saved (R102). -/
  | blockSaved (cl co : Nat)
  /-- block_end (R103). -/
  | blockEnd (cl co : Nat)
  /-- engine_queue_entry (R279). -/
  | engineQueueEntry (id : Nat)
  /-- dest_expectation_arrive (R155). -/
  | destExpectationArrive (id dest : Nat)
  /-- engine_bytes_land (R155). -/
  | engineBytesLand (id k : Nat)
  /-- matrix_row_final (R182). -/
  | matrixRowFinal (id row : Nat)
  /-- bank_element_update (R132). -/
  | bankElementUpdate (id k : Nat)
  /-- command_finish (R155). -/
  | commandFinish (id : Nat)
  /-- command_abort (R156). -/
  | commandAbort (id : Nat)
  /-- cwait_return (R158). -/
  | cwaitReturn (cl co gs fi : Nat)
  /-- cacq_take (R281). -/
  | cacqTake (cl co gs fi : Nat)
  /-- fault_entry_write (R334). -/
  | faultEntryWrite (id : Nat)
  /-- invalidation_complete (R336). -/
  | invalidationComplete (part : Nat)
  /-- pkt_launch (R317). -/
  | pktLaunch (qcb : Nat)
  /-- pkt_resume (R104). -/
  | pktResume (qcb : Nat)
  /-- pkt_write (R317). -/
  | pktWrite (qcb : Nat)
  /-- pkt_signal_write (R317). -/
  | pktSignalWrite (qcb : Nat)
  /-- pkt_wait (R317). -/
  | pktWait (qcb : Nat)
  /-- pkt_image_load (R317). -/
  | pktImageLoad (qcb : Nat)
  /-- image_load_verify (R295). -/
  | imageLoadVerify (id : Nat)
  /-- image_load_result (R317). -/
  | imageLoadResult (qcb : Nat)
  /-- launch_end (R323). -/
  | launchEnd (id : Nat)
  /-- cluster_switch (R311). -/
  | clusterSwitch (cl : Nat)
  /-- clear_sequence_complete (R312). -/
  | clearSequenceComplete (cl : Nat) (ok : Bool)
  /-- mailbox_command_complete (R309). -/
  | mailboxCommandComplete (fn : Nat)
  /-- fw_commit (R375). -/
  | fwCommit
  /-- soft_repair_start (R369). -/
  | softRepairStart (stack channel row : Nat)
  /-- soft_repair_done (R369). -/
  | softRepairDone (stack : Nat)
  /-- log_drain (R378). -/
  | logDrain (ctx : Nat) (ok : Bool)
  /-- log_fill (R378). -/
  | logFill (ctx : Nat)
  /-- hash_boundary (R382). -/
  | hashBoundary (cl co gs : Nat)
  /-- gate_admit (R383). -/
  | gateAdmit (id : Nat)
  /-- ctx_create (R307). -/
  | ctxCreate (fn : Nat) (health : List Bool)
  /-- ctx_destroy (R308). -/
  | ctxDestroy (fn : Nat)
  /-- ctx_supervisor (R310). -/
  | ctxSupervisor (fn : Nat)
  /-- queue_create (R314). -/
  | queueCreate (fn : Nat)
  /-- queue_destroy (R314). -/
  | queueDestroy (fn : Nat)
  /-- session_start (R378). -/
  | sessionStart (fn : Nat)
  /-- session_stop (R378). -/
  | sessionStop (fn : Nat)
  /-- attention (R347). -/
  | attention (fn : Nat)
  /-- partition_set (R305). -/
  | partitionSet (fn : Nat)
  /-- carveout_set (R353). -/
  | carveoutSet (fn : Nat) (health : List Bool)
  /-- slice_set (R324). -/
  | sliceSet (fn : Nat)
  /-- faultring_set (R334). -/
  | faultringSet (fn : Nat)
  /-- qtable_set (R315). -/
  | qtableSet (fn : Nat)
  /-- perrrec_set (R351). -/
  | perrrecSet (fn : Nat)
  /-- policy_set (R365). -/
  | policySet (fn : Nat)
  /-- power_set (R392). -/
  | powerSet (fn : Nat)
  /-- repair (R369). -/
  | repair (fn : Nat)
  /-- spare (R374). -/
  | spare (fn : Nat)
  /-- peer_set (R332). -/
  | peerSet (fn : Nat)
  /-- export_set (R332). -/
  | exportSet (fn : Nat)
  /-- owner_set (R364). -/
  | ownerSet (fn : Nat)
  /-- signer_add (R364). -/
  | signerAdd (fn : Nat)
  /-- signer_revoke (R364). -/
  | signerRevoke (fn : Nat)
  /-- signer_list (R364). -/
  | signerList (fn : Nat)
  /-- fw_stage (R375). -/
  | fwStage (fn : Nat)
  /-- fw_abandon (R375). -/
  | fwAbandon (fn : Nat)
  /-- mailbox_unknown_opcode (R309). -/
  | mailboxUnknownOpcode (fn : Nat)
  /-- register_write (R309). -/
  | registerWrite (fn off : Nat) (v : DWord)
  /-- mailbox_write_while_busy (R309). -/
  | mailboxWriteWhileBusy (fn : Nat) (v : DWord)
  /-- doorbell (R315, R361). -/
  | doorbell (part : Nat) (tag : HostTag) (v : DWord)
  /-- fault_response (R335). -/
  | faultResponse (part : Nat) (v : DWord)
  /-- invalidation_request (R336). -/
  | invalidationRequest (part : Nat) (v : DWord)
  /-- peer_access (R332). -/
  | peerAccess (part off len : Nat) (acc : PeerOp)
  /-- table_walk (R331). -/
  | tableWalk (cl co ctx va : Nat) (acc : AccessKind)
  /-- slice_edge (R324). -/
  | sliceEdge
  /-- get_version (R362). -/
  | getVersion (fn : Nat)
  /-- get_capabilities (R362). -/
  | getCapabilities (fn : Nat)
  /-- negotiate_algorithms (R362). -/
  | negotiateAlgorithms (fn : Nat) (offer : List SpdmAlg)
  /-- get_digests (R362). -/
  | getDigests (fn : Nat)
  /-- get_certificate (R362). -/
  | getCertificate (fn slot : Nat)
  /-- challenge (R362). -/
  | challenge (fn slot : Nat) (nonce : BitVec 256)
  /-- get_measurements (R363). -/
  | getMeasurements (fn index : Nat) (signed : Bool) (nonce : BitVec 256)
  /-- key_exchange (R362). -/
  | keyExchange (fn : Nat) (share : BitVec 512)
  /-- finish (R362). -/
  | finish (fn : Nat) (verify : BitVec 256)
  /-- key_update (R362). -/
  | keyUpdate (fn : Nat)
  /-- end_session (R362). -/
  | endSession (fn : Nat)
  /-- tdi_error (R361). -/
  | tdiError (fn : Nat)
  /-- correctable_error (R368). -/
  | correctableError (stack channel row : Nat)
  /-- uncorrectable_error (R368). -/
  | uncorrectableError (place : EccPlace)
  /-- ift_due (R371). -/
  | iftDue (cl co : Nat)
  /-- drain_limit_expire (R372). -/
  | drainLimitExpire (cl co : Nat)
  /-- ift_complete (R371). -/
  | iftComplete (cl co : Nat) (pass : Bool)
  /-- port_retrain_start (R376). -/
  | portRetrainStart (port : Nat)
  /-- port_retrain_done (R376). -/
  | portRetrainDone (port lanes : Nat)
  /-- thermal_clock_step (R392). -/
  | thermalClockStep (up : Bool)
  /-- thermal_trip (R393). -/
  | thermalTrip
  /-- bring_up (R388). -/
  | bringUp (b : BringUp)
  /-- gate_timeout (R383). -/
  | gateTimeout (ctx stream : Nat)
  /-- tdisp_request (R361). -/
  | tdispRequest (fn : Nat) (target : TdiState)
  /-- ide_km_request (R361). -/
  | ideKmRequest (fn stream : Nat) (key : Option (BitVec 256))
  /-- recovery_mailbox_image (R388). -/
  | recoveryMailboxImage (img : List Byte) (sig : BitVec 512)
deriving DecidableEq, Repr

end Sys2Proof
end

