-- ==== Sys2Proof/Decode.lean ====
section
/-! DEFINITION. Decoding the byte stream into instructions (R193 to R208): the canonical word and its checks,
the compact, wide and escape forms, node and segment headers; and the encoder. -/

namespace Sys2Proof

/-! ### Specifiers (R18, R194, R195) -/

/-- The special register of a specifier 0xE0 to 0xFF (R195). -/
def specialOf (n : Nat) : Option Special :=
  match n with
  | 0xE0 => some .tslot | 0xE1 => some .gslot | 0xE2 => some .corenum | 0xE3 => some .clusternum
  | 0xE4 => some .sptrLo | 0xE5 => some .sptrHi | 0xE6 => some .slimLo | 0xE7 => some .slimHi
  | 0xE8 => some .crecLo | 0xE9 => some .crecHi | 0xEA => some .spselfLo | 0xEB => some .spselfHi
  | 0xEC => some .prank
  | m => if h : 0xF0 ≤ m ∧ m < 0xF8 then some (.lidx ⟨m - 0xF0, by omega⟩)
         else if h : 0xF8 ≤ m ∧ m < 0x100 then some (.lext ⟨m - 0xF8, by omega⟩) else none

/-- The specifier value of a special register (R195). -/
def Special.code : Special → Nat
  | .tslot => 0xE0 | .gslot => 0xE1 | .corenum => 0xE2 | .clusternum => 0xE3
  | .sptrLo => 0xE4 | .sptrHi => 0xE5 | .slimLo => 0xE6 | .slimHi => 0xE7
  | .crecLo => 0xE8 | .crecHi => 0xE9 | .spselfLo => 0xEA | .spselfHi => 0xEB
  | .prank => 0xEC
  | .lidx i => 0xF0 + i.val
  | .lext i => 0xF8 + i.val

/-- A specifier field read as an operand; the reserved values give none (R194, R195). -/
def specOf (n : Nat) : Option Spec :=
  if h : n < 0x80 then some (.v ⟨n, h⟩)
  else if h : n < 0xC0 then some (.g ⟨n - 0x80, by omega⟩)
  else if h : n < 0xC8 then some (.p ⟨n - 0xC0, by omega⟩)
  else if h : n < 0xCC then some (.q ⟨n - 0xC8, by omega⟩)
  else if h : n < 0xD0 then some (.a ⟨n - 0xCC, by omega⟩)
  else if n = 0xD0 then some .zero
  else if n = 0xD1 then some .imm
  else (specialOf n).map .special

/-- The value of a specifier field (R18, R194). -/
def Spec.code : Spec → Nat
  | .v n => n.val
  | .g n => 0x80 + n.val
  | .p n => 0xC0 + n.val
  | .q n => 0xC8 + n.val
  | .a n => 0xCC + n.val
  | .zero => 0xD0
  | .imm => 0xD1
  | .special r => r.code

/-- A special register that reads as the low half of a pair (R195). -/
def Special.pairs : Special → Bool
  | .sptrLo | .slimLo | .crecLo | .spselfLo => true
  | _ => false

/-- A special register that counts as uniform (R47, R195). -/
def Special.uniform : Special → Bool
  | .gslot | .corenum | .clusternum | .spselfLo | .spselfHi | .prank | .lext _ => true
  | _ => false

/-- An operand that is not a thread's own (R47). -/
def Spec.uniform : Spec → Bool
  | .v _ | .p _ => false
  | .special r => r.uniform
  | _ => true

/-! ### Raw canonical words (R193) -/

/-- The fields of a canonical word as they stand. -/
structure Raw where
  opc : BitVec 10
  t   : BitVec 3
  neg : BitVec 1
  gp  : BitVec 3
  d   : BitVec 8
  a   : BitVec 8
  b   : BitVec 8
  c   : BitVec 8
  z   : BitVec 3
  mod : BitVec 12
  imm : BitVec 32
deriving DecidableEq, Repr

/-- The fields of a canonical word (R193). -/
def Raw.ofWord (w : BitVec 96) : Raw :=
  ⟨w.extractLsb' 86 10, w.extractLsb' 83 3, w.extractLsb' 82 1, w.extractLsb' 79 3, w.extractLsb' 71 8,
   w.extractLsb' 63 8, w.extractLsb' 55 8, w.extractLsb' 47 8, w.extractLsb' 44 3, w.extractLsb' 32 12,
   w.extractLsb' 0 32⟩

/-- The canonical word of fields (R193). -/
def Raw.toWord (r : Raw) : BitVec 96 :=
  r.opc ++ r.t ++ r.neg ++ r.gp ++ r.d ++ r.a ++ r.b ++ r.c ++ r.z ++ r.mod ++ r.imm

/-- The fields of an operation as a raw word. -/
def Ops.raw (opc : Nat) (o : Ops) : Raw :=
  ⟨BitVec.ofNat 10 opc, BitVec.ofNat 3 o.t.val, BitVec.ofBool o.neg, BitVec.ofNat 3 o.gp.val,
   BitVec.ofNat 8 o.d.code, BitVec.ofNat 8 o.a.code, BitVec.ofNat 8 o.b.code, BitVec.ofNat 8 o.c.code, 0, o.mod, o.imm⟩

/-- The operation fields of a raw word whose specifiers are none of the reserved ones. -/
def Raw.ops? (r : Raw) : Option Ops :=
  match specOf r.d.toNat, specOf r.a.toNat, specOf r.b.toNat, specOf r.c.toNat with
  | some d, some a, some b, some c =>
    some ⟨r.neg == 1, ⟨r.gp.toNat, r.gp.isLt⟩, ⟨r.t.toNat, r.t.isLt⟩, d, a, b, c, r.mod, r.imm⟩
  | _, _, _, _ => none

/-! ### The opcode map (R196 to R199) -/

/-- Type kinds (R197); `x` is the kind of the cross-thread instructions (R243). -/
inductive Kind where
  | i | f | m | s | n | x
deriving DecidableEq, Repr

/-- Operand formats (R196). -/
inductive Fmt where
  | control | dest | unary | binary | ternary | load | store | atomic | engine
deriving DecidableEq, Repr

/-- What a field may name. -/
inductive Names where
  | v | g | p | q | acc | zero | imm | special
deriving DecidableEq, Repr

/-- What a specifier names. -/
def Spec.names : Spec → Names
  | .v _ => .v | .g _ => .g | .p _ => .p | .q _ => .q | .a _ => .acc | .zero => .zero | .imm => .imm | .special _ => .special

abbrev nNone : List Names := [.zero]
abbrev nSrc : List Names := [.v, .g, .zero, .special, .imm]
abbrev nSrcNoImm : List Names := [.v, .g, .zero, .special]
abbrev nDest : List Names := [.v, .g, .zero]
abbrev nV : List Names := [.v]
abbrev nG : List Names := [.g]
abbrev nP : List Names := [.p]
abbrev nQ : List Names := [.q]
abbrev nAcc : List Names := [.acc]
abbrev nImm : List Names := [.imm]
abbrev nVG : List Names := [.v, .g]
abbrev nGQ : List Names := [.g, .q]
abbrev nGImm : List Names := [.g, .imm]
abbrev nVGImm : List Names := [.v, .g, .imm]
abbrev nPQ : List Names := [.p, .q]
abbrev nPQImm : List Names := [.p, .q, .imm]
abbrev nBase : List Names := [.v, .g, .zero]
abbrev nIndex : List Names := [.v, .zero]
abbrev nData : List Names := [.v, .g, .zero, .imm]

/-- One row of the opcode map: what its entry accepts. `imm` are the bits IMM may have set when no field is 0xD1,
`v` the variant V of a matrix form. -/
structure Row where
  opc  : Nat
  kind : Kind
  fmt  : Fmt
  d : List Names
  a : List Names
  b : List Names
  c : List Names
  w  : Bool
  x2 : Bool
  rm : Bool
  subs : List Nat
  imm : Word
  v : Nat
  make : Ops → Instr

/-- The register fields of a compact operation as they stand: D, A, B, C, IMM12 and the s18 of movi (R204). -/
structure CompactFields where
  d : Fin 64
  a : Fin 64
  b : Fin 64
  c : Fin 64
  i : BitVec 12
  j : BitVec 18
deriving DecidableEq, Repr

/-- Which fields a compact form uses: registers D A B, D A B C, D A; immediate forms with a source or a displacement; movi. -/
inductive CompactShape where
  | rrr | rrrr | rr | rri | rrm | ri
deriving DecidableEq, Repr

/-- One compact FORM (R204). -/
structure CompactRow where
  form : Nat
  shape : CompactShape
  make : CompactFields → Instr

/-- A compact register number as a v register. -/
def vreg (n : Fin 64) : Fin 128 := ⟨n.val, by omega⟩

/-- The predicate of a compact compare: D from 0 to 7 (R204). -/
def preg (n : Fin 64) : Fin 8 := ⟨n.val % 8, by omega⟩

def rowsControl : List Row :=
  [⟨0x000, .n, .control, nNone, nNone, nNone, nNone, false, false, false, [0], 0x0, 0, .nop⟩,
   ⟨0x003, .n, .control, nNone, nNone, nNone, nNone, false, false, false, [0], 0x0, 0, .ret⟩,
   ⟨0x004, .n, .control, nNone, nNone, nNone, nNone, false, false, false, [0], 0x0, 0, .quit⟩,
   ⟨0x005, .n, .control, nNone, nNone, nNone, nNone, false, false, false, [0], 0x0, 0, .yield⟩,
   ⟨0x001, .n, .control, nNone, nNone, nNone, nNone, false, false, false, [0], 0xF, 0, .exit⟩,
   ⟨0x002, .n, .control, nNone, nNone, nNone, nNone, false, false, false, [0], 0xF, 0, .next⟩,
   ⟨0x008, .n, .control, nNone, nNone, nNone, nNone, false, false, false, [0], 0x7, 0, .barArrive⟩,
   ⟨0x009, .n, .control, nNone, nNone, nNone, nNone, false, false, false, [0], 0x7, 0, .barWait⟩,
   ⟨0x00A, .n, .control, nNone, nNone, nNone, nNone, false, false, false, [0], 0x7, 0, .barSync⟩,
   ⟨0x00C, .n, .binary, nV, nVG, nVG, nNone, false, false, false, [0], 0xFFFF, 0, .spawn⟩,
   ⟨0x010, .n, .control, nNone, nNone, nNone, nNone, false, false, false, [0], 0xF, 0, .trap⟩,
   ⟨0x011, .n, .control, nNone, nNone, nNone, nNone, false, false, false, [0], 0x3, 0, .tret⟩,
   ⟨0x012, .n, .control, nNone, nNone, nNone, nNone, false, false, false, [0], 0xFFFF, 0, .bkpt⟩,
   ⟨0x014, .i, .unary, nV, nVGImm, nNone, nNone, true, false, false, [0], 0x0, 0, .movs⟩,
   ⟨0x015, .n, .dest, nV, nNone, nNone, nNone, false, false, false, [0], 0x1FF, 0, .ctlr⟩,
   ⟨0x016, .n, .unary, nNone, nVG, nNone, nNone, false, false, false, [0], 0x1FF, 0, .ctlw⟩]

def rowsInteger : List Row :=
  [⟨0x040, .i, .binary, nDest, nSrc, nSrc, nNone, true, false, false, [0], 0x0, 0, .add⟩,
   ⟨0x041, .i, .ternary, nDest, nSrc, nSrc, nPQ, true, false, false, [0], 0x0, 0, .addc⟩,
   ⟨0x042, .i, .binary, nDest, nSrc, nSrc, nNone, true, false, false, [0], 0x0, 0, .sub⟩,
   ⟨0x043, .i, .ternary, nDest, nSrc, nSrc, nPQ, true, false, false, [0], 0x0, 0, .subb⟩,
   ⟨0x044, .i, .binary, nDest, nSrc, nSrc, nNone, true, false, false, [0], 0x0, 0, .mul⟩,
   ⟨0x045, .i, .binary, nDest, nSrc, nSrc, nNone, true, false, false, [0], 0x0, 0, .mulh⟩,
   ⟨0x046, .i, .ternary, nDest, nSrc, nSrc, nSrc, true, false, false, [0], 0x0, 0, .mad⟩,
   ⟨0x047, .i, .ternary, nDest, nSrc, nSrc, nSrc, false, false, false, [0], 0x0, 0, .madw⟩,
   ⟨0x048, .i, .binary, nDest, nSrc, nSrc, nNone, true, false, false, [0], 0x0, 0, .min⟩,
   ⟨0x049, .i, .binary, nDest, nSrc, nSrc, nNone, true, false, false, [0], 0x0, 0, .max⟩,
   ⟨0x04A, .i, .unary, nDest, nSrc, nNone, nNone, true, false, false, [0], 0x0, 0, .abs⟩,
   ⟨0x04B, .i, .unary, nDest, nSrc, nNone, nNone, true, false, false, [0], 0x0, 0, .neg⟩,
   ⟨0x04C, .i, .ternary, nDest, nSrc, nSrc, nSrc, true, false, false, [0], 0x0, 0, .clamp⟩,
   ⟨0x04D, .i, .binary, nDest, nSrc, nSrc, nNone, true, false, false, [0], 0x0, 0, .idiv⟩,
   ⟨0x04E, .i, .binary, nDest, nSrc, nSrc, nNone, true, false, false, [0], 0x0, 0, .irem⟩]

def rowsShift : List Row :=
  [⟨0x080, .i, .binary, nDest, nSrc, nSrc, nNone, true, false, false, [0], 0x0, 0, .shl⟩,
   ⟨0x081, .i, .binary, nDest, nSrc, nSrc, nNone, true, false, false, [0], 0x0, 0, .shr⟩,
   ⟨0x082, .i, .binary, nDest, nSrc, nSrc, nNone, true, false, false, [0], 0x0, 0, .sar⟩,
   ⟨0x083, .i, .binary, nDest, nSrc, nSrc, nNone, true, false, false, [0], 0x0, 0, .rotl⟩,
   ⟨0x084, .i, .ternary, nDest, nSrc, nSrc, nSrc, true, false, false, [0], 0x0, 0, .fsh⟩,
   ⟨0x085, .i, .ternary, nDest, nSrc, nSrc, nSrc, true, false, false, [0], 0x0, 0, .bfx⟩,
   ⟨0x086, .i, .ternary, nDest, nSrc, nSrc, nSrc, true, false, false, [0], 0x0, 0, .bfi⟩,
   ⟨0x087, .i, .unary, nDest, nSrc, nNone, nNone, true, false, false, [0], 0x0, 0, .popc⟩,
   ⟨0x088, .i, .unary, nDest, nSrc, nNone, nNone, true, false, false, [0], 0x0, 0, .clz⟩,
   ⟨0x089, .i, .unary, nDest, nSrc, nNone, nNone, true, false, false, [0], 0x0, 0, .ctz⟩,
   ⟨0x08A, .i, .unary, nDest, nSrc, nNone, nNone, true, false, false, [0], 0x0, 0, .brev⟩]

def rowsLogic : List Row :=
  [⟨0x090, .i, .binary, nDest, nSrc, nSrc, nNone, true, false, false, [0], 0x0, 0, .and⟩,
   ⟨0x091, .i, .binary, nDest, nSrc, nSrc, nNone, true, false, false, [0], 0x0, 0, .or⟩,
   ⟨0x092, .i, .binary, nDest, nSrc, nSrc, nNone, true, false, false, [0], 0x0, 0, .xor⟩,
   ⟨0x093, .i, .unary, nDest, nSrc, nNone, nNone, true, false, false, [0], 0x0, 0, .not⟩,
   ⟨0x094, .i, .binary, nDest, nSrc, nSrc, nNone, true, false, false, [0], 0x0, 0, .andn⟩,
   ⟨0x095, .i, .ternary, nDest, nSrcNoImm, nSrcNoImm, nSrcNoImm, true, false, false, [0], 0xFF, 0, .bool3⟩]

def rowsMove : List Row :=
  [⟨0x0C0, .i, .unary, nDest, nSrcNoImm, nNone, nNone, true, false, false, [0], 0x0, 0, .mov⟩,
   ⟨0x0C1, .i, .dest, nDest, nImm, nNone, nNone, true, false, false, [0], 0x0, 0, .movi⟩,
   ⟨0x0C2, .i, .ternary, nDest, nSrc, nSrc, nPQ, true, false, false, [0], 0x0, 0, .csel⟩,
   ⟨0x0C3, .i, .binary, nPQ, nSrc, nSrc, nNone, true, false, false, [0, 1, 2, 3, 4, 5], 0x0, 0, .cmp⟩,
   ⟨0x0C4, .i, .unary, nDest, nPQ, nNone, nNone, true, false, false, [0], 0x0, 0, .setv⟩,
   ⟨0x0C5, .n, .load, nDest, nBase, nIndex, nNone, false, false, false, [0, 1, 2, 3, 4], 0x0, 0, .lea⟩,
   ⟨0x0D0, .n, .binary, nPQ, nPQImm, nPQImm, nNone, false, false, false, [0], 0x0, 0, .pand⟩,
   ⟨0x0D1, .n, .binary, nPQ, nPQImm, nPQImm, nNone, false, false, false, [0], 0x0, 0, .por⟩,
   ⟨0x0D2, .n, .binary, nPQ, nPQImm, nPQImm, nNone, false, false, false, [0], 0x0, 0, .pxor⟩,
   ⟨0x0D3, .n, .unary, nPQ, nPQImm, nNone, nNone, false, false, false, [0], 0x0, 0, .pnot⟩,
   ⟨0x0D4, .n, .unary, nPQ, nPQImm, nNone, nNone, false, false, false, [0], 0x0, 0, .pmov⟩]

def rowsCross : List Row :=
  [⟨0x100, .x, .binary, nV, nVG, nGImm, nNone, true, false, false, [0], 0x0, 0, .xprev⟩,
   ⟨0x101, .x, .binary, nV, nVG, nGImm, nNone, true, false, false, [0, 1, 2, 3, 4, 5, 8, 9, 10, 11, 12, 13], 0x0, 0, .xscan⟩,
   ⟨0x102, .x, .unary, nG, nV, nNone, nNone, true, false, false, [0, 1, 2, 3, 4, 5], 0x0, 0, .xred⟩,
   ⟨0x103, .x, .binary, nV, nV, nGImm, nNone, true, false, false, [0], 0x0, 0, .xbcast⟩,
   ⟨0x104, .x, .binary, nG, nV, nGImm, nNone, true, false, false, [0], 0x0, 0, .xpick⟩,
   ⟨0x105, .x, .binary, nNone, nV, nVGImm, nNone, true, false, false, [0], 0x0, 0, .xput⟩,
   ⟨0x106, .x, .unary, nV, nVGImm, nNone, nNone, true, false, false, [0], 0x0, 0, .xget⟩,
   ⟨0x107, .n, .unary, nGQ, nP, nNone, nNone, false, false, false, [0, 1, 2, 3], 0x0, 0, .vote⟩,
   ⟨0x108, .n, .dest, nG, nNone, nNone, nNone, false, false, false, [0], 0x0, 0, .first⟩,
   ⟨0x109, .n, .dest, nG, nNone, nNone, nNone, false, false, false, [0], 0x0, 0, .actc⟩]

def rowsFloat : List Row :=
  [⟨0x140, .f, .binary, nDest, nSrc, nSrc, nNone, false, true, true, [0], 0x0, 0, .fadd⟩,
   ⟨0x141, .f, .binary, nDest, nSrc, nSrc, nNone, false, true, true, [0], 0x0, 0, .fsub⟩,
   ⟨0x142, .f, .binary, nDest, nSrc, nSrc, nNone, false, true, true, [0], 0x0, 0, .fmul⟩,
   ⟨0x143, .f, .ternary, nDest, nSrc, nSrc, nSrc, false, true, true, [0], 0x0, 0, .ffma⟩,
   ⟨0x144, .f, .binary, nDest, nSrc, nSrc, nNone, false, true, false, [0], 0x0, 0, .fmin⟩,
   ⟨0x145, .f, .binary, nDest, nSrc, nSrc, nNone, false, true, false, [0], 0x0, 0, .fmax⟩,
   ⟨0x146, .f, .binary, nDest, nSrc, nSrc, nNone, false, false, true, [0], 0x0, 0, .fdiv⟩,
   ⟨0x148, .f, .binary, nPQ, nSrc, nSrc, nNone, false, false, false, [0, 1, 2, 3, 4, 5, 6, 7], 0x0, 0, .fcmp⟩,
   ⟨0x149, .f, .binary, nPQ, nSrc, nVGImm, nNone, false, false, false, [0], 0x0, 0, .fclass⟩,
   ⟨0x14A, .f, .unary, nDest, nSrc, nNone, nNone, false, true, true, [0], 0x0, 0, .frnd⟩,
   ⟨0x14B, .f, .unary, nDest, nSrc, nNone, nNone, false, true, true, [0], 0x0, 0, .ffrac⟩]

def rowsFunc : List Row :=
  [⟨0x180, .f, .unary, nDest, nSrc, nNone, nNone, false, false, true, [0], 0x0, 0, .rcp⟩,
   ⟨0x181, .f, .unary, nDest, nSrc, nNone, nNone, false, false, true, [0], 0x0, 0, .rsq⟩,
   ⟨0x182, .f, .unary, nDest, nSrc, nNone, nNone, false, false, true, [0], 0x0, 0, .sqrt⟩,
   ⟨0x183, .f, .unary, nDest, nSrc, nNone, nNone, false, false, true, [0], 0x0, 0, .exp2⟩,
   ⟨0x184, .f, .unary, nDest, nSrc, nNone, nNone, false, false, true, [0], 0x0, 0, .log2⟩,
   ⟨0x185, .f, .unary, nDest, nSrc, nNone, nNone, false, false, true, [0], 0x0, 0, .sin⟩,
   ⟨0x186, .f, .unary, nDest, nSrc, nNone, nNone, false, false, true, [0], 0x0, 0, .cos⟩,
   ⟨0x187, .f, .unary, nDest, nSrc, nNone, nNone, false, false, true, [0], 0x0, 0, .tanh⟩,
   ⟨0x188, .f, .unary, nDest, nSrc, nNone, nNone, false, false, true, [0], 0x0, 0, .erf⟩]

def rowsConv : List Row :=
  [⟨0x190, .s, .unary, nDest, nSrc, nNone, nNone, true, true, true, [0, 1, 2, 3, 4, 5, 6, 7, 8, 9, 10, 11, 12, 13, 14, 15], 0x0, 0, .cvt⟩,
   ⟨0x191, .s, .binary, nDest, nSrc, nSrc, nNone, false, false, false, [0], 0x0, 0, .cvtSc⟩,
   ⟨0x192, .s, .unary, nDest, nSrc, nNone, nNone, false, false, false, [0], 0x0, 0, .bscale⟩,
   ⟨0x193, .s, .binary, nDest, nSrc, nSrc, nNone, false, false, false, [0], 0x0, 0, .pack⟩,
   ⟨0x194, .s, .unary, nDest, nSrc, nNone, nNone, false, false, false, [0, 1, 2, 3, 4, 5, 6, 7], 0x0, 0, .unpack⟩]

def rowsMem : List Row :=
  [⟨0x1C0, .m, .load, nDest, nBase, nIndex, nNone, false, false, false, [0, 1, 2, 3, 4], 0x0, 0, .ld⟩,
   ⟨0x1C1, .m, .store, nNone, nBase, nIndex, nData, false, false, false, [0, 1, 2, 3, 4], 0x0, 0, .st⟩,
   ⟨0x1C2, .m, .unary, nDest, nVGImm, nNone, nNone, false, false, false, [0], 0x0, 0, .ldk⟩,
   ⟨0x1C3, .m, .load, nNone, nBase, nIndex, nNone, false, false, false, [0, 1, 2, 3, 4], 0x0, 0, .prf⟩,
   ⟨0x1C4, .m, .atomic, nDest, nBase, nVGImm, nData, false, false, false, [0, 1, 2, 3, 4, 5, 6, 7, 8, 9, 10, 11, 12, 13, 14], 0x0, 0, .atom⟩,
   ⟨0x1C5, .m, .atomic, nNone, nBase, nVGImm, nNone, false, false, false, [0, 1, 2, 3, 4, 5, 6, 7, 10, 11, 12, 13, 14], 0x0, 0, .red⟩,
   ⟨0x1C8, .n, .binary, nNone, nVG, nVGImm, nNone, false, false, false, [0], 0x0, 0, .fenceR⟩,
   ⟨0x1C9, .n, .control, nNone, nNone, nNone, nNone, false, false, false, [0], 0x0, 0, .fence⟩,
   ⟨0x1CA, .n, .binary, nNone, nVG, nVGImm, nNone, false, false, false, [0, 1], 0x0, 0, .cctl⟩]

def rowsEngine : List Row :=
  [⟨0x200, .n, .engine, nNone, nG, nNone, nNone, false, false, false, [0], 0x0, 0, .copyBox⟩,
   ⟨0x201, .n, .engine, nNone, nVG, nVG, nNone, false, false, false, [0], 0x0, 0, .copyT⟩,
   ⟨0x202, .n, .engine, nNone, nG, nNone, nNone, false, false, false, [0], 0x0, 0, .copyFill⟩,
   ⟨0x204, .n, .engine, nNone, nG, nNone, nNone, false, false, false, [0], 0x0, 0, .layout⟩,
   ⟨0x208, .s, .engine, nAcc, nG, nG, nNone, false, false, false, [0], 0x0, 0, .mma⟩,
   ⟨0x208, .s, .engine, nAcc, nG, nG, nNone, false, false, false, [0], 0x0, 1, .mmaP⟩,
   ⟨0x208, .s, .engine, nAcc, nG, nG, nNone, false, false, false, [0], 0x0, 2, .mmaG⟩,
   ⟨0x208, .s, .engine, nAcc, nG, nG, nNone, false, false, false, [0], 0x0, 3, .mmaS⟩,
   ⟨0x20C, .n, .engine, nAcc, nNone, nNone, nNone, false, false, false, [0], 0x0, 0, .accClr⟩,
   ⟨0x20D, .n, .engine, nAcc, nG, nNone, nNone, false, false, false, [0], 0x0, 0, .accLd⟩,
   ⟨0x20E, .s, .engine, nG, nAcc, nNone, nNone, false, false, false, [0], 0x0, 0, .accSt⟩,
   ⟨0x20F, .n, .engine, nG, nAcc, nG, nNone, false, false, false, [0], 0x0, 0, .accStx⟩,
   ⟨0x210, .n, .engine, nNone, nG, nNone, nNone, false, false, false, [0, 1, 2, 3, 4, 5], 0x0, 0, .bankop⟩,
   ⟨0x218, .n, .engine, nNone, nGImm, nNone, nNone, false, false, false, [0], 0x0, 0, .cexp⟩,
   ⟨0x219, .n, .engine, nQ, nNone, nNone, nNone, false, false, false, [0], 0x0, 0, .cwait⟩,
   ⟨0x21A, .n, .engine, nNone, nGImm, nNone, nNone, false, false, false, [0], 0x0, 0, .cacq⟩,
   ⟨0x21B, .n, .engine, nG, nNone, nNone, nNone, false, false, false, [0], 0x0, 0, .cread⟩,
   ⟨0x21C, .n, .engine, nNone, nNone, nNone, nNone, false, false, false, [0], 0x0, 0, .creset⟩]

/-- The opcode map (R199) with what each entry accepts (R211, R220, R225 to R243, R249 to R260, R261 to R278, R283, R181). -/
def rows : List Row :=
  rowsControl ++ rowsInteger ++ rowsShift ++ rowsLogic ++ rowsMove ++ rowsCross ++ rowsFloat ++ rowsFunc ++ rowsConv ++ rowsMem ++ rowsEngine

/-- The opcode, variant V and fields of an operation with a canonical word. -/
def canonical : Instr → Option (Nat × Nat × Ops)
  | .nop o => some (0x000, 0, o)
  | .ret o => some (0x003, 0, o)
  | .quit o => some (0x004, 0, o)
  | .yield o => some (0x005, 0, o)
  | .exit o => some (0x001, 0, o)
  | .next o => some (0x002, 0, o)
  | .barArrive o => some (0x008, 0, o)
  | .barWait o => some (0x009, 0, o)
  | .barSync o => some (0x00A, 0, o)
  | .spawn o => some (0x00C, 0, o)
  | .trap o => some (0x010, 0, o)
  | .tret o => some (0x011, 0, o)
  | .bkpt o => some (0x012, 0, o)
  | .movs o => some (0x014, 0, o)
  | .ctlr o => some (0x015, 0, o)
  | .ctlw o => some (0x016, 0, o)
  | .add o => some (0x040, 0, o)
  | .addc o => some (0x041, 0, o)
  | .sub o => some (0x042, 0, o)
  | .subb o => some (0x043, 0, o)
  | .mul o => some (0x044, 0, o)
  | .mulh o => some (0x045, 0, o)
  | .mad o => some (0x046, 0, o)
  | .madw o => some (0x047, 0, o)
  | .min o => some (0x048, 0, o)
  | .max o => some (0x049, 0, o)
  | .abs o => some (0x04A, 0, o)
  | .neg o => some (0x04B, 0, o)
  | .clamp o => some (0x04C, 0, o)
  | .idiv o => some (0x04D, 0, o)
  | .irem o => some (0x04E, 0, o)
  | .shl o => some (0x080, 0, o)
  | .shr o => some (0x081, 0, o)
  | .sar o => some (0x082, 0, o)
  | .rotl o => some (0x083, 0, o)
  | .fsh o => some (0x084, 0, o)
  | .bfx o => some (0x085, 0, o)
  | .bfi o => some (0x086, 0, o)
  | .popc o => some (0x087, 0, o)
  | .clz o => some (0x088, 0, o)
  | .ctz o => some (0x089, 0, o)
  | .brev o => some (0x08A, 0, o)
  | .and o => some (0x090, 0, o)
  | .or o => some (0x091, 0, o)
  | .xor o => some (0x092, 0, o)
  | .not o => some (0x093, 0, o)
  | .andn o => some (0x094, 0, o)
  | .bool3 o => some (0x095, 0, o)
  | .mov o => some (0x0C0, 0, o)
  | .movi o => some (0x0C1, 0, o)
  | .csel o => some (0x0C2, 0, o)
  | .cmp o => some (0x0C3, 0, o)
  | .setv o => some (0x0C4, 0, o)
  | .lea o => some (0x0C5, 0, o)
  | .pand o => some (0x0D0, 0, o)
  | .por o => some (0x0D1, 0, o)
  | .pxor o => some (0x0D2, 0, o)
  | .pnot o => some (0x0D3, 0, o)
  | .pmov o => some (0x0D4, 0, o)
  | .xprev o => some (0x100, 0, o)
  | .xscan o => some (0x101, 0, o)
  | .xred o => some (0x102, 0, o)
  | .xbcast o => some (0x103, 0, o)
  | .xpick o => some (0x104, 0, o)
  | .xput o => some (0x105, 0, o)
  | .xget o => some (0x106, 0, o)
  | .vote o => some (0x107, 0, o)
  | .first o => some (0x108, 0, o)
  | .actc o => some (0x109, 0, o)
  | .fadd o => some (0x140, 0, o)
  | .fsub o => some (0x141, 0, o)
  | .fmul o => some (0x142, 0, o)
  | .ffma o => some (0x143, 0, o)
  | .fmin o => some (0x144, 0, o)
  | .fmax o => some (0x145, 0, o)
  | .fdiv o => some (0x146, 0, o)
  | .fcmp o => some (0x148, 0, o)
  | .fclass o => some (0x149, 0, o)
  | .frnd o => some (0x14A, 0, o)
  | .ffrac o => some (0x14B, 0, o)
  | .rcp o => some (0x180, 0, o)
  | .rsq o => some (0x181, 0, o)
  | .sqrt o => some (0x182, 0, o)
  | .exp2 o => some (0x183, 0, o)
  | .log2 o => some (0x184, 0, o)
  | .sin o => some (0x185, 0, o)
  | .cos o => some (0x186, 0, o)
  | .tanh o => some (0x187, 0, o)
  | .erf o => some (0x188, 0, o)
  | .cvt o => some (0x190, 0, o)
  | .cvtSc o => some (0x191, 0, o)
  | .bscale o => some (0x192, 0, o)
  | .pack o => some (0x193, 0, o)
  | .unpack o => some (0x194, 0, o)
  | .ld o => some (0x1C0, 0, o)
  | .st o => some (0x1C1, 0, o)
  | .ldk o => some (0x1C2, 0, o)
  | .prf o => some (0x1C3, 0, o)
  | .atom o => some (0x1C4, 0, o)
  | .red o => some (0x1C5, 0, o)
  | .fenceR o => some (0x1C8, 0, o)
  | .fence o => some (0x1C9, 0, o)
  | .cctl o => some (0x1CA, 0, o)
  | .copyBox o => some (0x200, 0, o)
  | .copyT o => some (0x201, 0, o)
  | .copyFill o => some (0x202, 0, o)
  | .layout o => some (0x204, 0, o)
  | .mma o => some (0x208, 0, o)
  | .mmaP o => some (0x208, 1, o)
  | .mmaG o => some (0x208, 2, o)
  | .mmaS o => some (0x208, 3, o)
  | .accClr o => some (0x20C, 0, o)
  | .accLd o => some (0x20D, 0, o)
  | .accSt o => some (0x20E, 0, o)
  | .accStx o => some (0x20F, 0, o)
  | .bankop o => some (0x210, 0, o)
  | .cexp o => some (0x218, 0, o)
  | .cwait o => some (0x219, 0, o)
  | .cacq o => some (0x21A, 0, o)
  | .cread o => some (0x21B, 0, o)
  | .creset o => some (0x21C, 0, o)
  | _ => none

def compactRowsA : List CompactRow :=
  [⟨0x00, .rrr, fun f => .addS32Compact f.d f.a f.b⟩,
   ⟨0x01, .rrr, fun f => .subS32Compact f.d f.a f.b⟩,
   ⟨0x02, .rrr, fun f => .mulS32Compact f.d f.a f.b⟩,
   ⟨0x03, .rrrr, fun f => .madS32Compact f.d f.a f.b f.c⟩,
   ⟨0x04, .rrr, fun f => .minS32Compact f.d f.a f.b⟩,
   ⟨0x05, .rrr, fun f => .maxS32Compact f.d f.a f.b⟩,
   ⟨0x06, .rrr, fun f => .minZ32Compact f.d f.a f.b⟩,
   ⟨0x07, .rrr, fun f => .maxZ32Compact f.d f.a f.b⟩,
   ⟨0x08, .rrr, fun f => .andCompact f.d f.a f.b⟩,
   ⟨0x09, .rrr, fun f => .orCompact f.d f.a f.b⟩,
   ⟨0x0A, .rrr, fun f => .xorCompact f.d f.a f.b⟩,
   ⟨0x0B, .rrr, fun f => .andnCompact f.d f.a f.b⟩,
   ⟨0x0C, .rrr, fun f => .shlCompact f.d f.a f.b⟩,
   ⟨0x0D, .rrr, fun f => .shrCompact f.d f.a f.b⟩,
   ⟨0x0E, .rrr, fun f => .sarCompact f.d f.a f.b⟩,
   ⟨0x0F, .rr, fun f => .movCompact f.d f.a⟩]

def compactRowsB : List CompactRow :=
  [⟨0x10, .rrr, fun f => .faddCompact f.d f.a f.b⟩,
   ⟨0x11, .rrr, fun f => .fsubCompact f.d f.a f.b⟩,
   ⟨0x12, .rrr, fun f => .fmulCompact f.d f.a f.b⟩,
   ⟨0x13, .rrrr, fun f => .ffmaCompact f.d f.a f.b f.c⟩,
   ⟨0x14, .rrr, fun f => .fminCompact f.d f.a f.b⟩,
   ⟨0x15, .rrr, fun f => .fmaxCompact f.d f.a f.b⟩,
   ⟨0x16, .rrr, fun f => .cmpEqS32Compact f.d f.a f.b⟩,
   ⟨0x17, .rrr, fun f => .cmpNeS32Compact f.d f.a f.b⟩,
   ⟨0x18, .rrr, fun f => .cmpLtS32Compact f.d f.a f.b⟩,
   ⟨0x19, .rrr, fun f => .cmpLeS32Compact f.d f.a f.b⟩,
   ⟨0x1A, .rrr, fun f => .cmpGtS32Compact f.d f.a f.b⟩,
   ⟨0x1B, .rrr, fun f => .cmpGeS32Compact f.d f.a f.b⟩,
   ⟨0x1C, .rrr, fun f => .cmpLtZ32Compact f.d f.a f.b⟩,
   ⟨0x1D, .rrr, fun f => .cmpLeZ32Compact f.d f.a f.b⟩,
   ⟨0x1E, .rrr, fun f => .cmpGtZ32Compact f.d f.a f.b⟩,
   ⟨0x1F, .rrr, fun f => .cmpGeZ32Compact f.d f.a f.b⟩,
   ⟨0x20, .rrr, fun f => .ldGmCompact f.d f.a f.b⟩,
   ⟨0x21, .rrr, fun f => .stGmCompact f.d f.a f.b⟩,
   ⟨0x22, .rrr, fun f => .ldSpCompact f.d f.a f.b⟩,
   ⟨0x23, .rrr, fun f => .stSpCompact f.d f.a f.b⟩]

def compactRowsC : List CompactRow :=
  [⟨0x40, .rri, fun f => .addImmCompact f.d f.a f.i⟩,
   ⟨0x41, .rri, fun f => .mulImmCompact f.d f.a f.i⟩,
   ⟨0x42, .rri, fun f => .andImmCompact f.d f.a f.i⟩,
   ⟨0x43, .rri, fun f => .orImmCompact f.d f.a f.i⟩,
   ⟨0x44, .rri, fun f => .xorImmCompact f.d f.a f.i⟩,
   ⟨0x45, .rri, fun f => .shlImmCompact f.d f.a f.i⟩,
   ⟨0x46, .rri, fun f => .shrImmCompact f.d f.a f.i⟩,
   ⟨0x47, .rri, fun f => .sarImmCompact f.d f.a f.i⟩,
   ⟨0x48, .ri, fun f => .moviCompact f.d f.j⟩,
   ⟨0x49, .rri, fun f => .cmpEqImmCompact f.d f.a f.i⟩,
   ⟨0x4A, .rri, fun f => .cmpNeImmCompact f.d f.a f.i⟩,
   ⟨0x4B, .rri, fun f => .cmpLtImmCompact f.d f.a f.i⟩,
   ⟨0x4C, .rri, fun f => .cmpLeImmCompact f.d f.a f.i⟩,
   ⟨0x4D, .rri, fun f => .cmpGtImmCompact f.d f.a f.i⟩,
   ⟨0x4E, .rri, fun f => .cmpGeImmCompact f.d f.a f.i⟩,
   ⟨0x50, .rrm, fun f => .ldGmImmCompact f.d f.a f.i⟩,
   ⟨0x51, .rrm, fun f => .stGmImmCompact f.d f.a f.i⟩,
   ⟨0x52, .rrm, fun f => .ldSpImmCompact f.d f.a f.i⟩,
   ⟨0x53, .rrm, fun f => .stSpImmCompact f.d f.a f.i⟩]

/-- The compact FORMs (R204). -/
def compactRows : List CompactRow := compactRowsA ++ compactRowsB ++ compactRowsC

/-- FORM, shape and fields of a compact operation. -/
def compact : Instr → Option (Nat × CompactShape × CompactFields)
  | .addS32Compact d a b => some (0x00, .rrr, ⟨d, a, b, 0, 0, 0⟩)
  | .subS32Compact d a b => some (0x01, .rrr, ⟨d, a, b, 0, 0, 0⟩)
  | .mulS32Compact d a b => some (0x02, .rrr, ⟨d, a, b, 0, 0, 0⟩)
  | .madS32Compact d a b c => some (0x03, .rrrr, ⟨d, a, b, c, 0, 0⟩)
  | .minS32Compact d a b => some (0x04, .rrr, ⟨d, a, b, 0, 0, 0⟩)
  | .maxS32Compact d a b => some (0x05, .rrr, ⟨d, a, b, 0, 0, 0⟩)
  | .minZ32Compact d a b => some (0x06, .rrr, ⟨d, a, b, 0, 0, 0⟩)
  | .maxZ32Compact d a b => some (0x07, .rrr, ⟨d, a, b, 0, 0, 0⟩)
  | .andCompact d a b => some (0x08, .rrr, ⟨d, a, b, 0, 0, 0⟩)
  | .orCompact d a b => some (0x09, .rrr, ⟨d, a, b, 0, 0, 0⟩)
  | .xorCompact d a b => some (0x0A, .rrr, ⟨d, a, b, 0, 0, 0⟩)
  | .andnCompact d a b => some (0x0B, .rrr, ⟨d, a, b, 0, 0, 0⟩)
  | .shlCompact d a b => some (0x0C, .rrr, ⟨d, a, b, 0, 0, 0⟩)
  | .shrCompact d a b => some (0x0D, .rrr, ⟨d, a, b, 0, 0, 0⟩)
  | .sarCompact d a b => some (0x0E, .rrr, ⟨d, a, b, 0, 0, 0⟩)
  | .movCompact d a => some (0x0F, .rr, ⟨d, a, 0, 0, 0, 0⟩)
  | .faddCompact d a b => some (0x10, .rrr, ⟨d, a, b, 0, 0, 0⟩)
  | .fsubCompact d a b => some (0x11, .rrr, ⟨d, a, b, 0, 0, 0⟩)
  | .fmulCompact d a b => some (0x12, .rrr, ⟨d, a, b, 0, 0, 0⟩)
  | .ffmaCompact d a b c => some (0x13, .rrrr, ⟨d, a, b, c, 0, 0⟩)
  | .fminCompact d a b => some (0x14, .rrr, ⟨d, a, b, 0, 0, 0⟩)
  | .fmaxCompact d a b => some (0x15, .rrr, ⟨d, a, b, 0, 0, 0⟩)
  | .cmpEqS32Compact d a b => some (0x16, .rrr, ⟨d, a, b, 0, 0, 0⟩)
  | .cmpNeS32Compact d a b => some (0x17, .rrr, ⟨d, a, b, 0, 0, 0⟩)
  | .cmpLtS32Compact d a b => some (0x18, .rrr, ⟨d, a, b, 0, 0, 0⟩)
  | .cmpLeS32Compact d a b => some (0x19, .rrr, ⟨d, a, b, 0, 0, 0⟩)
  | .cmpGtS32Compact d a b => some (0x1A, .rrr, ⟨d, a, b, 0, 0, 0⟩)
  | .cmpGeS32Compact d a b => some (0x1B, .rrr, ⟨d, a, b, 0, 0, 0⟩)
  | .cmpLtZ32Compact d a b => some (0x1C, .rrr, ⟨d, a, b, 0, 0, 0⟩)
  | .cmpLeZ32Compact d a b => some (0x1D, .rrr, ⟨d, a, b, 0, 0, 0⟩)
  | .cmpGtZ32Compact d a b => some (0x1E, .rrr, ⟨d, a, b, 0, 0, 0⟩)
  | .cmpGeZ32Compact d a b => some (0x1F, .rrr, ⟨d, a, b, 0, 0, 0⟩)
  | .ldGmCompact d a b => some (0x20, .rrr, ⟨d, a, b, 0, 0, 0⟩)
  | .stGmCompact d a b => some (0x21, .rrr, ⟨d, a, b, 0, 0, 0⟩)
  | .ldSpCompact d a b => some (0x22, .rrr, ⟨d, a, b, 0, 0, 0⟩)
  | .stSpCompact d a b => some (0x23, .rrr, ⟨d, a, b, 0, 0, 0⟩)
  | .addImmCompact d a i => some (0x40, .rri, ⟨d, a, 0, 0, i, 0⟩)
  | .mulImmCompact d a i => some (0x41, .rri, ⟨d, a, 0, 0, i, 0⟩)
  | .andImmCompact d a i => some (0x42, .rri, ⟨d, a, 0, 0, i, 0⟩)
  | .orImmCompact d a i => some (0x43, .rri, ⟨d, a, 0, 0, i, 0⟩)
  | .xorImmCompact d a i => some (0x44, .rri, ⟨d, a, 0, 0, i, 0⟩)
  | .shlImmCompact d a i => some (0x45, .rri, ⟨d, a, 0, 0, i, 0⟩)
  | .shrImmCompact d a i => some (0x46, .rri, ⟨d, a, 0, 0, i, 0⟩)
  | .sarImmCompact d a i => some (0x47, .rri, ⟨d, a, 0, 0, i, 0⟩)
  | .moviCompact d i => some (0x48, .ri, ⟨d, 0, 0, 0, 0, i⟩)
  | .cmpEqImmCompact d a i => some (0x49, .rri, ⟨d, a, 0, 0, i, 0⟩)
  | .cmpNeImmCompact d a i => some (0x4A, .rri, ⟨d, a, 0, 0, i, 0⟩)
  | .cmpLtImmCompact d a i => some (0x4B, .rri, ⟨d, a, 0, 0, i, 0⟩)
  | .cmpLeImmCompact d a i => some (0x4C, .rri, ⟨d, a, 0, 0, i, 0⟩)
  | .cmpGtImmCompact d a i => some (0x4D, .rri, ⟨d, a, 0, 0, i, 0⟩)
  | .cmpGeImmCompact d a i => some (0x4E, .rri, ⟨d, a, 0, 0, i, 0⟩)
  | .ldGmImmCompact d a i => some (0x50, .rrm, ⟨d, a, 0, 0, i, 0⟩)
  | .stGmImmCompact d a i => some (0x51, .rrm, ⟨d, a, 0, 0, i, 0⟩)
  | .ldSpImmCompact d a i => some (0x52, .rrm, ⟨d, a, 0, 0, i, 0⟩)
  | .stSpImmCompact d a i => some (0x53, .rrm, ⟨d, a, 0, 0, i, 0⟩)
  | _ => none

/-- The fields of the canonical word a compact operation expands to (R204), with its opcode. -/
def expand : Instr → Option (Nat × Nat × Ops)
  | .addS32Compact d a b => some (0x040, 0, ⟨false, 0, 0, .v (vreg d), .v (vreg a), .v (vreg b), .zero, 0x000, 0⟩)
  | .subS32Compact d a b => some (0x042, 0, ⟨false, 0, 0, .v (vreg d), .v (vreg a), .v (vreg b), .zero, 0x000, 0⟩)
  | .mulS32Compact d a b => some (0x044, 0, ⟨false, 0, 0, .v (vreg d), .v (vreg a), .v (vreg b), .zero, 0x000, 0⟩)
  | .madS32Compact d a b c => some (0x046, 0, ⟨false, 0, 0, .v (vreg d), .v (vreg a), .v (vreg b), .v (vreg c), 0x000, 0⟩)
  | .minS32Compact d a b => some (0x048, 0, ⟨false, 0, 0, .v (vreg d), .v (vreg a), .v (vreg b), .zero, 0x000, 0⟩)
  | .maxS32Compact d a b => some (0x049, 0, ⟨false, 0, 0, .v (vreg d), .v (vreg a), .v (vreg b), .zero, 0x000, 0⟩)
  | .minZ32Compact d a b => some (0x048, 0, ⟨false, 0, 1, .v (vreg d), .v (vreg a), .v (vreg b), .zero, 0x000, 0⟩)
  | .maxZ32Compact d a b => some (0x049, 0, ⟨false, 0, 1, .v (vreg d), .v (vreg a), .v (vreg b), .zero, 0x000, 0⟩)
  | .andCompact d a b => some (0x090, 0, ⟨false, 0, 2, .v (vreg d), .v (vreg a), .v (vreg b), .zero, 0x000, 0⟩)
  | .orCompact d a b => some (0x091, 0, ⟨false, 0, 2, .v (vreg d), .v (vreg a), .v (vreg b), .zero, 0x000, 0⟩)
  | .xorCompact d a b => some (0x092, 0, ⟨false, 0, 2, .v (vreg d), .v (vreg a), .v (vreg b), .zero, 0x000, 0⟩)
  | .andnCompact d a b => some (0x094, 0, ⟨false, 0, 2, .v (vreg d), .v (vreg a), .v (vreg b), .zero, 0x000, 0⟩)
  | .shlCompact d a b => some (0x080, 0, ⟨false, 0, 2, .v (vreg d), .v (vreg a), .v (vreg b), .zero, 0x000, 0⟩)
  | .shrCompact d a b => some (0x081, 0, ⟨false, 0, 2, .v (vreg d), .v (vreg a), .v (vreg b), .zero, 0x000, 0⟩)
  | .sarCompact d a b => some (0x082, 0, ⟨false, 0, 0, .v (vreg d), .v (vreg a), .v (vreg b), .zero, 0x000, 0⟩)
  | .movCompact d a => some (0x0C0, 0, ⟨false, 0, 2, .v (vreg d), .v (vreg a), .zero, .zero, 0x000, 0⟩)
  | .faddCompact d a b => some (0x140, 0, ⟨false, 0, 2, .v (vreg d), .v (vreg a), .v (vreg b), .zero, 0x000, 0⟩)
  | .fsubCompact d a b => some (0x141, 0, ⟨false, 0, 2, .v (vreg d), .v (vreg a), .v (vreg b), .zero, 0x000, 0⟩)
  | .fmulCompact d a b => some (0x142, 0, ⟨false, 0, 2, .v (vreg d), .v (vreg a), .v (vreg b), .zero, 0x000, 0⟩)
  | .ffmaCompact d a b c => some (0x143, 0, ⟨false, 0, 2, .v (vreg d), .v (vreg a), .v (vreg b), .v (vreg c), 0x000, 0⟩)
  | .fminCompact d a b => some (0x144, 0, ⟨false, 0, 2, .v (vreg d), .v (vreg a), .v (vreg b), .zero, 0x000, 0⟩)
  | .fmaxCompact d a b => some (0x145, 0, ⟨false, 0, 2, .v (vreg d), .v (vreg a), .v (vreg b), .zero, 0x000, 0⟩)
  | .cmpEqS32Compact d a b => some (0x0C3, 0, ⟨false, 0, 0, .p (preg d), .v (vreg a), .v (vreg b), .zero, 0x000, 0⟩)
  | .cmpNeS32Compact d a b => some (0x0C3, 0, ⟨false, 0, 0, .p (preg d), .v (vreg a), .v (vreg b), .zero, 0x010, 0⟩)
  | .cmpLtS32Compact d a b => some (0x0C3, 0, ⟨false, 0, 0, .p (preg d), .v (vreg a), .v (vreg b), .zero, 0x020, 0⟩)
  | .cmpLeS32Compact d a b => some (0x0C3, 0, ⟨false, 0, 0, .p (preg d), .v (vreg a), .v (vreg b), .zero, 0x030, 0⟩)
  | .cmpGtS32Compact d a b => some (0x0C3, 0, ⟨false, 0, 0, .p (preg d), .v (vreg a), .v (vreg b), .zero, 0x040, 0⟩)
  | .cmpGeS32Compact d a b => some (0x0C3, 0, ⟨false, 0, 0, .p (preg d), .v (vreg a), .v (vreg b), .zero, 0x050, 0⟩)
  | .cmpLtZ32Compact d a b => some (0x0C3, 0, ⟨false, 0, 1, .p (preg d), .v (vreg a), .v (vreg b), .zero, 0x020, 0⟩)
  | .cmpLeZ32Compact d a b => some (0x0C3, 0, ⟨false, 0, 1, .p (preg d), .v (vreg a), .v (vreg b), .zero, 0x030, 0⟩)
  | .cmpGtZ32Compact d a b => some (0x0C3, 0, ⟨false, 0, 1, .p (preg d), .v (vreg a), .v (vreg b), .zero, 0x040, 0⟩)
  | .cmpGeZ32Compact d a b => some (0x0C3, 0, ⟨false, 0, 1, .p (preg d), .v (vreg a), .v (vreg b), .zero, 0x050, 0⟩)
  | .ldGmCompact d a b => some (0x1C0, 0, ⟨false, 0, 4, .v (vreg d), .v (vreg a), .v (vreg b), .zero, 0x200, 0⟩)
  | .stGmCompact d a b => some (0x1C1, 0, ⟨false, 0, 4, .zero, .v (vreg a), .v (vreg b), .v (vreg d), 0x200, 0⟩)
  | .ldSpCompact d a b => some (0x1C0, 0, ⟨false, 0, 4, .v (vreg d), .v (vreg a), .v (vreg b), .zero, 0x240, 0⟩)
  | .stSpCompact d a b => some (0x1C1, 0, ⟨false, 0, 4, .zero, .v (vreg a), .v (vreg b), .v (vreg d), 0x240, 0⟩)
  | .addImmCompact d a i => some (0x040, 0, ⟨false, 0, 0, .v (vreg d), .v (vreg a), .imm, .zero, 0x000, i.signExtend 32⟩)
  | .mulImmCompact d a i => some (0x044, 0, ⟨false, 0, 0, .v (vreg d), .v (vreg a), .imm, .zero, 0x000, i.signExtend 32⟩)
  | .andImmCompact d a i => some (0x090, 0, ⟨false, 0, 2, .v (vreg d), .v (vreg a), .imm, .zero, 0x000, i.signExtend 32⟩)
  | .orImmCompact d a i => some (0x091, 0, ⟨false, 0, 2, .v (vreg d), .v (vreg a), .imm, .zero, 0x000, i.signExtend 32⟩)
  | .xorImmCompact d a i => some (0x092, 0, ⟨false, 0, 2, .v (vreg d), .v (vreg a), .imm, .zero, 0x000, i.signExtend 32⟩)
  | .shlImmCompact d a i => some (0x080, 0, ⟨false, 0, 2, .v (vreg d), .v (vreg a), .imm, .zero, 0x000, i.signExtend 32⟩)
  | .shrImmCompact d a i => some (0x081, 0, ⟨false, 0, 2, .v (vreg d), .v (vreg a), .imm, .zero, 0x000, i.signExtend 32⟩)
  | .sarImmCompact d a i => some (0x082, 0, ⟨false, 0, 0, .v (vreg d), .v (vreg a), .imm, .zero, 0x000, i.signExtend 32⟩)
  | .moviCompact d i => some (0x0C1, 0, ⟨false, 0, 2, .v (vreg d), .imm, .zero, .zero, 0x000, i.signExtend 32⟩)
  | .cmpEqImmCompact d a i => some (0x0C3, 0, ⟨false, 0, 0, .p (preg d), .v (vreg a), .imm, .zero, 0x000, i.signExtend 32⟩)
  | .cmpNeImmCompact d a i => some (0x0C3, 0, ⟨false, 0, 0, .p (preg d), .v (vreg a), .imm, .zero, 0x010, i.signExtend 32⟩)
  | .cmpLtImmCompact d a i => some (0x0C3, 0, ⟨false, 0, 0, .p (preg d), .v (vreg a), .imm, .zero, 0x020, i.signExtend 32⟩)
  | .cmpLeImmCompact d a i => some (0x0C3, 0, ⟨false, 0, 0, .p (preg d), .v (vreg a), .imm, .zero, 0x030, i.signExtend 32⟩)
  | .cmpGtImmCompact d a i => some (0x0C3, 0, ⟨false, 0, 0, .p (preg d), .v (vreg a), .imm, .zero, 0x040, i.signExtend 32⟩)
  | .cmpGeImmCompact d a i => some (0x0C3, 0, ⟨false, 0, 0, .p (preg d), .v (vreg a), .imm, .zero, 0x050, i.signExtend 32⟩)
  | .ldGmImmCompact d a i => some (0x1C0, 0, ⟨false, 0, 4, .v (vreg d), .v (vreg a), .zero, .zero, 0x000, i.signExtend 32⟩)
  | .stGmImmCompact d a i => some (0x1C1, 0, ⟨false, 0, 4, .zero, .v (vreg a), .zero, .v (vreg d), 0x000, i.signExtend 32⟩)
  | .ldSpImmCompact d a i => some (0x1C0, 0, ⟨false, 0, 4, .v (vreg d), .v (vreg a), .zero, .zero, 0x040, i.signExtend 32⟩)
  | .stSpImmCompact d a i => some (0x1C1, 0, ⟨false, 0, 4, .zero, .v (vreg a), .zero, .v (vreg d), 0x040, i.signExtend 32⟩)
  | i => canonical i

/-- An operation in memory, not a step of the machine. -/
def Instr.isOp (i : Instr) : Bool := (canonical i).isSome || (compact i).isSome

/-- What may come from outside while the package is not up, or is held in reset: bring-up, and a flash image for the recovery
mailbox (R388, R393). -/
def Instr.startsUp : Instr → Bool
  | .bringUp _ => true
  | .recoveryMailboxImage _ _ => true
  | _ => false

/-- The row of an opcode and variant. -/
def rowOf (opc v : Nat) : Option Row := rows.find? (fun r => r.opc == opc && r.v == v)

/-- The row of a raw word; the matrix opcode 0x208 is told apart by V (R181). -/
def Raw.row (r : Raw) : Option Row :=
  rowOf r.opc.toNat (if r.opc = 0x208#10 then (r.mod.extractLsb' 3 2).toNat else 0)

/-! ### Illegal encodings (R208) -/

/-- The modifier layouts of R198, R181 and R282. -/
inductive Layout where
  | compute | memory | matrix | command
deriving DecidableEq, Repr

/-- The modifier layout of a row. -/
def Row.layout (w : Row) : Layout :=
  if w.fmt == .engine then
    (if w.opc == 0x208 || (0x20C ≤ w.opc && w.opc ≤ 0x20F) then .matrix else .command)
  else if w.kind == .m || w.opc == 0x0C5 || w.opc == 0x1C8 || w.opc == 0x1C9 || w.opc == 0x1CA then .memory
  else .compute

/-- SUB, or the operation code in its place (R198, R282). -/
def Row.subOf (w : Row) (m : BitVec 12) : Nat :=
  match w.layout with
  | .compute => (m.extractLsb' 4 4).toNat
  | .matrix => 0
  | _ => (m.extractLsb' 8 4).toNat

/-- Some field holds 0xD1. -/
def Raw.hasImm (r : Raw) : Bool := r.a == 0xD1#8 || r.b == 0xD1#8 || r.c == 0xD1#8

/-- A reserved T value, or one the entry does not accept (R197, R225, R233, R243, R245, R254, R256, R262, R271, R287). -/
def badT (w : Row) (r : Raw) : Bool :=
  let t := r.t.toNat
  let sub := w.subOf r.mod
  match w.kind with
  | .i => decide (t > 2) || (w.opc == 0x04A && t != 0) || (w.opc == 0x014 && t != 2)
  | .x => t == 3
  | .f => decide (t > 3) || (t == 3 && decide (0x183 ≤ w.opc) && decide (w.opc ≤ 0x188))
  | .m =>
    if w.opc == 0x1C4 || w.opc == 0x1C5 then (t != 4 && t != 5) || (t == 5 && (sub == 13 || sub == 14))
    else if w.opc == 0x1C3 then t != 0
    else t == 7 || (w.opc != 0x1C2 && r.mod.extractLsb' 6 2 == 3 && t != 4 && t != 5)
  | .n => if w.opc == 0x210 then t == 3 || t == 6 || t == 7 else t != 0
  | .s => w.opc == 0x190 && decide (sub < 14) && t != 0

/-- A non-zero modifier bit that the entry does not use (R198, R228, R243, R245, R246, R256). -/
def badCompute (w : Row) (r : Raw) : Bool :=
  let m := r.mod
  let sub := w.subOf m
  let t := r.t.toNat
  m.extractLsb' 0 4 != 0 || (m.getLsbD 11 && !w.w) || (m.getLsbD 10 && !w.x2) || (m.extractLsb' 8 2 != 0 && !w.rm)
  || (w.kind == .x && m.getLsbD 11 && decide (t ≥ 4))
  || (w.kind == .f && m.getLsbD 10 && decide (t ≥ 2))
  || (w.opc == 0x190 && ((m.getLsbD 11 && !(decide (6 ≤ sub) && decide (sub ≤ 13)))
      || (m.getLsbD 10 && decide (sub > 3))
      || (m.extractLsb' 8 2 != 0 && (sub == 0 || sub == 1 || sub == 4 || sub == 14 || sub == 15))))

/-- The same in the memory layout (R198, R241, R261, R269 to R271, R277, R278). -/
def badMemory (w : Row) (r : Raw) : Bool :=
  let m := r.mod
  let sub := w.subOf m
  let sxOk := (w.opc == 0x1C4 || w.opc == 0x1C5) && r.t == 5 && decide (sub < 10) && r.hasImm
  let scaled := w.opc == 0x1C0 || w.opc == 0x1C1 || w.opc == 0x1C3 || w.opc == 0x0C5
  (m.getLsbD 0 && !sxOk)
  || (m.extractLsb' 6 2 != 0 && (w.opc == 0x1C2 || w.opc == 0x1C3 || w.opc == 0x1C9 || w.opc == 0x1CA))
  || (scaled && (m.getLsbD 11 || (r.b == 0xD0#8 && m.extractLsb' 8 3 != 0)))
  || (w.opc == 0x0C5 && m.extractLsb' 1 3 != 0)

/-- The same for the matrix queue, with its control operand (R181). -/
def badMatrix (w : Row) (r : Raw) : Bool :=
  let m := r.mod
  let add := m.getLsbD 9
  let sp := m.extractLsb' 7 2
  let dens := m.extractLsb' 5 2
  m.extractLsb' 10 2 != 0 || r.imm.extractLsb' 7 25 != 0
  || (r.imm.getLsbD 6 && (w.opc != 0x20C || r.imm.extractLsb' 0 6 != 0))
  || (if w.opc == 0x208 then add || sp != 0 || (dens != 0 && w.v != 3)
      else m.extractLsb' 0 7 != 0 || sp == 3 || (w.opc == 0x20C && sp != 0) || (add && (w.opc != 0x20F || sp != 2)))

/-- The same for the other engine commands and the cell commands (R282, R283, R287). -/
def badCommand (w : Row) (r : Raw) : Bool :=
  let m := r.mod
  let op := (m.extractLsb' 8 4).toNat
  let size := (m.extractLsb' 6 2).toNat
  (op != 0 && w.opc != 0x210) || (size != 0 && w.opc != 0x201 && w.opc != 0x210) || (size == 3 && w.opc == 0x201)
  || (w.opc == 0x210 && size != 0 && (r.t == 4 || r.t == 5 || op == 3 || op == 4))
  || (r.imm != 0 && !((w.opc == 0x218 || w.opc == 0x21A) && r.a == 0xD1#8))

/-- A non-zero IMM bit that the word does not use (R196, R199, R211, R226, R237, R242). -/
def badImm (w : Row) (r : Raw) : Bool :=
  match w.fmt with
  | .control => r.imm &&& ~~~w.imm != 0
  | .dest | .unary | .binary | .ternary =>
    if w.imm != 0 || !r.hasImm then r.imm &&& ~~~w.imm != 0
    else decide (0x0D0 ≤ w.opc) && decide (w.opc ≤ 0x0D4) && r.imm.extractLsb' 1 31 != 0
  | _ => false

/-- A non-zero SUB bit of an instruction whose entry gives no SUB (R198). -/
def Row.unusedSub (w : Row) (r : Raw) : Bool := (w.layout == .compute || w.layout == .memory) && w.subs == [0] && w.subOf r.mod != 0

/-- Detail 1: a non-zero bit in a zero or unused field, or a reserved T value. -/
def badFields (w : Row) (r : Raw) : Bool :=
  r.z != 0 || badT w r || badImm w r || w.unusedSub r ||
  (match w.layout with
   | .compute => badCompute w r | .memory => badMemory w r | .matrix => badMatrix w r | .command => badCommand w r)

/-- Which of A, B, C is a 64-bit source (R228, R231, R234 to R236, R245, R256). -/
def Row.wide (w : Row) (r : Raw) : Bool × Bool × Bool :=
  let ww := r.mod.getLsbD 11
  let sub := w.subOf r.mod
  match w.kind with
  | .i =>
    if w.opc == 0x047 then (false, false, true)
    else if w.opc == 0x014 then (false, false, false)
    else (ww, ww && !(decide (0x080 ≤ w.opc) && decide (w.opc ≤ 0x083)) && w.opc != 0x085,
          ww && (w.opc == 0x046 || w.opc == 0x04C || w.opc == 0x095))
  | .f => let d := r.t == 3
          (d, d && w.opc != 0x149, d)
  | .s => if w.opc == 0x190 then
            (sub == 5 || sub == 12 || sub == 13 || (ww && (sub == 6 || sub == 7 || sub == 10 || sub == 11)) ||
              (r.mod.getLsbD 10 && (sub == 2 || sub == 3)), false, false)
          else (false, false, false)
  | _ => (false, false, false)

/-- A special register that cannot be read as a pair (R195, R228, R238). -/
def notPair : Option Spec → Bool
  | some (.special r) => !r.pairs
  | _ => false

/-- Detail 3: a register kind that a field does not accept. -/
def badKinds (w : Row) (r : Raw) (d a b c : Option Spec) : Bool :=
  let no := fun (l : List Names) (s : Option Spec) => match s with | some x => !l.contains x.names | none => false
  let sub := w.subOf r.mod
  let cAcc : List Names := if w.opc == 0x1C4 then (if sub == 9 then nVGImm else nNone) else w.c
  let (wa, wb, wc) := w.wide r
  (no w.d d && r.d != 0xD1#8) || no w.a a || no w.b b || no cAcc c
  || (wa && notPair a) || (wb && notPair b) || (wc && notPair c)
  || (w.opc == 0x1C1 && r.t == 6 && r.c == 0xD1#8)
  || (w.opc == 0x107 && decide (sub < 4) && (if sub < 2 then d.map Spec.names != some .q else d.map Spec.names != some .g))
  || ((w.opc == 0x041 || w.opc == 0x043) &&
      (match c.map Spec.names, d.map Spec.names with
       | some .q, some .g => false | some .q, _ => true | some .p, some .zero => true | _, _ => false)
      )
  || ((w.opc == 0x041 || w.opc == 0x043) && c == some (.p 0))

/-- The operations of R210, never uniform. -/
def Row.perThread (w : Row) : Bool := decide (w.opc < 0x040)

/-- A uniform instruction (R47): engine and cell commands, xpick, first and actc, and every one whose operands are uniform. -/
def Row.uniform (w : Row) (d a b c : Option Spec) : Bool :=
  let u := fun (s : Option Spec) => match s with | some x => x.uniform | none => true
  w.fmt == .engine || w.opc == 0x104 || w.opc == 0x108 || w.opc == 0x109
  || (!w.perThread && u d && u a && u b && u c)

/-- Detail 6: a g or q destination written from a per-thread source (R47). -/
def badMix (w : Row) (d a b c : Option Spec) : Bool :=
  let u := fun (s : Option Spec) => match s with | some x => x.uniform | none => true
  w.fmt != .engine && !w.perThread && !(decide (0x100 ≤ w.opc) && decide (w.opc ≤ 0x109))
  && (match d with | some (.g _) | some (.q _) => true | _ => false) && !(u a && u b && u c)

/-- Detail 7: an ordering annotation the entry does not allow (R241, R266). -/
def badOrder (w : Row) (r : Raw) : Bool :=
  w.layout == .memory &&
  (let ord := (r.mod.extractLsb' 4 2).toNat
   let ok : List Nat :=
     if w.opc == 0x1C0 then [0, 1] else if w.opc == 0x1C1 || w.opc == 0x1C5 then [0, 2]
     else if w.opc == 0x1C4 then [0, 1, 2] else if w.opc == 0x1C8 || w.opc == 0x1C9 then [1, 2, 3] else [0]
   !ok.contains ord || (ord == 0 && r.mod.extractLsb' 1 3 != 0))

/-- Detail 8: a variant or SUB value that the entry does not give (R211, R226, R240, R244, R271, R280). -/
def badSub (w : Row) (r : Raw) : Bool :=
  let sub := w.subOf r.mod
  let n := r.imm.toNat
  (w.layout != .matrix && !w.subs.contains sub)
  || ((w.opc == 0x001 || w.opc == 0x002) && n % 16 == 0)
  || (w.opc == 0x0C3 && r.t == 2 && decide (sub > 1))
  || ((w.opc == 0x101 || w.opc == 0x102) && decide (r.t.toNat ≥ 4) && decide (sub % 8 ≥ 3))
  || (w.opc == 0x208 && r.mod.extractLsb' 5 2 == 3)
  || ((w.opc == 0x015 || w.opc == 0x016) && !(decide (n ≤ 3) || (decide (0x100 ≤ n) && decide (n ≤ 0x187))))

/-- Detail 10: an engine operand register outside its alignment (R181, R283). -/
def badAlign (w : Row) (r : Raw) (d a b : Option Spec) : Bool :=
  let al := fun (k top : Nat) (s : Option Spec) =>
    match s with | some (.g n) => n.val % k != 0 || decide (n.val > top) | some (.v n) => n.val % k != 0 | _ => false
  let even := fun s => al 2 62 s
  let pairSp := r.mod.extractLsb' 7 2 != 2
  if w.opc == 0x200 then al 2 58 a
  else if w.opc == 0x201 then even a || even b
  else if w.opc == 0x202 then al 2 60 a
  else if w.opc == 0x204 then al 8 56 a
  else if w.opc == 0x210 then al 4 60 a
  else if w.opc == 0x21B then even d
  else if w.opc == 0x208 then al 4 60 a || al 4 60 b
  else if w.opc == 0x20D then pairSp && even a
  else if w.opc == 0x20E then pairSp && even d
  else if w.opc == 0x20F then (pairSp && even d) || even b
  else false

/-- The class-1 detail of a canonical word, the first row of R208 that it breaks; none when it is an instruction. -/
def Raw.detail (r : Raw) : Option Nat :=
  match r.row with
  | none => some 0
  | some w =>
    let d := specOf r.d.toNat
    let a := specOf r.a.toNat
    let b := specOf r.b.toNat
    let c := specOf r.c.toNat
    let special := match d with | some (.special _) => true | _ => false
    let imms := (if r.a == 0xD1#8 then 1 else 0) + (if r.b == 0xD1#8 then 1 else 0) + (if r.c == 0xD1#8 then 1 else 0)
    if badFields w r then some 1
    else if d.isNone || a.isNone || b.isNone || c.isNone || special then some 2
    else if badKinds w r d a b c then some 3
    else if decide (imms > 1) || r.d == 0xD1#8 then some 4
    else if w.uniform d a b c && (r.neg != 0 || r.gp != 0) then some 5
    else if badMix w d a b c then some 6
    else if badOrder w r then some 7
    else if badSub w r then some 8
    else if (w.opc == 0x1C4 || w.opc == 0x1C5) && r.mod.extractLsb' 6 2 == 3 then some 9
    else if badAlign w r d a b then some 10
    else none

/-- Whether a raw word is uniform as far as its fields can be read. -/
def Raw.uniform (r : Raw) : Bool :=
  match r.row with
  | none => false
  | some w => w.uniform (specOf r.d.toNat) (specOf r.a.toNat) (specOf r.b.toNat) (specOf r.c.toNat)

/-- The class-1 detail of an operation's canonical word, and of a compact form its own conditions: D of a compare
is 0 to 7 (R204; log entry 11). -/
def Instr.detail (i : Instr) : Option Nat :=
  match compact i with
  | some (form, _, f) =>
    if ((decide (0x16 ≤ form) && decide (form ≤ 0x1F)) || (decide (0x49 ≤ form) && decide (form ≤ 0x4E))) && decide (f.d.val > 7)
    then some 3 else none
  | none =>
    match canonical i with
    | some (opc, v, o) =>
      if opc == 0x208 && (o.mod.extractLsb' 3 2).toNat != v then some 8 else (o.raw opc).detail
    | none => none

/-! ### Decoding operations (R201, R204 to R206) -/

/-- What the bytes at the head of a list are. `bad` gives the class-1 detail, the guard and whether the word is uniform;
`short` says that the item runs past the bytes given. -/
inductive Decoded where
  | op (i : Instr) (rest : List Byte)
  | bad (detail : Nat) (neg : Bool) (gp : Fin 8) (uniform : Bool) (rest : List Byte)
  | short
deriving DecidableEq, Repr

/-- Bytes as one number, most significant first (R201). -/
def beNat (l : List Byte) : Nat := l.foldl (fun n b => n * 256 + b.toNat) 0

/-- The bytes of a number, most significant first (R201). -/
def beBytes : Nat → Nat → List Byte
  | 0, _ => []
  | k + 1, n => BitVec.ofNat 8 (n / 256 ^ k) :: beBytes k n

/-- The instruction of a canonical word (R193 to R200). -/
def decodeRaw (r : Raw) (rest : List Byte) : Decoded :=
  match r.detail with
  | some k => .bad k (r.neg == 1) ⟨r.gp.toNat, r.gp.isLt⟩ r.uniform rest
  | none =>
    match r.row, r.ops? with
    | some w, some o => .op (w.make o) rest
    | _, _ => .bad 0 false 0 false rest

/-- The fields of a compact operation (R204). -/
def compactFields (x : BitVec 32) : CompactFields :=
  ⟨⟨(x.extractLsb' 18 6).toNat, (x.extractLsb' 18 6).isLt⟩, ⟨(x.extractLsb' 12 6).toNat, (x.extractLsb' 12 6).isLt⟩,
   ⟨(x.extractLsb' 6 6).toNat, (x.extractLsb' 6 6).isLt⟩, ⟨(x.extractLsb' 0 6).toNat, (x.extractLsb' 0 6).isLt⟩,
   x.extractLsb' 0 12, x.extractLsb' 0 18⟩

/-- A field that the form does not use is not 0 (R204). -/
def compactUnused (s : CompactShape) (f : CompactFields) : Bool :=
  match s with
  | .rrr => f.c != 0
  | .rr => f.b != 0 || f.c != 0
  | _ => false

/-- The instruction of a compact word (R204). -/
def decodeCompact (x : BitVec 32) (rest : List Byte) : Decoded :=
  match compactRows.find? (fun r => r.form == (x.extractLsb' 24 8).toNat) with
  | none => .bad 15 false 0 false rest
  | some row =>
    let f := compactFields x
    if compactUnused row.shape f then .bad 1 false 0 false rest
    else
      match (row.make f).detail with
      | some k => .bad k false 0 false rest
      | none => .op (row.make f) rest

/-- The canonical fields of a wide operation (R205). -/
def wideRaw (x : BitVec 64) : Raw :=
  let opc := x.extractLsb' 51 10
  let imm := x.getLsbD 61
  let row := rowOf opc.toNat (if opc = 0x208#10 then (x.extractLsb' 3 2).toNat else 0)
  let bSrc : Bool := match row with
    | some w => w.fmt == .binary || w.fmt == .ternary
    | none => false
  ⟨opc, x.extractLsb' 48 3, x.extractLsb' 47 1, x.extractLsb' 44 3, x.extractLsb' 36 8, x.extractLsb' 28 8,
   if imm then (if bSrc then 0xD1 else 0xD0) else x.extractLsb' 20 8,
   if imm then 0xD0 else x.extractLsb' 12 8, 0, x.extractLsb' 0 12,
   if imm then (x.extractLsb' 12 16).signExtend 32 else 0⟩

/-- The operation at the head of a byte list, by its lead byte (R201). A lead byte of a node or segment header or a
reserved one is no operation: detail 11. -/
def decodeOp (l : List Byte) : Decoded :=
  match l with
  | [] => .short
  | b :: rest =>
    let k := b.toNat
    if k < 0x80 then
      if rest.length < 3 then .short else decodeCompact (BitVec.ofNat 32 (beNat (b :: rest.take 3))) (rest.drop 3)
    else if k < 0xC0 then
      if rest.length < 7 then .short else decodeRaw (wideRaw (BitVec.ofNat 64 (beNat (b :: rest.take 7)))) (rest.drop 7)
    else if k == 0xE8 then
      if rest.length < 12 then .short else decodeRaw (Raw.ofWord (BitVec.ofNat 96 (beNat (rest.take 12)))) (rest.drop 12)
    else .bad 11 false 0 false rest

/-- The number of bytes of the operation with this lead byte (R201). -/
def opLength (b : Byte) : Option Nat :=
  let k := b.toNat
  if k < 0x80 then some 4 else if k < 0xC0 then some 8 else if k == 0xE8 then some 13 else none

/-! ### Headers (R202, R203) -/

/-- Node kinds with their operands (R29, R202). `test` is the predicate or index specifier. -/
inductive NodeKind where
  | seq | block
  | sel (p : Spec)
  | case (v : Spec)
  | loopWhile (p : Spec) (bound : Nat)
  | loopUntil (p : Spec) (bound : Nat)
  | loopCount (v : Fin 128) (n : Spec) (imm bound : Nat)
  | call (proc off : Nat)
  | callI (v : Fin 128) (off : Nat) (targets : List Nat)
  | reform
  | safe (n : Nat)
  | clause
deriving DecidableEq, Repr

/-- A node header: kind with operands, COUNT, LEN and the bytes of the header with its operands (R202). -/
structure Header where
  kind : NodeKind
  count : Nat
  len : Nat
  size : Nat
deriving DecidableEq, Repr

/-- Two-byte procedure numbers in order. -/
def procNums : Nat → List Byte → List Nat
  | 0, _ => []
  | k + 1, a :: b :: rest => (a.toNat * 256 + b.toNat) :: procNums k rest
  | _ + 1, _ => []

/-- No number twice. -/
def distinct : List Nat → Bool
  | [] => true
  | a :: l => !l.contains a && distinct l

/-- A bound is 0 or 1 to 65,536 (R202). -/
def boundOk (n : Nat) : Bool := decide (n ≤ 65536)

/-- The operands of a node kind (R202): its kind and the bytes they take, or a class-1 detail. -/
def nodeOperands (code count : Nat) (l : List Byte) : Except Nat (NodeKind × Nat) :=
  let byte := fun (k : Nat) => (l.getD k 0).toNat
  let spec := fun (k : Nat) => specOf (byte k)
  let three := fun (k : Nat) => beNat ((l.drop k).take 3)
  let pred := fun (k : Nat) => match spec k with | some (.p n) => some (Spec.p n) | some (.q n) => some (.q n) | _ => none
  let leaf := count == 0
  let body := decide (1 ≤ count) && decide (count ≤ 64)
  match code with
  | 0x00 => if body then .ok (.seq, 0) else .error 13
  | 0x01 => if body then .ok (.block, 0) else .error 13
  | 0x02 => match pred 0 with
    | some p => if count == 2 then .ok (.sel p, 1) else .error 13
    | none => .error 13
  | 0x03 => match spec 0 with
    | some (.v n) => if body then .ok (.case (.v n), 1) else .error 13
    | some (.g n) => if body then .ok (.case (.g n), 1) else .error 13
    | _ => .error 13
  | 0x04 => match pred 0 with
    | some p => if count == 1 && boundOk (three 1) then .ok (.loopWhile p (three 1), 4) else .error 13
    | none => .error 13
  | 0x05 => match pred 0 with
    | some p => if count == 1 && boundOk (three 1) then .ok (.loopUntil p (three 1), 4) else .error 13
    | none => .error 13
  | 0x06 =>
    match spec 0, spec 1 with
    | some (.v v), some .imm =>
      if count == 1 && decide (1 ≤ three 2) && boundOk (three 2) && boundOk (three 5) then .ok (.loopCount v .imm (three 2) (three 5), 8) else .error 13
    | some (.v v), some (.v n) => if count == 1 && three 2 == 0 && boundOk (three 5) then .ok (.loopCount v (.v n) 0 (three 5), 8) else .error 13
    | some (.v v), some (.g n) => if count == 1 && three 2 == 0 && boundOk (three 5) then .ok (.loopCount v (.g n) 0 (three 5), 8) else .error 13
    | _, _ => .error 13
  | 0x07 =>
    if leaf && decide (1 ≤ byte 2) && decide (byte 2 ≤ 15) then .ok (.call (byte 0 * 256 + byte 1) (8 * byte 2), 3) else .error 13
  | 0x08 =>
    match spec 0 with
    | some (.v v) =>
      let m := byte 2
      let ts := procNums m (l.drop 3)
      if leaf && decide (1 ≤ byte 1) && decide (byte 1 ≤ 15) && decide (1 ≤ m) && decide (m ≤ 16) && ts.length == m && distinct ts
      then .ok (.callI v (8 * byte 1) ts, 3 + 2 * m) else .error 13
    | _ => .error 13
  | 0x09 => if leaf then .ok (.reform, 0) else .error 13
  | 0x0A => if leaf then .ok (.safe (byte 0), 1) else .error 13
  | 0x0B => if body then .ok (.clause, 0) else .error 13
  | _ => .error 12

/-- The node header at the head of a byte list (R202); LEN holds at least the header. -/
def decodeHeader (l : List Byte) : Except Nat Header :=
  match l with
  | k :: c :: x :: y :: z :: rest =>
    if k.toNat < 0xC0 || k.toNat > 0xDF then .error 11
    else
      match nodeOperands (k.toNat - 0xC0) c.toNat rest with
      | .error e => .error e
      | .ok (kind, n) =>
        if rest.length < n then .error 13
        else if beNat [x, y, z] < 5 + n then .error 13
        else .ok ⟨kind, c.toNat, beNat [x, y, z], 5 + n⟩
  | _ => .error 13

/-- A segment header (R203). A flag number of 0xF is none. -/
structure Segment where
  wait : BitVec 12
  set0 : Option Nat
  set1 : Option Nat
  ops : Nat
deriving DecidableEq, Repr

/-- The segment header at the head of a byte list (R203). -/
def decodeSegment (l : List Byte) : Except Nat Segment :=
  if l.length < 4 then .error 14
  else if 0xE9 ≤ (l.headD 0).toNat then .error 11
  else
    let x := BitVec.ofNat 32 (beNat (l.take 4))
    let s0 := (x.extractLsb' 11 4).toNat
    let s1 := (x.extractLsb' 7 4).toNat
    let n := (x.extractLsb' 0 7).toNat
    if x.extractLsb' 27 5 != 0b11100 then .error 14
    else if (decide (s0 < 12) || s0 == 15) && (decide (s1 < 12) || s1 == 15) && (s0 != 15 || s1 == 15)
        && (s0 != s1 || s0 == 15) && decide (1 ≤ n) && decide (n ≤ 64) then
      .ok ⟨x.extractLsb' 15 12, if s0 == 15 then none else some s0, if s1 == 15 then none else some s1, n⟩
    else .error 14

/-- The bytes of a segment header (R203). -/
def encodeSegment (s : Segment) : List Byte :=
  beBytes 4 (0b11100 * 2 ^ 27 + s.wait.toNat * 2 ^ 15 + (s.set0.getD 15) * 2 ^ 11 + (s.set1.getD 15) * 2 ^ 7 + s.ops)

/-! ### Encoding (R204, R206) -/

/-- The word of a compact operation (R204). -/
def compactWord (form : Nat) (s : CompactShape) (f : CompactFields) : BitVec 32 :=
  let hd := BitVec.ofNat 8 form ++ BitVec.ofNat 6 f.d.val
  match s with
  | .ri => hd ++ f.j
  | .rri | .rrm => hd ++ BitVec.ofNat 6 f.a.val ++ f.i
  | _ => hd ++ BitVec.ofNat 6 f.a.val ++ BitVec.ofNat 6 f.b.val ++ BitVec.ofNat 6 f.c.val

/-- The bytes of an operation: a compact form in its four bytes, every other operation as the escape that any
canonical word may be written as (R206). A step of the machine has no bytes. -/
def encode (i : Instr) : List Byte :=
  match compact i with
  | some (form, s, f) => beBytes 4 (compactWord form s f).toNat
  | none =>
    match canonical i with
    | some (opc, _, o) => 0xE8 :: beBytes 12 ((o.raw opc).toWord).toNat
    | none => []

/-- The bytes of a word of nbits bits as the code stream stores them: 32-bit words in order, each most significant
byte first (R201), then zero bytes up to the longest operation. -/
def tableBytes (nbits w : Nat) : List Byte :=
  beBytes 4 (w % 2 ^ 32) ++ beBytes 4 (w / 2 ^ 32 % 2 ^ 32) ++ beBytes 4 (w / 2 ^ 64 % 2 ^ 32) ++
    (if nbits ≤ 96 then [0] else beBytes 1 (w / 2 ^ 96 % 2 ^ 8))

/-- The instruction that the decoder reads from a word of the opcode table (its bit 0 the least significant bit of the word). -/
def decodeTableWord (nbits w : Nat) : Option Instr :=
  match decodeOp (tableBytes nbits w) with
  | .op i _ => some i
  | _ => none

end Sys2Proof
end

