-- ==== Sys2Proof/Config.lean ====
section
/-! DEFINITION. What an implementation fixes and what the manual leaves free. Every free value is a
constant with no body: nothing can be proved of the number it gives (log entry 5). -/

namespace Sys2Proof.Config

/-- FREE: the k-th open choice of a run (which agent moves next, which element an engine moves, which
core takes a block), used when the state's own choice list is empty. Log entry 5. -/
opaque choose : Nat → Nat

/-- FREE: data whose value the manual does not state, the k-th such value of a run. Log entry 6. -/
opaque freeValue : Nat → BitVec 128

/-- FREE: the SM3 digest (GB/T 32905, outside the manual; R296, R301, R362). Log entry 7. -/
opaque sm3 : List Byte → BitVec 256

/-- FREE: verification of an SM2 signature by a public key over a message with the distinguishing
identifier (GB/T 32918.2, outside the manual; R296, R364, R375). Log entry 7. -/
opaque sm2Verify : BitVec 512 → List Byte → List Byte → BitVec 512 → Bool

/-- FREE: the SM2 signature by the device's leaf key of slot 0 (R362). Log entry 7. -/
opaque sm2Sign : List Byte → BitVec 512

/-- FREE: one SM4 block encipherment under a key (R354). Log entry 7. -/
opaque sm4 : BitVec 128 → BitVec 128 → BitVec 128

/-- FREE: GHASH under a hash key over a byte string (R354). Log entry 7. -/
opaque ghash : BitVec 128 → List Byte → BitVec 128

/-- FREE: the output of the n-th DRBG generation of the part's life (R360). Log entry 7. -/
opaque drbg : Nat → BitVec 256

/-- FREE: the device identity chain of certificate slot 0 (R362). Log entry 7. -/
opaque certChain : List Byte

/-- FREE: the public key under which firmware is signed, the device signer (R375, R388). Log entry 7. -/
opaque deviceSigner : BitVec 512

/-- FREE: the last bit of an elementary function whose enclosure did not decide the rounding; function,
type and operand code (R254). Log entry 8. -/
opaque undecided : Nat → Nat → Nat → Bool

/-- FREE: the memory-side cache slice, or the HBM channel, that holds a line of HBM (R274, R380). Log entry 17. -/
opaque homeIndex : Nat → Nat

/-- FREE: the length in bytes of the export window of a partition on another chip, by FABID and partition (R332). Log entry 12. -/
opaque peerWindow : Nat → Nat → Nat

/-- FREE: the default PASID of a virtual function, by partition (R315). Log entry 19. -/
opaque defaultPasid : Nat → Nat

/-- FREE: the FABID of the chip at the far end of a fabric port (R376). Log entry 20. -/
opaque portTo : Nat → Nat

/-- FREE: the channel of a stack that holds an HBM line, and the row of the channel (R369). Log entry 21. -/
opaque channelOf : Nat → Nat
/-- FREE: see channelOf. -/
opaque rowOf : Nat → Nat
/-- FREE: the bank of a row, and the spare rows of a bank (R369, R370). Log entry 21. -/
opaque rowBank : Nat → Nat → Nat
/-- FREE: see rowBank. -/
opaque spareRows : Nat

/-- FREE: the bytes of the partition map and the carve-outs that measurement block 4 covers (R362). Log entry 7. -/
opaque mapBytes : List Nat → List Byte

/-- FREE: what a staged firmware object holds (its format stands in no rule): whether a Markhor kernel, an Eland patch set, the
security version, the digest of a measurement block (R375). Log entry 23. -/
opaque fwKernel : List Byte → Bool
/-- FREE: see fwKernel. -/
opaque fwEland : List Byte → Bool
/-- FREE: see fwKernel. -/
opaque fwVersion : List Byte → Nat
/-- FREE: see fwKernel. -/
opaque fwDigest : Nat → List Byte → BitVec 256

/-- FREE: the entries of a patch set: a control-store address, and the routine in patch space that replaces the word there (R326). Log entry 23. -/
opaque fwPatches : List Byte → List (Nat × Nat)
/-- FREE: the words of the Eland's control store (R326); its width and contents stand in no rule. Log entry 23. -/
opaque controlStore : Nat → Nat

/-- FREE: the secret from which the responder's nonces are derived (R360). Log entry 7. -/
opaque nonceSecret : List Byte

/-- FREE: the verification data of a session's FINISH, by key generation (R362). Log entry 7. -/
opaque finishMac : Nat → BitVec 256

/-- FREE: the Markhor's NVMe store can hold another recording beside so many (R378). Log entry 24. -/
opaque recordingRoom : Nat → Bool

/-! The flat map in which the model keeps every byte of the package and of what its links reach (log entry 2). -/

/-- HBM: the whole package from 0 (R2, R304). -/
abbrev hbmBase : Nat := 0
/-- Bytes of one HBM stack: 48 GiB (R2, R304). -/
abbrev hbmStack : Nat := 48 * 2 ^ 30
/-- Bank memory of base die j at bankBase + j × 2^26 (R2, R9). -/
abbrev bankBase : Nat := 2 ^ 44
/-- Bytes of bank memory of one base die: 64 MiB (R2). -/
abbrev bankDie : Nat := 2 ^ 26
/-- Scratchpad of cluster k, core c at spBase + (128 k + c) × 2^20 (R12, R109). -/
abbrev spBase : Nat := 2 ^ 45
/-- Tile a of cluster k, core c at tileBase + ((128 k + c) × 4 + a) × 65,536 (R12, R188). -/
abbrev tileBase : Nat := 2 ^ 46
/-- Queue control blocks of partition i: block n at qcbBase + i × 2^24 + 64 n (R314). Log entry 22. -/
abbrev qcbBase : Nat := 2 ^ 43
/-- Memory reached over the host link (R328). -/
abbrev hostBase : Nat := 2 ^ 52
/-- Memory of other chips reached over the fabric (R332). -/
abbrev peerBase : Nat := 2 ^ 60
/-- Where the Markhor puts resident code in the virtual space of a context (R301). Log entry 9. -/
abbrev codeVa : Nat := 0x00FF000000000000
/-- The code pages of partition i lie at codeBase + i × 2^32 (R295, R301). Log entry 9. -/
abbrev codeBase : Nat := 2 ^ 47
/-- Code pages of a partition: 4 KiB pages the Markhor may use for resident code (R295). Log entry 9. -/
abbrev codePages : Nat := 2 ^ 18

/-- Cores of a cluster (R9). -/
abbrev coresPerCluster : Nat := 128
/-- Clusters of the package (R9). -/
abbrev clusters : Nat := 12
/-- Physical cores of a cluster, spares included (R11). -/
abbrev physCores : Nat := 132
/-- Thread slots of a core (R12). -/
abbrev threadSlots : Nat := 2048
/-- Group slots of a core (R9). -/
abbrev groupSlots : Nat := 64
/-- Bins of a core (R12). -/
abbrev binCount : Nat := 64
/-- Chunks of a register file (R79). -/
abbrev chunkCount : Nat := 8192
/-- Outstanding requests of a core (R116). -/
abbrev requestCount : Nat := 2048
/-- The pager's level of free chunks below which it spills; of its own choosing (R80). Log entry 10. -/
abbrev spillLevel : Nat := 512
/-- Bytes of tree nodes and tags that the metadata cache of a die holds: 4 MiB, less room for those of one line (R356). -/
abbrev metaCache : Nat := 2 ^ 22 - 1024
/-- The translation generation TGEN (R300). -/
abbrev tgen : Nat := 1

end Sys2Proof.Config
end

