-- ==== Sys2Proof/Machine/State.lean ====
section
/-! DEFINITION. The state of a Saruz package as plain data, the reasons a step can stop, and the state after reset. -/

namespace Sys2Proof.Machine

/-- A keyed collection in one canonical form: keys strictly rising, no entry at the collection's own rest value. -/
abbrev Assoc (α : Type) := List (Nat × α)

/-- Memory: bytes by flat address (Config's map), canonical with rest value 0 (log entry 1). -/
abbrev Memory := List Host.Cell

/-- A register word with its poison bit (R58). -/
structure PWord where
  val : Word := 0
  poison : Bool := false
deriving DecidableEq, Repr

/-- A predicate with its poison bit (R58). -/
structure PBit where
  val : Bool := false
  poison : Bool := false
deriving DecidableEq, Repr

/-! ### Positions and threads -/

/-- A path record (R32): a position within one procedure. -/
structure Path where
  proc : Nat := 0
  digits : List Nat := []
  op : Nat := 0
deriving DecidableEq, Repr

/-- Privilege levels at which image code runs (R303). -/
inductive Level where
  | user | supervisor
deriving DecidableEq, Repr

/-- A node move that is due (R35, R212): it is made before the thread rests again. `advance` goes on to the next
operation of the clause, or completes the clause (R31); `again` does so for a thread whose clause could not be read as its operation retired
(R209). -/
inductive Move where
  | advance
  | again
  | complete
  | enter
  | test
  | exit (k : Nat)
  | next (k : Nat)
deriving DecidableEq, Repr

/-- What a thread does next, apart from being issued. -/
inductive Act where
  | rest              -- at rest at a clause operation
  | move (m : Move)   -- a node move is due
  | call              -- rests at CALL:0 or CALL.I:0
  | safe              -- rests at SAFE:0
  | ret               -- a return is due (R73, R215)
  | reform            -- leaves its group at REFORM (R38)
  | file              -- waits to be filed into a bin (R90)
  | binned            -- in a bin
  | ended             -- has ended; the slot is freed once its long operations have landed (R216)
  | parked            -- has parked (R102)
deriving DecidableEq, Repr

/-- The overlay of a save or restore procedure (R99, R104): safe point, calls in progress at its root, position of the SAFE
node, record address. -/
inductive Overlay where
  | none
  | save (sp depth : Nat) (at_ : Path) (rec : DWord)
  | restore (sp depth : Nat) (at_ : Path) (rec : DWord)
deriving DecidableEq, Repr

/-- A pass that has stalled, or stopped, with threads of a front still to issue (R54, R94, R116): the numbers under which its accesses are
ordered (R6, R50), and whether it has stalled, so that it is under way still. -/
structure MidPass where
  passes : List Nat
  stalled : Bool
deriving DecidableEq, Repr

/-- The trap frame of a thread (R221). `rest` and `act` say where the thread rests; `path` is the record reported; `mid` is the pass that
stopped at the thread. -/
structure TrapFrame where
  cause : Nat
  k : Nat
  addr : DWord
  path : Path
  rest : Path
  act : Act
  level : Level
  fromLevel : Level
  preds : Assoc PBit
  wb : Nat
  f : Nat
  depth : Nat
  image : Nat
  trips : List (Nat × Nat)
  mid : Option MidPass := none
deriving DecidableEq, Repr

/-- One thread (R70, R78, R88, R96, R97); `fileAct` is what it does once its bin releases it, `fresh` says that no group
has held it yet, so that it holds no chunk (R79, R90), `begun` that it has retired an operation (R76), `relaunched` that it continues a record (R104), `opAt` is the operation it retired last,
`writes` counts its hashed writes since its group formed (R382), `tops` are the tops of the frames below its own (R70), outermost
first, `respill` is what a failed spill is to move again once its trap is over (R81), and `waitOld` the members of its wait set that stood in a blocked front when it yielded and have not left it since (R67). -/
structure Thread where
  tid : Nat
  launch : Nat
  block : Nat
  stackNo : Nat
  linear : Nat := 0
  detached : Bool := false
  lidx : List Nat := []
  sptr : DWord := 0
  slim : DWord := 0
  p : Nat := 0
  td : Nat := 0
  image : Nat := 0
  stk : Assoc PWord := []
  spilled : List Nat := []
  wb : Nat := 0
  path : Path := ⟨0, [], 0⟩
  opAt : Path := ⟨0, [], 0⟩
  calls : List Path := []
  tops : List Nat := []
  trips : List (Nat × Nat) := []
  tripRecs : Assoc (List Nat) := []
  tripSpilled : List Nat := []
  preds : Assoc PBit := []
  frame : Option TrapFrame := none
  overlay : Overlay := .none
  level : Level := .user
  act : Act := .move .enter
  fileAct : Act := .rest
  gslot : Option Nat := none
  tslot : Nat := 0
  demoted : Bool := false
  waitSet : List Nat := []
  waitOld : List Nat := []
  pending : List (Nat × Nat) := []
  begun : Bool := false
  writes : Nat := 0
  pagerFault : Option (Nat × DWord) := none
  respill : Option PagerItem := none
  fresh : Bool := true
  relaunched : Bool := false
deriving DecidableEq, Repr

/-! ### Groups, fronts and cores -/

/-- What a front waits for: what blocks it (R63), or a pass of it that has stalled for the spawn ring, for a request entry (R94,
R116), for a chunk of a thread that it reads beside its windows (log entry 74), or for memory that its access cannot reach now (R369, R376). -/
inductive Wait where
  | bar (level : Nat) (who : List Nat)
  | cwait (q c : Nat)
  | cacq (c n : Nat)
  | spawnRing (n : Nat)
  | requests
  | fill (tid j : Nat)
  | away (va : Nat)
deriving DecidableEq, Repr

/-- Why a front is stopped (R69): a fault not yet delivered or in its handler, or a translation stall. -/
inductive Stop where
  | trap (cause k : Nat) (addr : DWord) (path : Path)
  | handler (tid : Nat)
  | stall (id : Nat)
deriving DecidableEq, Repr

/-- A front (R59, R66): thread slots, age, the turn it became starving, grant, wait, stop; `flag` is the completion flag that a load
it stopped in has set, with the load's position: the flag stays set until the front's threads have issued the load too (R54); `mid` is the pass
that its threads at rest are still to issue in. -/
structure Front where
  tslots : List Nat
  age : Nat := 0
  starved : Option Nat := none
  granted : Bool := false
  wait : Option Wait := none
  stop : Option Stop := none
  flag : Option (Nat × Path) := none
  mid : Option MidPass := none
deriving DecidableEq, Repr

/-- A word a pass wrote that no later pass may read before a cycle (R48). -/
inductive DrainWord where
  | v (tid w : Nat)
  | g (n : Nat)
  | p (tid n : Nat)
  | q (n : Nat)
deriving DecidableEq, Repr

/-- A hashed write of a thread and its term (R382); `acc` is the access on whose performing it depends whether it writes. -/
structure HashItem where
  acc : Option Nat
  tid : Nat
  term : DWord
deriving DecidableEq, Repr

/-- A group (R9, R45, R52, R65, R345, R382); `born` is the number that it was given as it formed, `unhashed` are its hashed writes that have not
entered its chunk sum, in the order in which they retired, and `tretTo` is the thread that takes a pending error after its tret, and whether
it goes on to its resume position first (R346). -/
structure Group where
  slot : Nat
  launch : Nat
  members : List (Nat × Nat) := []
  g : Assoc PWord := []
  q : Assoc PBit := []
  flags : Assoc Nat := []
  exch : Assoc PWord := []
  fronts : List Front := []
  pend : Option Nat := none
  handler : Option Nat := none
  turn : Nat := 0
  drain : List (DrainWord × Nat) := []
  key : Option Nat := none
  sum : DWord := 0
  count : Nat := 0
  bounds : List (Nat × DWord) := []
  born : Nat := 0
  unhashed : List HashItem := []
  tretTo : Option (Nat × Bool) := none
deriving DecidableEq, Repr

/-- A bin (R90, R91): its threads in order of arrival with their ages; `unit` is the size of the level-0 GROUP unit it
collects, if it collects one. -/
structure Bin where
  image : Nat
  key : Path
  threads : List Nat
  ages : List Nat := []
  unit : Option Nat := none
deriving DecidableEq, Repr

/-- A completion cell (R154); `epoch` counts its resets (R158). -/
structure CCell where
  done : Nat := 0
  err : Nat := 0
  pend : Int := 0
  epoch : Nat := 0
deriving DecidableEq, Repr

/-- A temporal lane (R10, R14): the cycle from which it may issue, and the group slot it issued last. -/
structure Lane where
  freeAt : Nat := 0
  last : Option Nat := none
deriving DecidableEq, Repr

/-- A barrier of one unit of one level (R88); `held` are the pending phases of threads that have parked, by stack number (R89). -/
structure Barrier where
  level : Nat
  unit : Nat
  phase : Nat := 0
  arrived : Nat := 0
  held : List (Nat × Nat) := []
deriving DecidableEq, Repr

/-- Why a save of a block is requested (R99). -/
inductive SaveWhy where
  | slice | test | replace
deriving DecidableEq, Repr

/-- The block a core holds (R86): its launch, index, scratchpad bytes, save request, barriers at and below the block, the keep
ranges of the safe points at which threads have parked, and whether any has (R102); `isOver` says that it is done and keeps its core until
its GANG unit ends (R87). -/
structure Block where
  launch : Nat
  index : Nat
  z : Nat
  ctx : Nat
  save : Option SaveWhy := none
  barriers : List Barrier := []
  keep : List (Nat × Nat) := []
  parked : Bool := false
  isOver : Bool := false
deriving DecidableEq, Repr

/-- A chunk or trip record on its way between the register file and its image (R80, R81). -/
structure Transfer where
  id : Nat
  tid : Nat
  item : PagerItem
  fill : Bool
  va : DWord
deriving DecidableEq, Repr

/-- The service state of a core (R11, R366, R371, R373, R374): under test, a test or a replacement that waits for the core, a
failed test, marks in this interval, fenced for good, physical number, a test that a mark has brought forward. -/
structure CoreService where
  testing : Bool := false
  testDue : Bool := false
  replaceDue : Bool := false
  failed : Bool := false
  marks : Nat := 0
  fenced : Bool := false
  phys : Nat := 0
  forward : Bool := false
deriving DecidableEq, Repr

/-- One logical core (R12); `passAt` is the cycle after the one in which it last issued a pass (R90), `wants` are the
fills asked for and not begun, in order (R80). -/
structure Core where
  cl : Nat
  co : Nat
  block : Option Block := none
  gen : Nat := 1
  cells : Assoc CCell := []
  threads : List Thread := []
  groups : List Group := []
  bins : List Bin := []
  lanes : Assoc Lane := []
  ibuf : List (Nat × Path) := []
  bkpten : Bool := false
  xfers : List Transfer := []
  wants : List (Nat × PagerItem) := []
  passAt : Nat := 0
  svc : CoreService := ⟨false, false, false, false, 0, false, 0, false⟩
deriving DecidableEq, Repr

/-- A cluster (R95, R303, R311 to R313): the context it serves, the one it is switched to, a clear sequence under way and when it
ends, a SLICE edge held, failed, out of service, its launches' rings, its spare cores, the destroyed context that it is still to be cleared of
(R308), whether it has been repaired since its clear failed (R313), and the ring heads that could not be read, by launch (R95). -/
structure Cluster where
  id : Nat
  ctx : Option Nat := none
  next : Option (Option Nat) := none
  clearing : Bool := false
  clearAt : Nat := 0
  held : Bool := false
  failed : Bool := false
  outOfService : Bool := false
  rings : List (Nat × Nat × Nat) := []   -- launch, HEAD, TAIL
  spares : Nat := 4
  wiping : Option Nat := none
  repaired : Bool := false
  unread : List (Nat × Nat) := []
deriving DecidableEq, Repr

/-! ### Accesses, long operations, engine commands -/

/-- Page kinds (R107, R124, R125); scratchpad, bank and aperture accesses order as RC. -/
inductive PageKind where
  | rc | so | uo
deriving DecidableEq, Repr

/-- The data spaces (R105). -/
inductive Space where
  | gm | sp | bk | rg
deriving DecidableEq, Repr

/-- Ordering annotations and fence kinds (R121, R125, R266). -/
inductive Ord where
  | none | acq | rel | full
deriving DecidableEq, Repr

/-- One part of an access that is performed at once (R119, R126): flat address, length, offset in the access. `gen` is a stamped generation
with its target core (R110, R111); `window` a replay window (R377); `prot` a protected page reached under R359. -/
structure Part where
  addr : Nat
  len : Nat
  off : Nat := 0
  kind : PageKind := .rc
  gen : Option (Nat × Nat × Nat) := none
  window : Bool := false
  prot : Bool := false
  uncached : Bool := false
deriving DecidableEq, Repr

/-- What a barrier arrival or a spawn publishes: it counts once the accesses before it are performed (R88, R93, R128). -/
inductive Published where
  | arrival (launch lev unit : Nat)
  | children (launch first n : Nat)
deriving DecidableEq, Repr

/-- What an access does; `red` tells a reduction from an atomic (R272, R273). A register access names the thread and the stack word it arrived at (R113, R114). -/
inductive AccOp where
  | load
  | store (data : List Byte)
  | update (op : Nat) (b c : DWord) (red : Bool)
  | rgLoad (cl co tid w : Nat)
  | rgStore (cl co tid w : Nat) (data : List Word)
  | prefetch
  | fence (space : Option Space) (lo hi : Nat)
  | publish (what : Published) (after : List Nat)
deriving DecidableEq, Repr

/-- A write on a UO page that was performed after a load had read the place ahead (R123): its thread, space, address and width as a fence sees
them, the flat address and the bytes written, and the scopes of the thread's later release fences that cover it. -/
structure Missed where
  tid : Nat
  space : Space
  ea : DWord
  width : Nat
  addr : Nat
  data : List Byte
  scopes : List Nat := []
deriving DecidableEq, Repr

/-- An access issued and not yet performed (R116, R120, R122): `parts` are those still to perform, `got` the bytes
that a load has read, by offset, with their poison, `passes` the numbers of its pass (R6, R50), `looked` those of parts that it has read before an earlier acquire and that do
not count yet (R118, R123), `missed` the writes to them since. Of an acquire that a later access has passed, `passed` is what it would have read
then, and `fixed` says that it is to take that. `grp` is the number of its group. A thread's program order is the order of the list; `also` are the other threads of the front for which a uniform access is made (R263). -/
structure Access where
  id : Nat
  cl : Nat
  co : Nat
  ctx : Nat
  launch : Nat := 0
  tid : Nat
  also : List Nat := []
  gslot : Nat
  passes : List Nat
  tslot : Nat
  op : AccOp
  space : Space
  ea : DWord
  parts : List Part
  width : Nat
  ord : Ord := .none
  scope : Nat := 0
  long : Option Nat := none
  sext : Bool := false
  held : Bool := false
  grp : Nat := 0
  key : Nat := 0xFFFFFF
  got : List (Nat × Byte × Bool) := []
  looked : List (Part × List (Nat × Byte × Bool)) := []
  missed : List Missed := []
  passed : List (Part × List (Nat × Byte × Bool)) := []
  fixed : Bool := false
deriving DecidableEq, Repr

/-- Where a long operation writes a word: the thread's stack word, or the group's register (R298). -/
inductive Dest where
  | v (w : Nat)
  | g (n : Nat)
deriving DecidableEq, Repr

/-- A long operation whose result has not landed (R65, R199). `data` is present once it may land. -/
structure LongOp where
  id : Nat
  cl : Nat
  co : Nat
  tid : Nat
  also : List Nat := []
  gslot : Nat
  flag : Option Nat := none
  dests : List Dest
  data : Option (List PWord) := none
deriving DecidableEq, Repr

/-- The engines of R13. -/
inductive Engine where
  | copy | layout | matrix | bank
deriving DecidableEq, Repr

/-- Variants of mma (R181). -/
inductive MmaVar where
  | plain | pair | gather | sparse
deriving DecidableEq, Repr

/-- Operations of bankop (R287). -/
inductive BankOp where
  | axpy | scale | add | min | max | rsum
deriving DecidableEq, Repr

/-- A box descriptor as read (R161). -/
structure Box where
  mcast : List Nat := []
  dstr : List Int := []
  sstr : List Int := []
  ext : List Nat := []
  noexp : Bool := false
  rank : Nat := 1
  esize : Nat := 1
deriving DecidableEq, Repr

/-- A layout's shape table and mapping as read (R168 to R170). -/
structure Shape where
  edge : Bool
  wa : Nat
  ext : List Nat := []
  sstr : List Int := []
  dstr : List Int := []
  pad : BitVec 128 := 0
  split : List Nat := []
  order : List Nat := []
  merge : Nat := 0
deriving DecidableEq, Repr

/-- An operand map of a matrix command (R178). -/
structure OpMap where
  panel : Nat
  rows : Nat
  k : Nat
  scale : Nat
  aux : Nat
deriving DecidableEq, Repr

/-- An engine command with the operands read at issue (R279). -/
inductive CmdKind where
  | box (src dst : DWord) (desc : Word) (b : Box)
  | copyT (size : Nat) (pairs : List (Nat × DWord × DWord))
  | fill (dst : DWord) (n : Nat) (pat : Word)
  | layout (src dst : DWord) (ctl : Word) (map : BitVec 96) (sh : Shape)
  | mma (v : MmaVar) (dens sa sb ad : Nat) (a b : OpMap) (high : Bool)
  | accClr (ad : Nat)
  | accLd (space : Space) (base : DWord) (ad : Nat)
  | accSt (space : Space) (base : DWord) (ad slot : Nat)
  | accStx (space : Space) (add : Bool) (base : DWord) (ad list mul : Nat) (rows : List Nat)
  | bankop (op : BankOp) (ty rm : Nat) (y x : Word) (n : Nat) (a : Word)
deriving DecidableEq, Repr

/-- What a command owes one destination core's cell (R155, R162). -/
structure DestPart where
  co : Nat
  gen : Nat
  owed : Nat
  posted : Bool := false
  expect : Bool := true
  epoch : Nat := 0
  aborted : Bool := false
  finished : Bool := false
deriving DecidableEq, Repr

/-- An engine command in flight (R117, R155, R279). `todo` are the intervals of elements not yet landed,
`after` the accesses that must be performed first (R129), `front` the threads of the front that issued it, `gens` the generations of the
cores that held blocks of its context as it left its core (R110), `early` the elements acknowledged before they are seen, with the
core whose part of the command they are of, and `stuck` the one of them that is stalled on its page (R289), `merge` the partly covered bytes that a layout has read, by flat address (R175), `apart` says that its error arose in a pair's follower (R341). -/
structure Cmd where
  id : Nat
  cl : Nat
  co : Nat
  ctx : Nat
  launch : Nat
  block : Nat
  gen : Nat
  key : Nat
  gslot : Nat
  grp : Nat := 0
  tslot : Nat
  front : List Nat := []
  path : Path
  kind : CmdKind
  engine : Engine
  cell : Option Nat
  epoch : Nat := 0
  entered : Bool := false
  owed : Nat := 0
  todo : List (Nat × Nat) := []
  after : List Nat := []
  dests : List DestPart := []
  writers : List (Nat × Nat) := []
  err : Option (Nat × DWord) := none
  stall : Option Nat := none
  stash : List (Nat × Word) := []
  gens : Assoc Nat := []
  early : List (Nat × Option Nat) := []
  stuck : Option Nat := none
  merge : List (Nat × Nat) := []
  apart : Bool := false
deriving DecidableEq, Repr

/-- An access stalled on an unmapped page in resolve mode (R333 to R335); `item` is the position of the item that a fetch needs (R209), and
`saving` tells the write of a caller chunk for a thread that is to be saved (R82) from a move of the pager. -/
structure Stall where
  id : Nat
  part : Nat
  cl : Nat
  ctx : Nat
  va : Nat
  src : Nat
  acc : AccessKind
  written : Bool := false
  saving : Bool := false
  fail : Bool := false
  who : Option (Nat × Nat × Nat) := none
  item : Option Path := none
deriving DecidableEq, Repr

/-- A TLB entry (R333): level 0 core, 1 cluster, 2 die; place is its core, cluster or die number. -/
structure TlbEntry where
  level : Nat
  place : Nat
  ctx : Nat
  va : Nat
  size : Nat
  leaf : DWord
deriving DecidableEq, Repr

/-- A non-leaf entry that a cluster's walker keeps (R333): the table of a level to which it leads, for the addresses with
these index bits above that level. -/
structure WalkEntry where
  cl : Nat
  ctx : Nat
  level : Nat
  va : Nat
  table : Nat
deriving DecidableEq, Repr

/-- A node of a counter tree in the metadata cache of a die (R355, R356): its flat address, the counter it has in its parent,
its parents up to the root with theirs, the die, its 8 counters, whether they have changed since it entered, and its place in the order of
entry. `tag` says that it is a line's tag instead. -/
structure TreeNode where
  addr : Nat
  slot : Nat
  up : List (Nat × Nat × Nat)
  die : Nat
  ctrs : List Nat
  dirty : Bool := false
  age : Nat := 0
  tag : Bool := false
deriving DecidableEq, Repr

/-! ### Images, launches, contexts, partitions -/

/-- A procedure of a resident image (R292). -/
structure Proc where
  num : Nat
  f : Nat
  args : Nat
  handler : Option Nat := none
  coff : Nat := 0
  clen : Nat := 0
  pool : Nat := 0
  poolLen : Nat := 0
  spIdx : Nat := 0
  spCnt : Nat := 0
deriving DecidableEq, Repr

/-- A safe-point entry (R293). -/
structure SafePoint where
  k : Nat
  save : Nat
  restore : Nat
  mask : BitVec 128
  keep : List (Nat × Nat)
deriving DecidableEq, Repr

/-- A resident image (R301): its code and pools lie at codeVa of its context, on code pages of frames `frame` on; `leaves` are the
entries that the Markhor gives those pages in a context's tables, in order (R301, R328). -/
structure Image where
  handle : Nat
  ctx : Nat
  part : Nat
  va : Nat
  frame : Nat
  len : Nat
  procs : List Proc
  safes : List SafePoint
  slots : Assoc DWord := []
  measurement : BitVec 256 := 0
  leaves : List DWord := []
deriving DecidableEq, Repr

/-- A level of a launch (R83, R320): domain code 0 GROUP to 6 FABRIC. -/
structure LevelDecl where
  extent : Nat
  domain : Nat
  gang : Bool
deriving DecidableEq, Repr

/-- Where a block of a launch stands (R87, R102, R103). -/
inductive BlockAt where
  | waiting
  | placed (cl co : Nat)
  | saved
  | ended
deriving DecidableEq, Repr

/-- A continuation record as read from a pool (R100, R104). -/
structure ContRec where
  addr : DWord
  path : Path
  lidx : List Nat
  stack : Nat
  wb : Nat
  detached : Bool
deriving DecidableEq, Repr

/-- A block of a launch: its state, for a relaunch its records in pool order (R104), the linear indexes of the threads that
have parked and count for barriers (R88), the addresses of the records written when threads parked (R101), the core that
received it (R83), and for a migration the cluster it stays on (R371). -/
structure BlockRec where
  index : Nat
  at_ : BlockAt
  records : List ContRec := []
  parked : List Nat := []
  saved : List DWord := []
  pinned : Option (Nat × Nat) := none
  stay : Option Nat := none
deriving DecidableEq, Repr

/-- A launch (R320 to R323). Of a launch across chips the top level's extent is the chip's share, `first` its first unit and
`top` the whole extent (R325). `spawner` is the core, group and thread slot of a pass that has stalled in the middle of its spawn (R93, R94);
`qcb` is 0 once its queue is destroyed (R319). -/
structure Launch where
  id : Nat
  ctx : Nat
  part : Nat
  qcb : Nat
  image : Nat
  entry : Nat
  levels : List LevelDecl
  z : Nat
  age : Nat
  a : DWord
  s : Nat
  p : Nat
  td : Nat
  m : Nat
  argblk : DWord
  ra : DWord
  bsa : DWord
  sra : DWord
  slots : List DWord
  rank : Nat := 0
  first : Nat := 0
  top : Nat := 0
  threads : Nat
  nextChild : Nat := 0
  spawner : Option (Nat × Nat × Nat × Nat) := none
  blocks : List BlockRec
  barriers : List Barrier := []
  resumed : Bool := false
  sigAddr : DWord := 0
  sigVal : DWord := 0
  irq : Bool := false
  ended : Bool := false
deriving DecidableEq, Repr

/-- A bank window (R306). -/
structure BankWin where
  base : Nat := 0
  len : Nat := 0
deriving DecidableEq, Repr

/-- A context (R306, R226, R354, R362); `barriers` is what its barrier area holds of saved launches, by record area (R89),
`codeTables` the code pages, by offset, that the Markhor uses for the tables of its code (R301; log entry 9). -/
structure Context where
  ctx : Nat
  part : Nat
  errrec : DWord := 0
  bararea : DWord := 0
  bkwin : List BankWin := []
  svimg : Nat := 0
  svproc : Option Nat := none
  ptroot : Nat := 0
  pasid : Nat := 0
  replay : Bool := false
  prot : Bool := false
  trapMode : Bool := false
  ovf : Bool := false
  latent : Bool := false
  bkpten : Bool := false
  cmr : BitVec 256 := 0
  ke : Option (BitVec 128) := none
  kt : Option (BitVec 128) := none
  barriers : Assoc (List Barrier) := []
  codeTables : List Nat := []
deriving DecidableEq, Repr

/-- A peer table entry (R332). -/
structure Peer where
  fabid : BitVec 32
  part : Nat
deriving DecidableEq, Repr

/-- An invalidation request that is not complete (R336): what was written, the number from which accesses came after it, and the first byte and
length of what the translations that it dropped had mapped. -/
structure InvRequest where
  req : DWord
  before : Nat
  dropped : List (Nat × Nat)
deriving DecidableEq, Repr

/-- A partition (R304, R315, R324, R332, R334, R351, R353, R355, R356); `root` are the 8 counters of its tree's root, `nodes`
the tree's nodes that are cached, in the order in which they entered, `written` the nodes that memory holds since the carve-out
was set (log entry 40), `filling` the bytes that a command has for a line that it writes whole and whose tag does not match, by command and
line (R357), `invPending` the invalidation requests that are not complete (R336), `queues` its queues'
control blocks and `activeQ` those to serve in turn (R318). -/
structure Partition where
  idx : Nat
  ctxList : List Nat := []
  carve : Nat := 0
  meta_ : Nat := 0
  ki : Option (BitVec 128) := none
  integFail : Nat := 0
  root : List Nat := []
  nodes : List TreeNode := []
  written : List Nat := []
  filling : List (Nat × Nat × List (Nat × Byte)) := []
  slices : List (List Nat) := []
  slice : Nat := 0
  ringAddr : Option Nat := none
  ringK : Nat := 8
  ringTail : Nat := 0
  qtable : Option Nat := none
  qtableK : Nat := 8
  errrec : Option Nat := none
  peers : Assoc Peer := []
  exportBase : Nat := 0
  exportLen : Nat := 0
  invSeq : Nat := 0
  invPending : List InvRequest := []
  queues : List Nat := []
  activeQ : List Nat := []
deriving DecidableEq, Repr

/-! ### The Markhor, the links, the Chamois -/

/-- A mailbox of a function (R309). -/
structure Mailbox where
  fn : Nat
  busy : Bool := false
  count : Nat := 0
  block : Nat := 0
  result : Option (Nat × BitVec 56 × List Byte) := none
deriving DecidableEq, Repr

/-- A signer table entry (R364): state 1 active, 2 revoked. -/
structure Signer where
  id : BitVec 128
  key : BitVec 512
  state : Nat
  fuse : Nat := 0
deriving DecidableEq, Repr

/-- An image load between the packet and its answer (R317). -/
structure LoadTask where
  id : Nat
  qcb : Nat
  ctx : Nat
  img : DWord
  len : Nat
  dataDst : DWord
  commit : Bool
  answer : Option DWord := none
deriving DecidableEq, Repr

/-- A snapshot of the measurement blocks (R362, R363). -/
structure Snapshot where
  digests : List (BitVec 256) := []
  status : DWord := 0
  cmrs : List (Nat × Nat × BitVec 256) := []   -- context, partition, CMR
deriving DecidableEq, Repr

/-- SPDM state of a function's DOE mailbox (R361 to R363); `keyNo` is the key generation of its session. -/
structure Spdm where
  fn : Nat
  version : Bool := false
  caps : Bool := false
  algs : Bool := false
  transcript : Option Snapshot := none
  session : Option Nat := none      -- handshake 0, established 1
  keyNo : Nat := 0
  streams : Assoc (BitVec 256) := []
  tdi : TdiState := .configUnlocked
deriving DecidableEq, Repr

/-- A fabric port (R376). -/
structure Port where
  id : Nat
  lanes : Nat := 4
  training : Bool := false
deriving DecidableEq, Repr

/-- A staged firmware (R375). -/
structure Staged where
  kernel : Bool
  eland : Bool
  svn : Nat
  digests : List (BitVec 256)
  patches : List (Nat × Nat) := []
deriving DecidableEq, Repr

/-- What the part shows to the outside (R309, R316, R334, R348, R362, R365). -/
inductive Output where
  | msix (part vector : Nat)
  | pfMsix (vector : Nat)
  | spdm (fn code : Nat) (data : List Byte)
  | log (what : Nat) (a b : Nat)
  | peer (off : Nat) (data : List Byte) (poison : Bool)
  | peerRefused (off : Nat)
deriving DecidableEq, Repr

/-- A group as the log knows it: cluster, core, slot and its own number (R385). -/
abbrev LogGroup : Type := Nat × Nat × Nat × Nat

/-- A record of a replay log stream (R380), with the groups whose accesses or boundary produced it (R385). -/
inductive LogRec where
  | run (key count : Nat) (by_ : List LogGroup)
  | hash (key count : Nat) (sum : DWord) (by_ : List LogGroup)
deriving DecidableEq, Repr

/-- One stream of a session (R380, R383): home kind, die, index. Recording: the run in force, and records waiting for a
packet, with the groups of the run. Replaying: ring positions of records not yet read, how many were read, the run in force, whether following stopped. -/
structure Stream where
  kind : Nat
  die : Nat
  index : Nat
  at_ : List Nat := []
  used : Nat := 0
  run : Option (Nat × Nat) := none
  runBy : List LogGroup := []
  open_ : Bool := false
  pending : List LogRec := []
deriving DecidableEq, Repr

/-- A record or replay session of a context (R378 to R385); `packets` are those drained to NVMe, or still to fill from it,
`drains` the groups of each packet that waits in the ring of a recording. -/
structure Session where
  id : Nat
  ctx : Nat
  record : Bool
  ck : Nat
  bkr : List (Nat × Nat)
  gateUs : Nat
  ring : Nat
  ringLen : Nat
  head : Nat := 0
  tail : Nat := 0
  follow : Nat := 0
  streams : List Stream := []
  compares : Bool := true
  truncated : Bool := false
  packets : List (List DWord) := []
  drains : List (List LogGroup) := []
deriving DecidableEq, Repr

/-- An entry of an error record (R350). -/
structure ErrEntry where
  kind : Nat
  cause : Nat
  path : Nat := 0
  addr : Nat := 0
  code : Nat := 0
  cluster : Nat := 0
  core : Nat := 0
  gslot : Nat := 0
  tslot : Nat := 0
  orig : Nat := 0
deriving DecidableEq, Repr

/-- An entry that waits for a context's error record, which cannot be reached now (R369, R376), and whether the record's OVF is to be set with it;
the cluster and core are those on whose behalf it is written. -/
structure LateEntry where
  cl : Nat
  co : Nat
  ctx : Nat
  entry : ErrEntry
  ovf : Bool := false
deriving DecidableEq, Repr

/-- A stored recording (R378). -/
structure Recording where
  id : Nat
  ck : Nat
  packets : List (List DWord)
  truncated : Bool
deriving DecidableEq, Repr

/-- An HBM row under repair (R369). -/
structure Repair where
  stack : Nat
  channel : Nat
  row : Nat
deriving DecidableEq, Repr

/-- The package beside its cores: power, service, fuses, firmware (R304, R360, R364, R365, R388 to R393). `patches` is the Eland's patch RAM
(R326), `patchesBefore` what it held before the last commit, `ownerFuses` the digest in the owner fuses (R364), `nonceCount` the counter of the responder nonces (R360), `integPast` the integrity failures since reset of partitions that are no more (R362). -/
structure Package where
  up : Bool := false
  recovery : Bool := false
  held : Bool := false
  parts : Option Nat := none
  fabid : BitVec 32 := 0xFFFFFFFF
  clockMHz : Nat := 2500
  powerW : Nat := 5000
  policy : DWord := 0x0000000400030A18
  nvme : Bool := false
  rngFail : Bool := false
  drbgCount : Nat := 0
  owner : Option (BitVec 512) := none
  ownerFuses : Option (BitVec 256) := none
  cmdCounter : Nat := 0
  fusesBurned : Nat := 0
  signers : List Signer := []
  floors : List (BitVec 128 × BitVec 512 × Nat) := []
  fwSvn : Nat := 0
  staged : Option Staged := none
  digests : List (BitVec 256) := []
  ports : List Port := []
  corrected : List (Repair × Nat) := []
  wanted : List Repair := []
  repairing : List Repair := []
  spareRowsUsed : List Repair := []
  hardRepair : List Repair := []
  recordings : List Recording := []
  nextHandle : Nat := 1
  flashImage : Bool := false
  patches : List (Nat × Nat) := []
  patchesBefore : List (Nat × Nat) := []
  nonceCount : Nat := 0
  integPast : Nat := 0
deriving DecidableEq, Repr

/-- The issue under way (R46, R49): which threads the pass serves, and what has come of it. `threads` are
the slots still to serve by the instruction executed; `first` says whether no active thread was served yet; `peers` are
the slots whose threads are active in the pass, in both fronts of a shared one (R46, R67); `soft` says that the operation takes no fault of classes 3 to 19 (R276, R278);
`blocked` are the slots of the group that stood in blocked fronts as the pass began (R67), `passes` the numbers of the pass, the first of them
that under which it began, `feed` the cycles in which it feeds one active thread (R46, R247). -/
structure Issue where
  cl : Nat
  co : Nat
  gs : Nat
  front : List Nat
  threads : List Nat
  shared : Bool := false
  first : Bool := true
  passes : List Nat := [0]
  feed : Nat := 1
  flag : Option Nat := none
  done : List Nat := []
  skipped : List Nat := []
  cycles : Nat := 0
  stop : Option Stop := none
  uniform : Bool := false
  wait : Option Wait := none
  peers : List Nat := []
  soft : Bool := false
  blocked : List Nat := []
deriving DecidableEq, Repr

/-- A checker mismatch about to strike a thread's operation (R56): whether the retry mismatches again, and the unit of R338. -/
structure Upset where
  cl : Nat
  co : Nat
  gs : Nat
  k : Nat
  second : Bool
  unit : Nat
deriving DecidableEq, Repr

/-- A mismatch, or a parity error in flight, about to strike what an engine of a core does next (R366, R367). -/
structure EngUpset where
  cl : Nat
  co : Nat
  engine : Engine
  second : Bool
deriving DecidableEq, Repr

/-- The package as a machine. -/
structure State where
  upsets : List Upset := []
  engUpsets : List EngUpset := []
  inputs : List Instr := []
  oracle : List Nat := []
  tick : Nat := 0
  now : Nat := 0
  nextId : Nat := 1
  cur : Option Issue := none
  outputs : List Output := []
  pkg : Package := ⟨false, false, false, none, 0xFFFFFFFF, 2500, 5000, 0x0000000400030A18, false, false, 0, none, none, 0, 0, [], [], 0, none, [], [], [], [], [], [], [], [], 1, false, [], [], 0, 0⟩
  parts : List Partition := []
  ctxs : List Context := []
  images : List Image := []
  launches : List Launch := []
  loads : List LoadTask := []
  clusters : List Cluster := []
  cores : List Core := []
  accs : List Access := []
  longs : List LongOp := []
  cmds : List Cmd := []
  stalls : List Stall := []
  tlb : List TlbEntry := []
  walks : List WalkEntry := []
  mailboxes : List Mailbox := []
  spdm : List Spdm := []
  sessions : List Session := []
  lateLogs : List LateEntry := []
  mem : Memory := []
  poison : List Nat := []
deriving DecidableEq, Repr

/-- Reasons the machine stops with a fault. The manual gives every fault of a program a handler or a kill
(R343, R348), so none of them stops the machine: this reason exists for a state with no issue to serve. -/
inductive Fault where
  /-- An operation was given to the machine while no pass is under way; only a caller of exec can do so, the
  step never does (it sets the issue first). Safe: nothing is claimed of such a call. -/
  | noIssue
deriving DecidableEq, Repr

/-- Reasons the machine refuses an instruction. -/
inductive Refusal where
  /-- The instruction has no meaning yet; raised by exec's own arms only. Safe. -/
  | notModelled (mnemonic : String)
  /-- A step of the machine was named whose cause does not stand in the state (no such command, thread,
  request, packet); the step function never names one. Safe: the step cannot happen there. -/
  | notEnabled
deriving DecidableEq, Repr

/-- The machine after reset, before bring-up (R388): nothing is served, no core holds a block, every allocation
generation reads 1 (R110), cells read 0, the policy is R365's reset word, the power limit 5.0 kW (R392). -/
def State.reset : State := { }

end Sys2Proof.Machine
end

