-- ==== Sys2Proof/Machine/Base.lean ====
section
/-! DEFINITION. Keyed collections and memory in canonical form, and how the machine finds and replaces its parts. -/

namespace Sys2Proof.Machine

/-! ### Keyed collections -/

/-- The entry of a key, or the collection's rest value. -/
def assocGet {α : Type} (rest : α) : Assoc α → Nat → α
  | [], _ => rest
  | (k, v) :: l, n => if n = k then v else assocGet rest l n

/-- Put an entry in its place among rising keys. -/
def assocPut {α : Type} : Assoc α → Nat → α → Assoc α
  | [], n, x => [(n, x)]
  | (k, v) :: l, n, x => if n < k then (n, x) :: (k, v) :: l else if n = k then (k, x) :: l else (k, v) :: assocPut l n x

/-- Replace the entry of a key, keeping keys rising and dropping an entry at the rest value. -/
def assocSet {α : Type} [DecidableEq α] (rest : α) (l : Assoc α) (n : Nat) (x : α) : Assoc α :=
  if x = rest then l.filter (fun e => e.1 != n) else assocPut l n x

/-- Keys strictly rising from a bound on, no entry at the rest value. -/
def assocWf {α : Type} [DecidableEq α] (rest : α) : Nat → Assoc α → Bool
  | _, [] => true
  | lo, (k, v) :: l => decide (lo ≤ k) && decide (v ≠ rest) && assocWf rest (k + 1) l

/-- Add a number to a rising list. -/
def setInsert : List Nat → Nat → List Nat
  | [], n => [n]
  | k :: l, n => if n < k then n :: k :: l else if n = k then k :: l else k :: setInsert l n

/-- Replace every element that a test picks. -/
def mapIf {α : Type} (p : α → Bool) (f : α → α) (l : List α) : List α := l.map (fun x => if p x then f x else x)

/-- The first free number from a start on, of at most `fuel` tries. -/
def firstFree (used : List Nat) : Nat → Nat → Nat
  | 0, n => n
  | k + 1, n => if used.contains n then firstFree used k (n + 1) else n

/-! ### Memory (R2, R262, R368) -/

/-- One byte of memory by flat address; a byte nothing has written reads 0 (log entry 1). -/
def Memory.read (m : Memory) (a : Nat) : Byte := assocGet (0 : Byte) m a

/-- Write one byte. -/
def Memory.write (m : Memory) (a : Nat) (b : Byte) : Memory := assocSet (0 : Byte) m a b

/-- The canonical form of memory. -/
def Memory.wf (m : Memory) : Bool := assocWf (0 : Byte) 0 m

/-- n bytes from an address on. -/
def Memory.readBytes (m : Memory) (a : Nat) : Nat → List Byte
  | 0 => []
  | n + 1 => m.read a :: Memory.readBytes m (a + 1) n

/-- Write bytes from an address on. -/
def Memory.writeBytes (m : Memory) (a : Nat) : List Byte → Memory
  | [] => m
  | b :: l => Memory.writeBytes (m.write a b) (a + 1) l

/-- Bytes as a number, least significant first (R262). -/
def leNat : List Byte → Nat
  | [] => 0
  | b :: l => b.toNat + 256 * leNat l

/-- The k bytes of a number, least significant first (R262). -/
def leBytes : Nat → Nat → List Byte
  | 0, _ => []
  | k + 1, n => BitVec.ofNat 8 n :: leBytes k (n / 256)

/-- Bits [lo + w - 1 : lo] of a number. -/
def bits (n lo w : Nat) : Nat := n / 2 ^ lo % 2 ^ w

/-- One bit of a number. -/
def bit (n i : Nat) : Bool := n / 2 ^ i % 2 == 1

/-- A w-bit number as a signed one. -/
def sgn (w n : Nat) : Int := if n % 2 ^ w < 2 ^ (w - 1) then (n % 2 ^ w : Int) else (n % 2 ^ w : Int) - (2 ^ w : Int)

/-- A number of n bytes in memory, least significant byte first. -/
def Memory.readLe (m : Memory) (a n : Nat) : Nat := leNat (m.readBytes a n)

/-- Write a number of n bytes, least significant byte first. -/
def Memory.writeLe (m : Memory) (a n x : Nat) : Memory := m.writeBytes a (leBytes n x)

/-- The 4-byte words that n bytes from an address lie on (R368). -/
def wordsOf (a n : Nat) : List Nat := if n = 0 then [] else List.range' (a / 4) ((a + n - 1) / 4 - a / 4 + 1)

/-- Some word of a byte range is poisoned (R368). -/
def State.poisoned (s : State) (a n : Nat) : Bool := (wordsOf a n).any s.poison.contains

/-- Write bytes; a word written in full loses its poison, a partly written poisoned word keeps it (R58, R340, R368). -/
def State.store (s : State) (a : Nat) (l : List Byte) : State :=
  let full := (wordsOf a l.length).filter (fun w => decide (a ≤ 4 * w) && decide (4 * w + 4 ≤ a + l.length))
  { s with mem := s.mem.writeBytes a l, poison := s.poison.filter (fun w => !full.contains w) }

/-- Mark the words of a byte range poisoned. -/
def State.poisonBytes (s : State) (a n : Nat) : State :=
  { s with poison := (wordsOf a n).foldl setInsert s.poison }

/-- Write a number of n bytes. -/
def State.storeLe (s : State) (a n x : Nat) : State := s.store a (leBytes n x)

/-- Set n bytes to zero. -/
def State.zero (s : State) (a n : Nat) : State :=
  { s with mem := s.mem.filter (fun c => !(decide (a ≤ c.1) && decide (c.1 < a + n))),
           poison := s.poison.filter (fun w => !(decide (a ≤ 4 * w) && decide (4 * w + 4 ≤ a + n))) }

/-! ### Finding and replacing the parts of the machine -/

/-- A core by cluster and logical number. -/
def State.core? (s : State) (cl co : Nat) : Option Core := s.cores.find? (fun c => c.cl == cl && c.co == co)

/-- A core that holds nothing (R12). -/
def Core.fresh (cl co : Nat) : Core := { cl := cl, co := co, svc := ⟨false, false, false, false, 0, false, co, false⟩ }

/-- A core, one that holds nothing where the state lists none. -/
def State.core (s : State) (cl co : Nat) : Core := (s.core? cl co).getD (Core.fresh cl co)

/-- Put a core in place of the core of the same numbers. -/
def putCore (c : Core) : List Core → List Core
  | [] => [c]
  | x :: l => if x.cl == c.cl && x.co == c.co then c :: l else x :: putCore c l

/-- Replace a core. -/
def State.setCore (s : State) (c : Core) : State := { s with cores := putCore c s.cores }

/-- Change a core. -/
def State.onCore (s : State) (cl co : Nat) (f : Core → Core) : State := s.setCore (f (s.core cl co))

/-- A thread of a core. -/
def Core.thread? (c : Core) (t : Nat) : Option Thread := c.threads.find? (fun x => x.tid == t)

/-- Replace a thread. -/
def Core.setThread (c : Core) (t : Thread) : Core := { c with threads := mapIf (fun x => x.tid == t.tid) (fun _ => t) c.threads }

/-- Change a thread. -/
def Core.onThread (c : Core) (t : Nat) (f : Thread → Thread) : Core :=
  { c with threads := mapIf (fun x => x.tid == t) f c.threads }

/-- A group of a core by slot. -/
def Core.group? (c : Core) (gs : Nat) : Option Group := c.groups.find? (fun g => g.slot == gs)

/-- Replace a group. -/
def Core.setGroup (c : Core) (g : Group) : Core := { c with groups := mapIf (fun x => x.slot == g.slot) (fun _ => g) c.groups }

/-- Change a group. -/
def Core.onGroup (c : Core) (gs : Nat) (f : Group → Group) : Core :=
  { c with groups := mapIf (fun x => x.slot == gs) f c.groups }

/-- The thread in a slot of a group. -/
def Group.tidAt (g : Group) (k : Nat) : Option Nat := (g.members.find? (fun m => m.1 == k)).map Prod.snd

/-- The thread in a slot of a group of a core. -/
def Core.threadAt (c : Core) (g : Group) (k : Nat) : Option Thread :=
  match g.tidAt k with
  | some t => c.thread? t
  | none => none

/-- The age of a bin: that of its oldest thread (R90). -/
def Bin.age (b : Bin) : Nat := b.ages.headD 0

/-- Every thread of a bin ages by one (R90). -/
def Bin.older (b : Bin) : Bin := { b with ages := b.ages.map (· + 1) }

/-- A cluster; one that serves nothing where the state lists none. -/
def State.cluster (s : State) (k : Nat) : Cluster := (s.clusters.find? (fun c => c.id == k)).getD { id := k }

/-- Replace a cluster. -/
def putCluster (c : Cluster) : List Cluster → List Cluster
  | [] => [c]
  | x :: l => if x.id == c.id then c :: l else x :: putCluster c l

/-- Replace a cluster. -/
def State.setCluster (s : State) (c : Cluster) : State := { s with clusters := putCluster c s.clusters }

/-- A launch by number. -/
def State.launch? (s : State) (n : Nat) : Option Launch := s.launches.find? (fun l => l.id == n)

/-- Change a launch. -/
def State.onLaunch (s : State) (n : Nat) (f : Launch → Launch) : State :=
  { s with launches := mapIf (fun l => l.id == n) f s.launches }

/-- A context by number. -/
def State.ctx? (s : State) (n : Nat) : Option Context := s.ctxs.find? (fun c => c.ctx == n)

/-- A context by number; an empty one of partition 0 where the state lists none. -/
def State.ctxOf (s : State) (n : Nat) : Context := (s.ctx? n).getD { ctx := n, part := 0 }

/-- Change a context. -/
def State.onCtx (s : State) (n : Nat) (f : Context → Context) : State :=
  { s with ctxs := mapIf (fun c => c.ctx == n) f s.ctxs }

/-- A partition by index. -/
def State.part? (s : State) (n : Nat) : Option Partition := s.parts.find? (fun p => p.idx == n)

/-- Change a partition. -/
def State.onPart (s : State) (n : Nat) (f : Partition → Partition) : State :=
  { s with parts := mapIf (fun p => p.idx == n) f s.parts }

/-- A resident image by handle. -/
def State.image? (s : State) (h : Nat) : Option Image := s.images.find? (fun i => i.handle == h)

/-- A procedure of an image (R28, R292). -/
def Image.proc? (i : Image) (n : Nat) : Option Proc := i.procs.find? (fun p => p.num == n)

/-- A procedure of a resident image. -/
def State.proc? (s : State) (h n : Nat) : Option Proc :=
  match s.image? h with
  | some i => i.proc? n
  | none => none

/-- The frame size of a procedure (R28); 8, the least, where the image holds none. -/
def State.frameSize (s : State) (h n : Nat) : Nat :=
  match s.proc? h n with
  | some p => p.f
  | none => 8

/-- The frame size of a thread's current procedure (R70). -/
def State.frameOf (s : State) (t : Thread) : Nat := s.frameSize t.image t.path.proc

/-- A command by number. -/
def State.cmd? (s : State) (n : Nat) : Option Cmd := s.cmds.find? (fun c => c.id == n)

/-- Change a command. -/
def State.onCmd (s : State) (n : Nat) (f : Cmd → Cmd) : State := { s with cmds := mapIf (fun c => c.id == n) f s.cmds }

/-- An access by number. -/
def State.acc? (s : State) (n : Nat) : Option Access := s.accs.find? (fun a => a.id == n)

/-- A long operation by number. -/
def State.long? (s : State) (n : Nat) : Option LongOp := s.longs.find? (fun a => a.id == n)

/-- Change a long operation. -/
def State.onLong (s : State) (n : Nat) (f : LongOp → LongOp) : State := { s with longs := mapIf (fun c => c.id == n) f s.longs }

/-- A number not used before, and the state that has used it. -/
def State.freshId (s : State) : Nat × State := (s.nextId, { s with nextId := s.nextId + 1 })

/-- The next open choice of a run (log entry 5), and the state that has used it. -/
def State.choose (s : State) : Nat × State :=
  match s.oracle with
  | n :: l => (n, { s with oracle := l })
  | [] => (Config.choose s.tick, { s with tick := s.tick + 1 })

/-- The next free value of a run (log entry 6), and the state that has used it. -/
def State.freeValue (s : State) : BitVec 128 × State := (Config.freeValue s.tick, { s with tick := s.tick + 1 })

/-- The outputs with one more; the Markhor log is on NVMe, and is not kept where its drives do not work (R388). -/
def State.shown (s : State) (o : Output) : List Output :=
  match o with
  | .log .. => if s.pkg.nvme then s.outputs ++ [o] else s.outputs
  | _ => s.outputs ++ [o]

/-- Show something to the outside. -/
def State.emit (s : State) (o : Output) : State := { s with outputs := s.shown o }

/-- The thread of a core that the state names. -/
def State.thread? (s : State) (cl co t : Nat) : Option Thread := (s.core cl co).thread? t

/-- Change a thread. -/
def State.onThread (s : State) (cl co t : Nat) (f : Thread → Thread) : State := s.onCore cl co (fun c => c.onThread t f)

/-- Change a group. -/
def State.onGroup (s : State) (cl co gs : Nat) (f : Group → Group) : State := s.onCore cl co (fun c => c.onGroup gs f)

/-! ### Path records (R32) -/

/-- The 128 bits of a path record (R32). -/
def Path.encode (p : Path) : Nat :=
  p.proc % 65536 * 2 ^ 112 + p.digits.length % 32 * 2 ^ 107 + p.op % 64 * 2 ^ 101 +
    ((p.digits.zipIdx.map (fun (d, i) => d % 64 * 2 ^ (90 - 6 * i))).foldl (· + ·) 0)

/-- The path of a record; none where its form is broken (R32, R44). -/
def Path.decode (n : Nat) : Option Path :=
  let d := bits n 107 5
  let digit := fun i => bits n (90 - 6 * i) 6
  if d > 16 || bits n 96 5 != 0 || (List.range 16).any (fun i => decide (d ≤ i) && digit i != 0) then none
  else some ⟨bits n 112 16, (List.range d).map digit, bits n 101 6⟩

end Sys2Proof.Machine
end

