-- ==== Sys2Proof/Machine/Translate.lean ====
section
/-! DEFINITION. Partitions' memory, page-table walks, TLBs, and the format checks of each space (R105 to R113, R304, R327 to R333). -/

namespace Sys2Proof.Machine

/-! ### Partitions (R304, R353) -/

/-- The number of partitions P; 1 before the map is set. -/
def State.partCount (s : State) : Nat := s.pkg.parts.getD 1

/-- HBM stacks of a partition (R304). -/
def State.stacksPerPart (s : State) : Nat := 12 / s.partCount

/-- Flat address of the first HBM byte of a partition (R304). -/
def State.partBase (s : State) (i : Nat) : Nat := Config.hbmBase + i * s.stacksPerPart * Config.hbmStack

/-- HBM capacity of a partition (R304). -/
def State.partCap (s : State) : Nat := s.stacksPerPart * Config.hbmStack

/-- Capacity for ordinary pages: below the metadata region and the carve-out (R353). -/
def State.ordinaryCap (s : State) (i : Nat) : Nat :=
  match s.part? i with
  | some p => s.partCap - p.carve - p.meta_
  | none => s.partCap

/-- Clusters of a partition are `12 / P` from `i × 12 / P` on (R304). -/
def State.partOfCluster (s : State) (cl : Nat) : Nat := cl / s.stacksPerPart

/-- The flat address of an offset in the bank memory of a base die (R304, R306). -/
def bankAddr (die off : Nat) : Nat := Config.bankBase + die * Config.bankDie + off

/-! ### Table entries (R328, R329) -/

/-- What a leaf gives for one byte: its flat address and the fields that govern the access (R328). -/
structure Leaf where
  phys : Nat
  kind : PageKind
  r : Bool
  w : Bool
  x : Bool
  prot : Bool
  rpw : Bool
  hbm : Bool
  inCarve : Bool
  refused : Bool
  uncached : Bool
deriving DecidableEq, Repr

/-- Bytes that a leaf of a level maps (R327). -/
def pageSize : Nat → Nat
  | 0 => 2 ^ 12
  | 1 => 2 ^ 21
  | _ => 2 ^ 30

/-- The flat address of a peer byte: by FABID, partition and offset in its export window (R332). -/
def peerAddr (p : Peer) (off : Nat) : Nat := Config.peerBase + (p.fabid.toNat * 16 + p.part) * 2 ^ 38 + off

/-- Every fabric port towards a chip is down (R376). -/
def State.unreachable (s : State) (fabid : Nat) : Bool :=
  let ps := s.pkg.ports.filter (fun p => Config.portTo p.id == fabid)
  !ps.isEmpty && ps.all (fun p => p.lanes == 0)

/-- A flat address of peer memory whose chip cannot be reached: an access to it stalls without fault (R332, R376). -/
def State.peerDown (s : State) (a : Nat) : Bool := decide (Config.peerBase ≤ a) && s.unreachable ((a - Config.peerBase) / 2 ^ 42)

/-- A flat address of HBM whose channel is quiesced for a soft repair: requests to it stall without fault (R369; log entry 21). -/
def State.quiesced (s : State) (a : Nat) : Bool :=
  decide (Config.hbmBase ≤ a) && decide (a < Config.hbmBase + 12 * Config.hbmStack) &&
    s.pkg.repairing.any (fun r => r.stack == (a - Config.hbmBase) / Config.hbmStack && r.channel == Config.channelOf ((a - Config.hbmBase) / 128) % 32)

/-- An access to a flat address stalls without fault: its chip cannot be reached, or its channel is quiesced. -/
def State.stallsAt (s : State) (a : Nat) : Bool := s.peerDown a || s.quiesced a

/-- The flat address of a byte of a partition's code pages, which lie beyond its HBM capacity (R295, R301; log entry 9). -/
def State.codeOffset (s : State) (part off : Nat) : Option Nat :=
  if s.partCap ≤ off && off < s.partCap + 4096 * Config.codePages then some (Config.codeBase + part * 2 ^ 32 + (off - s.partCap)) else none

/-- Where a leaf's FRAME puts a byte offset, as a flat address; none when the entry is malformed (R328, R329, R332, R353). A frame of a code
page is one for an entry that permits execute alone (R301). -/
def State.frameAddr (s : State) (part : Nat) (e size off : Nat) : Option (Nat × Bool × Bool × Bool) :=
  let frame := bits e 12 40 * 4096
  let prot := bit e 4
  if !bit e 51 then
    let hi := s.partCap
    let carveLo := match s.part? part with
      | some p => hi - p.carve
      | none => hi
    let inCarve := decide (carveLo ≤ frame)
    if frame % size != 0 then none
    else if hi ≤ frame then
      (if size == 4096 && bits e 6 3 == 4 && !prot then (s.codeOffset part frame).map (fun a => (a + off, false, false, false)) else none)
    else if (!prot && decide (s.ordinaryCap part ≤ frame)) || decide (hi ≤ frame) || (!inCarve && decide (s.ordinaryCap part ≤ frame)) then none
    else some (s.partBase part + frame + off, true, inCarve, false)
  else if !bit e 50 then
    let h := bits e 12 38 * 4096
    if h % size != 0 then none else some (Config.hostBase + h + off, false, false, false)
  else
    let page := bits e 12 26 * 4096
    if page % size != 0 || prot then none
    else
      match (s.part? part).bind (fun p => (p.peers.find? (fun x => x.1 == bits e 38 12)).map Prod.snd) with
      | some pr => some (peerAddr pr (page + off), false, false, decide (Config.peerWindow pr.fabid.toNat pr.part ≤ page + off))
      | none => none

/-- A leaf entry read for one byte; none when it is malformed (R329). -/
def State.readLeaf (s : State) (c : Context) (level e off : Nat) : Option Leaf :=
  let ord := bits e 2 2
  if bits e 54 10 != 0 || ord == 3 || bits e 9 2 == 3 || (level == 2 && bit e 53) || (bit e 4 && !c.prot) then none
  else
    match s.frameAddr c.part e (pageSize level) off with
    | none => none
    | some (a, hbm, inCarve, refused) =>
      some ⟨a, if ord == 0 then .rc else if ord == 1 then .so else .uo, bit e 6, bit e 7, bit e 8, bit e 4, bit e 5, hbm, inCarve, refused, bits e 9 2 == 2 || bit e 51⟩

/-- How a walk ends: at a leaf (level, its entry's flat address, its word), at a group of CONT whose leaves do not meet its declaration (those of
them that are leaves, R330), with a translation fault that an answer may resolve (an invalid entry) or may not (R329, R334), or at a table
that cannot be read now, for which it waits (R369). -/
inductive Walked where
  | leaf (level addr entry : Nat)
  | broken (level : Nat) (l : List (Nat × Nat))
  | fault (invalid : Bool)
  | wait
deriving DecidableEq, Repr

/-- The flat address of a table: it lies below the metadata region and the carve-out (R353), or on a code page that the Markhor uses for the
tables of the context's code (R301; log entry 9). -/
def State.tableAt (s : State) (c : Context) (table : Nat) : Option Nat :=
  if table < s.ordinaryCap c.part then some (s.partBase c.part + table)
  else if c.codeTables.contains (table - s.partCap) then s.codeOffset c.part table else none

/-- The leaves that a group of CONT holds for one level, and the bytes that it maps (R330). -/
def contLeaves (level : Nat) : Nat := if level == 0 then 16 else 256

/-- The leaves of the group of an entry, at a flat address of a level, where one of them has CONT and they do not all meet the declaration
(R330). -/
def State.brokenGroup (s : State) (c : Context) (level a : Nat) : Option (List (Nat × Nat)) :=
  let n := contLeaves level
  let lo := a - a % (8 * n)
  if 2 ≤ level || !s.mem.any (fun x => decide (lo ≤ x.1) && decide (x.1 < lo + 8 * n) && x.1 % 8 == 6 && x.2.getLsbD 5) then none
  else
    let es := (List.range n).map (fun i => (lo + 8 * i, s.mem.readLe (lo + 8 * i) 8))
    let leaves := es.filter (fun x => bit x.2 0 && bit x.2 1 && (s.readLeaf c level x.2 0).isSome)
    let step := pageSize level
    let base := fun (e : Nat) => e - (if bit e 11 then 2 ^ 11 else 0) - (if bit e 52 then 2 ^ 52 else 0)
    if !leaves.any (fun x => bit x.2 53) then none
    else if es.zipIdx.all (fun x => base x.1.2 == base (es.headD (0, 0)).2 + x.2 * step) && bits (es.headD (0, 0)).2 12 40 * 4096 % (n * step) == 0 && bit (es.headD (0, 0)).2 53 then none
    else some leaves

/-- The walk from a table of a level down (R327, R328). A poisoned entry is read as a malformed one: DESIGN CHOICE, where the spec names no
consumer of it (log entry 92). -/
def State.walk (s : State) (c : Context) (va : Nat) : Nat → Nat → Walked
  | fuel, table =>
    match s.tableAt c table with
    | none => .fault false
    | some b =>
      let a := b + 8 * bits va (12 + 9 * fuel) 9
      let e := s.mem.readLe a 8
      if s.stallsAt a then .wait
      else
        match s.brokenGroup c fuel a with
        | some l => .broken fuel l
        | none =>
          if s.poisoned a 8 then .fault false
          else if !bit e 0 then .fault true
          else if bit e 1 then
            (if fuel ≥ 3 then .fault false
             else if (s.readLeaf c fuel e (va % pageSize fuel)).isSome then .leaf fuel a e else .fault false)
          else if bits e 1 11 != 0 || bits e 52 12 != 0 then .fault false
          else
            match fuel with
            | 0 => .fault false
            | k + 1 => State.walk s c va k (bits e 12 40 * 4096)

/-- The tables to which the entries of a walk lead, each with its level: what the walker keeps (R333). -/
def State.walkTables (s : State) (c : Context) (va : Nat) : Nat → Nat → List (Nat × Nat)
  | 0, _ => []
  | k + 1, table =>
    match s.tableAt c table with
    | none => []
    | some b =>
      let a := b + 8 * bits va (12 + 9 * (k + 1)) 9
      let e := s.mem.readLe a 8
      if s.stallsAt a || s.poisoned a 8 || !bit e 0 || bits e 1 11 != 0 || bits e 52 12 != 0 then []
      else (k, bits e 12 40 * 4096) :: State.walkTables s c va k (bits e 12 40 * 4096)

/-- The index bits above a level: the addresses for which a non-leaf entry leads to one table of that level (R327). -/
def walkKey (level va : Nat) : Nat := va / 2 ^ (12 + 9 * (level + 1))

/-- A 57-bit canonical address: bits [63:57] equal bit 56 (R107). -/
def canonicalVa (a : Nat) : Bool := bits a 57 7 == (if bit a 56 then 127 else 0)

/-! ### TLBs (R330, R331, R333) -/

/-- The place of a core, its cluster or its die in a TLB level. -/
def tlbPlace (level cl co : Nat) : Nat := if level == 0 then cl * 128 + co else if level == 1 then cl else cl / 2

/-- The number of entries of a TLB level (R333). -/
def tlbCap (level : Nat) : Nat := if level == 0 then 128 else if level == 1 then 4096 else 8192

/-- The held translation of an address that a core finds first: its own, its cluster's, its die's (R333). -/
def State.tlbFind (s : State) (cl co ctx va : Nat) : Option TlbEntry :=
  let hit := fun level => s.tlb.find? (fun e => e.level == level && e.place == tlbPlace level cl co && e.ctx == ctx
    && decide (e.va ≤ va) && decide (va < e.va + e.size))
  match hit 0 with
  | some e => some e
  | none =>
    match hit 1 with
    | some e => some e
    | none => hit 2

/-- Drop the oldest entries of a TLB beyond its size (R333; log entry 13). -/
def tlbTrim (level place cap : Nat) : List TlbEntry → List TlbEntry
  | [] => []
  | e :: l =>
    if e.level == level && e.place == place then
      (match cap with | 0 => tlbTrim level place 0 l | k + 1 => e :: tlbTrim level place k l)
    else e :: tlbTrim level place cap l

/-- Hold a translation in the three TLBs of a core (R333). -/
def State.tlbHold (s : State) (cl co ctx va size : Nat) (leaf : Nat) : State :=
  let add := fun (l : List TlbEntry) level =>
    let e : TlbEntry := ⟨level, tlbPlace level cl co, ctx, va, size, BitVec.ofNat 64 leaf⟩
    tlbTrim level e.place (tlbCap level) (e :: l.filter (fun x => !(x.level == level && x.place == e.place && x.ctx == ctx && x.va == va && x.size == size)))
  { s with tlb := add (add (add s.tlb 0) 1) 2 }

/-- The size of a held translation as a level for the reading of its leaf. -/
def sizeLevel (size : Nat) : Nat := if size == 2 ^ 12 || size == 2 ^ 16 then 0 else if size == 2 ^ 21 || size == 2 ^ 29 then 1 else 2

/-- Where a walk starts: at the lowest table that a kept entry leads to, unless the walker has replaced that entry, which is a free
choice (R333; log entry 36). -/
def State.walkStart (s : State) (cl : Nat) (c : Context) (va : Nat) : List Nat → State × Nat × Nat
  | [] => (s, 4, c.ptroot)
  | k :: l =>
    match s.walks.find? (fun e => e.cl == cl && e.ctx == c.ctx && e.level == k && e.va == walkKey k va) with
    | none => State.walkStart s cl c va l
    | some e =>
      let (n, s1) := s.choose
      if n % 2 == 0 then (s1, k, e.table)
      else State.walkStart { s1 with walks := s1.walks.filter (· != e) } cl c va l

/-- The walker keeps the non-leaf entries that a walk has read (R333). -/
def State.walkHold (s : State) (cl : Nat) (c : Context) (va : Nat) (l : List (Nat × Nat)) : State :=
  l.foldl (fun st x =>
    let e : WalkEntry := ⟨cl, c.ctx, x.1, walkKey x.1 va, x.2⟩
    { st with walks := e :: st.walks.filter (fun y => !(y.cl == cl && y.ctx == c.ctx && y.level == x.1 && y.va == e.va)) }) s

/-- Walk the tables of a context from a cluster (R327, R333). -/
def State.walkFrom (s : State) (cl : Nat) (c : Context) (va : Nat) : State × Walked :=
  let (s1, level, table) := s.walkStart cl c va [0, 1, 2, 3]
  (s1.walkHold cl c va (s1.walkTables c va level table), s1.walk c va level table)

/-- Set A, and D for a write, in the entry that a walk has read, by compare-and-swap (R331). -/
def State.useLeaf (s : State) (a e : Nat) (dirty : Bool) : State × Nat :=
  let e1 := if bit e 11 then e else e + 2 ^ 11
  let e2 := if dirty && !bit e1 52 then e1 + 2 ^ 52 else e1
  (if e2 == e then s else s.storeLe a 8 e2, e2)

/-- The fields of a leaf of a group with its aligned base, for the page of an address (R330). -/
def groupEntry (e gsize page va : Nat) : Nat := e - bits e 12 40 * 4096 % gsize + va % gsize / page * page

/-- Load a translation: walk, set A by compare-and-swap, and hold the page or, for CONT, perhaps its group; a group whose leaves differ gives the
page the fields of some leaf of it, in an open choice (R330, R331). -/
def State.tlbLoad (s : State) (cl co : Nat) (c : Context) (va : Nat) (dirty : Bool) : State × Walked :=
  match s.walkFrom cl c va with
  | (s0, .fault i) => (s0, .fault i)
  | (s0, .wait) => (s0, .wait)
  | (s0, .broken level l) =>
    let (n, s1) := s0.choose
    let x := l.getD (n % l.length) (0, 0)
    let (s2, e) := s1.useLeaf x.1 x.2 dirty
    let size := pageSize level
    let e2 := groupEntry e (contLeaves level * size) size va
    (s2.tlbHold cl co c.ctx (va / size * size) size e2, .leaf level x.1 e2)
  | (s0, .leaf level a e) =>
    let (s1, e2) := s0.useLeaf a e dirty
    let size := pageSize level
    let (group, s2) := if bit e 53 && decide (level < 2) then
        (let (n, s') := s1.choose; (n % 2 == 1, s')) else (false, s1)
    let gsize := contLeaves level * size
    if group then (s2.tlbHold cl co c.ctx (va / gsize * gsize) gsize e2, .leaf level a e2)
    else (s2.tlbHold cl co c.ctx (va / size * size) size e2, .leaf level a e2)

/-- An access of the cluster is stalled on a page of a context: a miss there joins it and starts no walk (R333). -/
def State.joins (s : State) (cl ctx va : Nat) : Bool :=
  s.stalls.any (fun x => x.cl == cl && x.ctx == ctx && x.va % 2 ^ 57 / 4096 == va / 4096 && !x.fail && x.src != 1)

/-- Why an address has no translation now: a fault, which an answer may resolve or not, or a table that cannot be read (R334, R369). -/
inductive Miss where
  | fault (invalid : Bool)
  | wait
deriving DecidableEq, Repr

/-- A held translation that an access may use: none with D = 0 for a write (R331). -/
def State.tlbUse (s : State) (cl co ctx va : Nat) (write : Bool) : Option TlbEntry :=
  (s.tlbFind cl co ctx va).filter (fun t => !write || bit t.leaf.toNat 52)

/-- No translation of an address is held any more. -/
def State.tlbForget (s : State) (ctx va : Nat) : State :=
  { s with tlb := s.tlb.filter (fun x => !(x.ctx == ctx && decide (x.va ≤ va) && decide (va < x.va + x.size))) }

/-- Translate one byte of a context for a core: a held translation, a stall that it joins, or a walk (R333); a write walks where the
translation is held with D = 0 (R331). A held group of CONT gives every page of the group the fields of its leaf with the leaf's aligned base
(R330). -/
def State.translate (s : State) (cl co : Nat) (c : Context) (va : Nat) (write : Bool) : State × Except Miss Leaf :=
  if !canonicalVa va then (s, .error (.fault false))
  else
    let v := va % 2 ^ 57
    let use := fun (st : State) (e size : Nat) =>
      let level := sizeLevel size
      let page := pageSize level
      let e' := if size > page then groupEntry e size page v else e
      match st.readLeaf c level e' (v % page) with
      | some lf => Except.ok lf
      | none => .error (.fault false)
    match s.tlbUse cl co c.ctx v write with
    | some t => (s, use s t.leaf.toNat t.size)
    | none =>
      if s.joins cl c.ctx v then (s, .error (.fault true)) else
      match (if write then s.tlbForget c.ctx v else s).tlbLoad cl co c v false with
      | (s1, .fault i) => (s1, .error (.fault i))
      | (s1, .leaf level _ e) => (s1, use s1 e (pageSize level))
      | (s1, _) => (s1, .error .wait)

/-- Set D for a write before it is performed; a translation held with D = 0 walks again (R331). -/
def State.markDirty (s : State) (cl co : Nat) (c : Context) (va : Nat) : State :=
  let v := va % 2 ^ 57
  match s.tlbUse cl co c.ctx v true with
  | some _ => s
  | none => ((s.tlbForget c.ctx v).tlbLoad cl co c v true).1

/-- An address on the code pages of a resident image of the context (R301): execute only. -/
def State.onCode (s : State) (ctx va : Nat) : Bool :=
  s.images.any (fun i => i.ctx == ctx && decide (i.va ≤ va) && decide (va < i.va + (i.len + 4095) / 4096 * 4096))

/-- Why a code page cannot be fetched from (R209, R328, R329, R334): a cause of class 4 or 5 with the access part fetch, and whether the
context's fault mode may resolve it; or what it needs cannot be reached now (R369, R376). -/
inductive CodeFault where
  | fault (cause : Nat) (resolve : Bool)
  | wait
deriving DecidableEq, Repr

/-- The code page of an image that holds an offset, through the page tables of the context in which it is fetched: its leaf lets a fetch read
it, or why not (R209, R328, R329, R334). A fetch walks anew each time (R333 leaves replacement open). -/
def State.codePage (s : State) (i : Image) (off : Nat) : Except CodeFault Leaf :=
  let c := s.ctxOf i.ctx
  let va := i.va + off / 4096 * 4096
  let leaf := fun level e =>
    match s.readLeaf c level e (va % pageSize level) with
    | none => .error (.fault 0x43 false)
    | some lf => if !lf.x || lf.refused then .error (.fault 0x53 false) else if s.stallsAt lf.phys then .error .wait else .ok lf
  match s.walk c va 4 c.ptroot with
  | .wait => .error .wait
  | .fault r => .error (.fault 0x43 r)
  | .leaf level _ e => leaf level e
  | .broken level l =>
    let size := pageSize level
    leaf level (groupEntry (l.getD (Config.choose off % l.length) (0, 0)).2 (contLeaves level * size) size va)

/-- The first code page that a range of bytes reaches and no fetch may read: why, and the address of the lowest byte of the range on it. -/
def State.codeFault (s : State) (i : Image) (off n : Nat) : Option (CodeFault × Nat) :=
  match s.codePage i off with
  | .error f => some (f, i.va + off)
  | .ok _ =>
    if n = 0 || (off + n - 1) / 4096 = off / 4096 then none
    else
      let next := (off / 4096 + 1) * 4096
      match s.codePage i next with
      | .error f => some (f, i.va + next)
      | .ok _ => none

/-- The code pages of a procedure are in use: A is set in their leaves (R331); a fetch may run ahead (R209). -/
def State.useCode (s : State) (i : Image) (proc : Nat) : State :=
  match i.proc? proc with
  | none => s
  | some p =>
    (List.range' (p.coff / 4096) ((p.coff + p.clen + 4095) / 4096 - p.coff / 4096)).foldl (fun st k =>
      let c := st.ctxOf i.ctx
      match st.walk c (i.va + 4096 * k) 4 c.ptroot with
      | .leaf _ a e => (st.useLeaf a e false).1
      | _ => st) s

/-- The entry that the Markhor gives code page `frame` of a partition (R301): valid, a leaf, execute only, accessed. -/
def State.codeLeaf (s : State) (frame : Nat) : DWord := BitVec.ofNat 64 (s.partCap + frame * 4096 + 2 ^ 11 + 2 ^ 8 + 3)

/-- A code page of a partition that holds neither code nor a table, the last one (R295; log entry 9). -/
def State.freeTable (s : State) (part : Nat) : Option Nat :=
  let used := (s.ctxs.filter (fun c => c.part == part)).flatMap (fun c => c.codeTables.map (fun x => x / 4096))
  let free := fun f => !used.contains f && !(s.images.any (fun i => i.part == part && decide (i.frame ≤ f) && decide (f < i.frame + (i.len + 4095) / 4096)))
  (List.range (used.length + 1)).findSome? (fun k => let f := Config.codePages - 1 - k; if free f then some f else none)

/-- The Markhor writes an entry for an address into a context's tables from a table of a level down, with the tables that it takes on the way;
none where no code page is left for one (R295, R301; log entry 9). -/
def State.mapEntry (s : State) (ctx va : Nat) (entry : DWord) : Nat → Nat → Option State
  | level, table =>
    let c := s.ctxOf ctx
    match s.tableAt c table with
    | none => none
    | some b =>
      let a := b + 8 * bits va (12 + 9 * level) 9
      match level with
      | 0 => some (s.storeLe a 8 entry.toNat)
      | k + 1 =>
        let e := s.mem.readLe a 8
        if bit e 0 && !bit e 1 && (s.tableAt c (bits e 12 40 * 4096)).isSome then State.mapEntry s ctx va entry k (bits e 12 40 * 4096)
        else
          match s.freeTable c.part with
          | none => none
          | some f =>
            let t := s.partCap + f * 4096
            let s1 := (s.zero ((s.codeOffset c.part t).getD 0) 4096).storeLe a 8 (t + 1)
            State.mapEntry (s1.onCtx ctx (fun c => { c with codeTables := c.codeTables ++ [f * 4096] })) ctx va entry k t

/-- The code pages of an image in the tables of a context that fetches from it (R301; 23_address_translation.md). -/
def State.mapCode (s : State) (ctx : Nat) (i : Image) : Option State :=
  i.leaves.zipIdx.foldl (fun (st : Option State) x => st.bind (fun st => st.mapEntry ctx (i.va + 4096 * x.2) x.1 4 (st.ctxOf ctx).ptroot)) (some s)

/-! ### Checked access to global memory (R264, R265) -/

/-- Who accesses: the access code of the qualifier, whether it writes, and whether protected pages are allowed (R108, R359). -/
structure GmUse where
  code : Nat
  read : Bool
  write : Bool
  prot : Bool
deriving DecidableEq, Repr

/-- Why an access of the Saruz's own is not made: class 4 (with whether it may be resolved), 5 or 6, and the byte (R264); or
memory that cannot be reached now, a peer's or that of a quiesced channel, for which it stalls without fault (R332, R369, R376). -/
inductive PageFault where
  | translation (invalid : Bool) (va : Nat)
  | permission (va : Nat)
  | protection (va : Nat)
  | unreachable (va : Nat)
deriving DecidableEq, Repr

/-- The order of a page fault's check in R264. -/
def PageFault.order : PageFault → Nat
  | .translation .. => 6
  | .permission _ => 7
  | .protection _ => 8
  | .unreachable _ => 9

/-- The address of a page fault. -/
def PageFault.va : PageFault → Nat
  | .translation _ a | .permission a | .protection a | .unreachable a => a

/-- A protected context takes host traffic only while its function's TDI runs and has a secure stream (R361). -/
def State.hostRefused (s : State) (c : Context) : Bool :=
  c.prot && !s.spdm.any (fun x => x.fn == c.part + 1 && x.tdi == .run && !x.streams.isEmpty)

/-- A flat address of the host link's memory. -/
def onHost (a : Nat) : Bool := decide (Config.hostBase ≤ a) && decide (a < Config.peerBase)

/-- Check one page for an access at a byte (R264 orders 6 to 8; R301, R332, R359). Only the remote chip refuses an access beyond its window, so
that one to a peer that cannot be reached stalls (R332). -/
def State.checkPage (s : State) (cl co : Nat) (c : Context) (u : GmUse) (va : Nat) : State × Except PageFault Leaf :=
  if s.onCode c.ctx va then (s, .error (.permission va))
  else
    match s.translate cl co c va u.write with
    | (s1, .error (.fault i)) => (s1, .error (.translation i va))
    | (s1, .error .wait) => (s1, .error (.unreachable va))
    | (s1, .ok lf) =>
      let down := s1.stallsAt lf.phys
      if (u.read && !lf.r) || (u.write && !lf.w) || (lf.refused && !down) || (onHost lf.phys && s1.hostRefused c) then (s1, .error (.permission va))
      else if (if u.prot then c.prot && !(lf.prot && lf.inCarve) else lf.prot) then (s1, .error (.protection va))
      else if lf.refused then (s1, .error (.unreachable va))
      else (s1, .ok lf)

/-- One part of an access on a page. -/
def partOf (lf : Leaf) (len : Nat) (replay : Bool) : Part := { addr := lf.phys, len := len, kind := lf.kind, window := replay && lf.rpw && lf.hbm, prot := lf.prot, uncached := lf.uncached }

/-- Check an access of n bytes of global memory, both pages before either part (R265), and give its parts. -/
def State.checkGm (s : State) (cl co : Nat) (c : Context) (u : GmUse) (va n : Nat) : State × Except PageFault (List Part) :=
  let first := 4096 - va % 4096
  let dirty := fun (st : State) a => if u.write then st.markDirty cl co c a else st
  if n ≤ first then
    match s.checkPage cl co c u va with
    | (s1, .error f) => (s1, .error f)
    | (s1, .ok lf) => (dirty s1 va, .ok [partOf lf n c.replay])
  else
    let va2 := (va + first) % 2 ^ 64
    match s.checkPage cl co c u va with
    | (s1, .error f1) =>
      match s1.checkPage cl co c u va2 with
      | (s2, .error f2) => (s2, .error (if f2.order < f1.order then f2 else f1))
      | (s2, .ok _) => (s2, .error f1)
    | (s1, .ok l1) =>
      match s1.checkPage cl co c u va2 with
      | (s2, .error f2) => (s2, .error f2)
      | (s2, .ok l2) => (dirty (dirty s2 va) va2, .ok [partOf l1 first c.replay, { partOf l2 (n - first) c.replay with off := first }])

/-! ### The other spaces (R109, R112, R113) -/

/-- Flat address of a byte of a core's scratchpad (R12). -/
def spAddr (cl co off : Nat) : Nat := Config.spBase + (128 * cl + co) * 2 ^ 20 + off

/-- The bytes of a scratchpad access: flat address and stamped target; none is a class-8 fault (R109). -/
def State.spPart (s : State) (cl ctx a n : Nat) : Option Part :=
  let gen := bits a 34 6
  let co := bits a 27 7
  let off := bits a 0 20
  let k := s.core cl co
  if bits a 40 24 != 0 || bits a 20 7 != 0 then none
  else
    match k.block with
    | some b =>
      if b.ctx != ctx || decide (off + n > b.z) || (gen != 0 && gen != k.gen) then none
      else some { addr := spAddr cl co off, len := n, gen := some (k.gen, cl, co) }
    | none => none

/-- The bytes of a bank access (R112); none is a class-9 fault. -/
def bkPart (c : Context) (a n : Nat) : Option Part :=
  let die := bits a 29 3
  let off := bits a 0 26
  if die ≥ 6 || bits a 26 3 != 0 then none
  else
    match c.bkwin[die]? with
    | some w => if off + n > w.len then none else some { addr := bankAddr die (w.base + off), len := n }
    | none => none

end Sys2Proof.Machine
end

