-- ==== Sys2Proof/Machine/Protected.lean ====
section
/-! DEFINITION. The integrity unit: lines of protected pages as ciphertext with counters and tags (R354 to R359), and
the reading and writing of the parts of an access. -/

namespace Sys2Proof.Machine

/-! ### Lines (R354, R356, R357) -/

/-- A physical address: the offset in the partition's HBM (R327, R354). -/
def State.physOf (s : State) (part a : Nat) : Nat := a - s.partBase part

/-- The counter block of block j of a line, by its physical address (R354). -/
def counterBlock (line ctr j : Nat) : BitVec 128 := BitVec.ofNat 128 (line / 128 % 2 ^ 44 * 2 ^ 84 + ctr % 2 ^ 56 * 2 ^ 24 + j % 8)

/-- Encipher or decipher 128 bytes under KE: each block exclusive-or SM4 of its counter block (R354). -/
def lineCipher (ke : BitVec 128) (line ctr : Nat) (l : List Byte) : List Byte :=
  (List.range 8).flatMap (fun j =>
    let p := BitVec.ofNat 128 (leNat ((l.drop (16 * j)).take 16))
    leBytes 16 (p ^^^ Config.sm4 ke (counterBlock line ctr j)).toNat)

/-- The tag of a line's ciphertext under KT (R354). -/
def lineTag (kt : BitVec 128) (line ctr : Nat) (cipher : List Byte) : Nat :=
  let g := Config.ghash (Config.sm4 kt 0) cipher
  (Config.sm4 kt (g ^^^ counterBlock line ctr 0)).toNat / 2 ^ 64

/-- The flat address of a line's tag: the metadata region holds the tags in line order (R353, R354). -/
def State.tagAddr (s : State) (p : Partition) (line : Nat) : Nat :=
  let top := s.partBase p.idx + s.partCap
  top - p.carve - p.meta_ + (line - (top - p.carve)) / 128 * 8

/-- A tag that does not match: INTEGFAIL counts it (R357). -/
def State.integFailed (s : State) (part : Nat) : State := s.onPart part (fun p => { p with integFail := p.integFail + 1 })

/-- The integrity failures of all partitions since reset (R362). -/
def State.integFails (s : State) : Nat := (s.parts.map (fun p => p.integFail)).foldl (· + ·) s.pkg.integPast

/-! ### The counter tree (R355, R356) -/

/-- Sizes of the levels of a counter tree, from n leaves up to what the root's 8 counters cover (R353, R355). -/
def treeSizes : Nat → Nat → List Nat
  | 0, _ => []
  | fuel + 1, n => n :: (if n ≤ 8 then [] else treeSizes fuel ((n + 7) / 8))

/-- The nodes above an index of a level: each with its flat address, the counter it has in its parent and the die of the first
line it covers; the levels lie one after another, leaves first (R355; log entry 40). -/
def treePath (data : Nat) : List Nat → Nat → Nat → Nat → List (Nat × Nat × Nat)
  | [], _, _, _ => []
  | n :: l, base, i, span =>
    (base + 64 * i, if l.isEmpty then i else i % 8, (data + i * span) / Config.hbmStack / 2) :: treePath data l (base + 64 * n) (i / 8) (8 * span)

/-- The nodes above a line, its leaf first: a leaf covers 1 KiB (R355). -/
def State.linePath (s : State) (p : Partition) (line : Nat) : List (Nat × Nat × Nat) :=
  let data := s.partBase p.idx + s.partCap - p.carve
  treePath data (treeSizes 64 (p.carve / 1024)) (data - p.meta_ + p.carve / 16) ((line - data) / 1024) 1024

/-- The counter of its leaf that a line has (R355). -/
def lineSlot (line : Nat) : Nat := line / 128 % 8

/-- The 448 counter bits of a node (R355). -/
def ctrBits (ctrs : List Nat) : Nat := ctrs.foldr (fun c n => c % 2 ^ 56 + 2 ^ 56 * n) 0

/-- The tag of a node under KI, by its physical address, with its counter in its parent (R354, R355). -/
def nodeTag (ki : BitVec 128) (addr ctr : Nat) (ctrs : List Nat) : Nat :=
  let g := Config.ghash (Config.sm4 ki 0) (leBytes 64 (ctrBits ctrs))
  let cb := BitVec.ofNat 128 (addr / 128 % 2 ^ 44 * 2 ^ 84 + addr / 64 % 2 * 2 ^ 83 + 2 ^ 82 + ctr % 2 ^ 56 * 2 ^ 24)
  (Config.sm4 ki (g ^^^ cb)).toNat / 2 ^ 64

/-- A node or tag enters the cache of its die (R356). -/
def State.cacheAdd (s : State) (part : Nat) (n : TreeNode) : State :=
  let (id, s1) := s.freshId
  s1.onPart part (fun q => { q with nodes := q.nodes ++ [{ n with age := id }] })

/-- The counters of a node of a path, checked upward to a cached node or the root; every node that is checked enters the cache.
None where one does not verify. A node that memory does not hold yet has counters 0 (R355, R356; log entry 40). -/
def State.treeFetch (s : State) (part : Nat) : List (Nat × Nat × Nat) → Option (State × List Nat)
  | [] => (s.part? part).map (fun p => (s, p.root))
  | (a, k, die) :: up =>
    match s.part? part with
    | none => none
    | some p =>
      match p.nodes.find? (fun n => n.addr == a && !n.tag) with
      | some n => some (s, n.ctrs)
      | none =>
        match State.treeFetch s part up with
        | none => none
        | some (s1, above) =>
          let held := p.written.contains a
          let x := s1.mem.readLe a 64
          let ctrs := if held then (List.range 8).map (fun i => bits x (64 + 56 * i) 56) else List.replicate 8 0
          if s1.poisoned a 64 || (held && nodeTag (p.ki.getD 0) (s.physOf part a) (above.getD k 0) ctrs != bits x 0 64) then none
          else some (s1.cacheAdd part { addr := a, slot := k, up := up, die := die, ctrs := ctrs }, ctrs)

/-- Set a counter of the first node of a path, or of the root (R355, R356). -/
def State.treeSet (s : State) (part : Nat) (path : List (Nat × Nat × Nat)) (k x : Nat) : State :=
  s.onPart part (fun p =>
    match path with
    | [] => { p with root := p.root.set k x }
    | (a, _, _) :: _ => { p with nodes := mapIf (fun n => n.addr == a && !n.tag) (fun n => { n with ctrs := n.ctrs.set k x, dirty := true }) p.nodes })

/-- Evict a node or tag: a dirty node steps its counter in its parent and goes to memory with a new tag; a line's tag stands in memory already.
A node whose parent does not verify, or whose counter there is at its limit, stays (R356; log entry 40). -/
def State.treeEvict (s : State) (part age : Nat) : State :=
  match s.part? part with
  | none => s
  | some p =>
    match p.nodes.find? (fun n => n.age == age) with
    | none => s
    | some n =>
      let addr := n.addr
      let out := fun (st : State) (l : List Nat → List Nat) =>
        st.onPart part (fun q => { q with nodes := q.nodes.filter (fun y => y.age != age), written := l q.written })
      if !n.dirty then out s id
      else
        match s.treeFetch part n.up with
        | none => s
        | some (s1, above) =>
          let c := above.getD n.slot 0 + 1
          if 2 ^ 56 ≤ c then s
          else
            let s2 := (s1.treeSet part n.up n.slot c).store addr (leBytes 64 (nodeTag (p.ki.getD 0) (s.physOf part addr) c n.ctrs + 2 ^ 64 * ctrBits n.ctrs))
            out s2 (fun l => setInsert l addr)

/-- What the cache of a die holds, of every partition whose lines are homed there (R356). -/
def State.dieNodes (s : State) (die : Nat) : List (Nat × TreeNode) :=
  s.parts.flatMap (fun p => (p.nodes.filter (fun n => n.die == die)).map (fun n => (p.idx, n)))

/-- Bytes that a node or a tag takes in the cache. -/
def TreeNode.bytes (n : TreeNode) : Nat := if n.tag then 8 else 64

/-- The oldest of some cached nodes. -/
def oldestNode : List (Nat × TreeNode) → Option (Nat × TreeNode)
  | [] => none
  | x :: l => match oldestNode l with | some y => if y.2.age < x.2.age then some y else some x | none => some x

/-- Evict the oldest nodes and tags of a die's cache while they pass its 4 MiB, less room for one line's (R356; log entry 40). -/
def State.trimDie (s : State) (die : Nat) : Nat → State
  | 0 => s
  | n + 1 =>
    let l := s.dieNodes die
    if (l.map (fun x => x.2.bytes)).foldl (· + ·) 0 ≤ Config.metaCache then s
    else match oldestNode l with | some (p, x) => State.trimDie (s.treeEvict p x.age) die n | none => s

/-- The die on which a line is homed (R356). -/
def lineDie (line : Nat) : Nat := line / Config.hbmStack / 2

/-- Evict what the caches cannot hold after an access to a line; a node's parents may be homed on other dies (R356). -/
def State.treeTrim (s : State) : State := (List.range 6).foldl (fun st die => st.trimDie die 64) s

/-- The tag of a line, from the cache or from memory; none where memory's is poisoned (R356). -/
def State.tagOf (s : State) (p : Partition) (line : Nat) : Option Nat :=
  let ta := s.tagAddr p line
  match p.nodes.find? (fun n => n.addr == ta && n.tag) with
  | some n => some (n.ctrs.getD 0 0)
  | none => if s.poisoned ta 8 then none else some (s.mem.readLe ta 8)

/-- A line's tag as it enters the cache, or changes there (R356). -/
def State.holdTag (s : State) (part ta line tag : Nat) : State :=
  (s.onPart part (fun q => { q with nodes := q.nodes.filter (fun n => !(n.addr == ta && n.tag)) })).cacheAdd part
    { addr := ta, slot := 0, up := [], die := lineDie line, ctrs := [tag], tag := true }

/-- The plaintext of a line for a context; none when its tag or a node above it does not match (R356, R357). -/
def State.lineRead (s : State) (c : Context) (line : Nat) : State × Option (List Byte) :=
  match s.part? c.part with
  | none => (s, none)
  | some p =>
    match s.treeFetch c.part (s.linePath p line) with
    | none => (s, none)
    | some (s1, ctrs) =>
      let ctr := ctrs.getD (lineSlot line) 0
      let ciph := s.mem.readBytes line 128
      let pa := s.physOf c.part line
      let tag := lineTag (c.kt.getD 0) pa ctr ciph
      if c.ke.isNone || c.kt.isNone || s.tagOf p line != some tag then (s1, none)
      else ((s1.holdTag c.part (s.tagAddr p line) line tag).treeTrim, some (lineCipher (c.ke.getD 0) pa ctr ciph))

/-- A counter of a path, or of the root above it, is at its limit, so that the eviction of a node below it would take it past (R356). -/
def State.pathFull (s : State) (part : Nat) : List (Nat × Nat × Nat) → Bool
  | [] => false
  | (_, k, _) :: up =>
    (match s.treeFetch part up with
     | some (_, above) => decide (2 ^ 56 - 1 ≤ above.getD k 0)
     | none => false) || State.pathFull s part up

/-- Write a line: the counter steps, the line is enciphered and its tag computed, its leaf is dirty; an error where a node above it
does not match (true), or where a counter would pass its limit, its own or one above it when its leaf is evicted (R356). -/
def State.lineWrite (s : State) (c : Context) (line : Nat) (l : List Byte) : Except Bool State :=
  match s.part? c.part with
  | none => .error false
  | some p =>
    let path := s.linePath p line
    match s.treeFetch c.part path with
    | none => .error true
    | some (s0, ctrs) =>
      let ctr := ctrs.getD (lineSlot line) 0
      if c.ke.isNone || c.kt.isNone || decide (2 ^ 56 - 1 ≤ ctr) || s0.pathFull c.part path then .error false
      else
        let pa := s.physOf c.part line
        let ciph := lineCipher (c.ke.getD 0) pa (ctr + 1) l
        let tag := lineTag (c.kt.getD 0) pa (ctr + 1) ciph
        let s1 := { s0 with mem := s0.mem.writeBytes line ciph }
        let s2 := (s1.storeLe (s.tagAddr p line) 8 tag).holdTag c.part (s.tagAddr p line) line tag
        .ok (s2.treeSet c.part path (lineSlot line) (ctr + 1)).treeTrim

/-- Put bytes into a list at an offset. -/
def splice (l : List Byte) (at_ : Nat) (x : List Byte) : List Byte := l.take at_ ++ x ++ l.drop (at_ + x.length)

/-- The lines that n bytes from an address lie on, each with the first byte and the number of bytes on it. -/
def linesOf (a n : Nat) : List (Nat × Nat × Nat) :=
  if n = 0 then []
  else (List.range' (a / 128) ((a + n - 1) / 128 - a / 128 + 1)).map (fun k =>
    let lo := max a (128 * k)
    (128 * k, lo, min (a + n) (128 * k + 128) - lo))

/-- Bytes of protected lines as plaintext; none, and a count in INTEGFAIL, when a tag does not match (R356, R357). -/
def State.protRead (s : State) (c : Context) (a n : Nat) : State × Option (List Byte) :=
  (linesOf a n).foldl (fun r (line, lo, len) =>
    match r with
    | (st, none) => (st, none)
    | (st, some x) =>
      match st.lineRead c line with
      | (s1, some l) => (s1, some (x ++ (l.drop (lo - line)).take len))
      | (s1, none) => (s1.integFailed c.part, none)) (s, some [])

/-- The bytes that a command has for a line by now: those kept of it with new ones over them (R357). -/
def fillLine (old : List (Nat × Byte)) (at_ : Nat) (l : List Byte) : List (Nat × Byte) :=
  l.zipIdx.foldl (fun acc (b, i) => assocSet 0 acc (at_ + i) b) old

/-- Seal a line with 128 bytes; the words of a range of it are no longer poisoned (R356, R368). -/
def State.seal (s : State) (c : Context) (line lo len : Nat) (l : List Byte) : State × Bool :=
  match s.lineWrite c line l with
  | .error bad => (if bad then s.integFailed c.part else s, false)
  | .ok s1 =>
    let full := (wordsOf lo len).filter (fun w => decide (lo ≤ 4 * w) && decide (4 * w + 4 ≤ lo + len))
    ({ s1 with poison := s1.poison.filter (fun w => !full.contains w) }, true)

/-- Bytes of a line that its command writes whole, while what is stored does not match its tag: the line is left as it is until the last of
them is there, so that it fails again if the command ends before (R357). -/
def State.fillWhole (s : State) (c : Context) (by_ line lo : Nat) (l : List Byte) : State × Bool :=
  let key := fun (x : Nat × Nat × List (Nat × Byte)) => x.1 == by_ && x.2.1 == line
  let rest := fun (p : Partition) => p.filling.filter (fun x => !key x)
  let old := (((s.part? c.part).bind (fun p => p.filling.find? key)).map (fun x => x.2.2)).getD []
  let got := fillLine old (lo - line) l
  let have_ := (List.range 128).all (fun i => got.any (fun x => x.1 == i))
  if have_ then (s.onPart c.part (fun p => { p with filling := rest p })).seal c line line 128 ((List.range 128).map (assocGet 0 got))
  else (s.onPart c.part (fun p => { p with filling := rest p ++ [(by_, line, got)] }), true)

/-- Write bytes to protected lines, each line in one step (R356, R358). A line that is written in part is read first;
`whole` says that the command `by_` writes every byte of it, so that nothing of the old line is kept. -/
def State.protWrite (s : State) (c : Context) (by_ : Nat) (whole : Nat → Bool) (a : Nat) (l : List Byte) : State × Bool :=
  (linesOf a l.length).foldl (fun (st, ok) (line, lo, len) =>
    let new := (l.drop (lo - a)).take len
    if !ok then (st, ok)
    else if len == 128 then st.seal c line lo len new
    else
      match st.lineRead c line with
      | (s1, some x) => s1.seal c line lo len (splice x (lo - line) new)
      | (s1, none) => if whole line then s1.fillWhole c by_ line lo new else (s1.integFailed c.part, false)) (s, true)

/-! ### Parts (R58, R119, R126, R368) -/

/-- A part that lies naturally aligned is performed at once, any other byte by byte (R119, R126). -/
def Part.split (p : Part) : List Part :=
  if (p.len == 1 || p.len == 2 || p.len == 4 || p.len == 8 || p.len == 16) && p.addr % p.len == 0 then [p]
  else (List.range p.len).map (fun k => { p with addr := p.addr + k, len := 1, off := p.off + k })

/-- Read a part: each byte with the poison of its word; every byte poisoned where the integrity unit refuses it (R359). -/
def State.readPart (s : State) (c : Context) (p : Part) : State × List (Nat × Byte × Bool) :=
  let pois := fun k => s.poison.contains ((p.addr + k) / 4)
  if p.prot then
    match s.protRead c p.addr p.len with
    | (s1, some l) => (s1, l.zipIdx.map (fun (b, k) => (p.off + k, b, pois k)))
    | (s1, none) => (s1, (List.range p.len).map (fun k => (p.off + k, 0, true)))
  else (s, (s.mem.readBytes p.addr p.len).zipIdx.map (fun (b, k) => (p.off + k, b, pois k)))

/-- Write a part from the data of its access. -/
def State.writePart (s : State) (c : Context) (p : Part) (data : List Byte) : State :=
  let l := (data.drop p.off).take p.len
  if p.prot then (s.protWrite c 0 (fun _ => false) p.addr l).1 else s.store p.addr l

/-- Bytes of global memory that the Saruz itself reads for a context (R78, R80, R95, R319): the data, and whether any
byte is poisoned. -/
def State.gmRead (s : State) (cl co : Nat) (c : Context) (prot : Bool) (va n : Nat) : State × Except PageFault (List Byte × Bool) :=
  match s.checkGm cl co c ⟨0, true, false, prot⟩ va n with
  | (s1, .error f) => (s1, .error f)
  | (s1, .ok ps) =>
    if ps.any (fun p => s1.stallsAt p.addr) then (s1, .error (.unreachable va))
    else
      let (s2, l) := ps.foldl (fun (acc : State × List (Nat × Byte × Bool)) p => let (st, x) := acc.1.readPart c p; (st, acc.2 ++ x)) (s1, [])
      (s2, .ok (l.map (fun x => x.2.1), l.any (fun x => x.2.2)))

/-- Bytes of global memory that the Saruz itself writes for a context. -/
def State.gmWrite (s : State) (cl co : Nat) (c : Context) (prot : Bool) (va : Nat) (l : List Byte) : State × Except PageFault Unit :=
  match s.checkGm cl co c ⟨1, false, true, prot⟩ va l.length with
  | (s1, .error f) => (s1, .error f)
  | (s1, .ok ps) =>
    if ps.any (fun p => s1.stallsAt p.addr) then (s1, .error (.unreachable va)) else (ps.foldl (fun st p => st.writePart c p l) s1, .ok ())

/-- The poisoned words that a write of a part covers only in part (R340, R368). -/
def State.partlyPoisoned (s : State) (p : Part) : List Nat :=
  (wordsOf p.addr p.len).filter (fun w => s.poison.contains w && !(decide (p.addr ≤ 4 * w) && decide (4 * w + 4 ≤ p.addr + p.len)))

end Sys2Proof.Machine
end

