-- ==== Sys2Proof/Machine/Sync.lean ====
section
/-! DEFINITION. What orders the accesses of a thread beside their bytes: fences and what they cover, scopes, acquires, and what a write from outside
the threads does to loads that have read ahead (R118, R121 to R125, R128, R129). -/

namespace Sys2Proof.Machine

/-! ### Fences and the accesses they cover (R121, R122, R125, R129) -/

/-- A fence. -/
def Access.isFence (a : Access) : Bool := match a.op with | .fence .. => true | _ => false

/-- An access that reads or writes: no fence, no prefetch and no publication, which order nothing themselves (R125, R270). -/
def Access.real (a : Access) : Bool := match a.op with | .fence .. | .prefetch | .publish .. => false | _ => true

/-- Some part that is still to perform is not on a UO page; a register access orders as RC does (R121, R122). -/
def Access.nonUo (a : Access) : Bool := a.real && (a.parts.isEmpty || a.parts.any (fun p => p.kind != .uo))

/-- A fence covers an access: any of its bytes lies in the range; in `.sp` the generation does not count, and an empty range covers
nothing (R125). The bytes of a register access are taken from its address on, as many as its width: DESIGN CHOICE of the model (log
entry 75). -/
def Access.covers (f a : Access) : Bool :=
  match f.op with
  | .fence none _ _ => true
  | .fence (some x) lo hi =>
    let ea := if x == .sp then a.ea.toNat - bits a.ea.toNat 34 6 * 2 ^ 34 else a.ea.toNat
    x == a.space && decide (lo < hi) && decide (ea < hi) && decide (lo < ea + a.width)
  | _ => false

/-- A fence that orders earlier accesses before later ones: a release or a full one (R122). -/
def Access.releases (f : Access) : Bool := f.isFence && (f.ord == .rel || f.ord == .full)

/-- An owner of one access owns the other. -/
def Access.sharesOwner (a b : Access) : Bool := (a.tid :: a.also).any (fun t => t == b.tid || b.also.contains t)

/-- A fence orders an earlier access of its thread before a later one (R122). -/
def Access.between (f a b : Access) : Bool :=
  match f.op with
  | .fence .. => ((f.ord == .rel || f.ord == .full) && f.covers a) || ((f.ord == .acq || f.ord == .full) && f.covers b)
  | _ => false

/-! ### Scopes (R118, R123) -/

/-- A scope includes two agents, each given by its cluster, core and group slot (R9, R118). -/
def includes (scope : Nat) (x y : Nat × Nat × Nat) : Bool :=
  match scope with
  | 0 => x == y
  | 1 => x.1 == y.1 && x.2.1 == y.2.1
  | 2 => x.1 == y.1 && x.2.1 / 2 == y.2.1 / 2
  | 3 => x.1 == y.1
  | 4 => x.1 / 2 == y.1 / 2
  | _ => true

/-- Where the thread of an access runs. -/
def Access.agent (a : Access) : Nat × Nat × Nat := (a.cl, a.co, a.gslot)

/-- An earlier acquire orders a later access of its thread: by itself, or by a fence between them whose scope a test accepts (R122, R123). -/
def Access.acquires (a : Access) (mid : List Access) (b : Access) (fenceOk : Nat → Bool) : Bool :=
  a.ord == .acq && a.real && a.nonUo && a.sharesOwner b &&
    (b.nonUo || mid.any (fun f => f.sharesOwner a && f.sharesOwner b && f.between a b && fenceOk f.scope))

/-- Loads forget what they have read before an earlier acquire that passes a test; the test takes the acquire, the accesses between and the
load. What `keep` accepts they do not forget. -/
def forgetWhere (sync : Access → List Access → Access → Bool) (keep : Access → Part × List (Nat × Byte × Bool) → Bool) : List Access → List Access → List Access
  | _, [] => []
  | pre, b :: l =>
    let rec held : List Access → Bool
      | [] => false
      | a :: mid => sync a mid b || held mid
    (if !b.looked.isEmpty && held pre then { b with looked := b.looked.filter (keep b) } else b) :: forgetWhere sync keep (pre ++ [b]) l

/-- An acquire that a later access has passed takes what it would have read then, where it could synchronise now. -/
def fixWhere (sync : Access → Bool) (l : List Access) : List Access := l.map (fun a => if !a.passed.isEmpty && sync a then { a with fixed := true } else a)

/-- The Eland, the host or another chip has written: its release includes every agent, and an acquire at PACKAGE scope or above includes it
(R118, R317). -/
def State.releasesOutside (s : State) : State :=
  let anew := forgetWhere (fun a mid b => decide (5 ≤ a.scope) && a.acquires mid b (fun sc => decide (5 ≤ sc))) (fun _ _ => false) [] s.accs
  { s with accs := fixWhere (fun a => decide (5 ≤ a.scope)) anew }

end Sys2Proof.Machine
end

