-- ==== Sys2Proof/Machine/Ops.lean ====
section
/-! DEFINITION. The named operations on threads and groups: registers, thread ends, barriers, the error record,
taking a trap (R221) and returning from it (R224). -/

namespace Sys2Proof.Machine

/-! ### Registers (R12, R58, R70) -/

/-- Register vn of a thread's window (R70). -/
def Thread.v (t : Thread) (n : Nat) : PWord := assocGet ⟨0, false⟩ t.stk (t.wb + n)

/-- Write a word of a thread's stack; a write clears its poison unless the word is given poisoned (R58). -/
def Thread.setStk (t : Thread) (w : Nat) (x : PWord) : Thread := { t with stk := assocSet ⟨0, false⟩ t.stk w x }

/-- Write register vn of a thread's window. -/
def Thread.setV (t : Thread) (n : Nat) (x : Word) : Thread := t.setStk (t.wb + n) ⟨x, false⟩

/-- Predicate pn; p0 reads true (R18). -/
def Thread.p_ (t : Thread) (n : Nat) : PBit := if n = 0 then ⟨true, false⟩ else assocGet ⟨false, false⟩ t.preds n

/-- Write predicate pn; a write to p0 is discarded (R18, R228). -/
def Thread.setP (t : Thread) (n : Nat) (b : Bool) : Thread :=
  if n = 0 then t else { t with preds := assocSet ⟨false, false⟩ t.preds n ⟨b, false⟩ }

/-- Register gn of a group. -/
def Group.gReg (g : Group) (n : Nat) : PWord := assocGet ⟨0, false⟩ g.g n

/-- Write register gn. -/
def Group.setG (g : Group) (n : Nat) (x : Word) : Group := { g with g := assocSet ⟨0, false⟩ g.g n ⟨x, false⟩ }

/-- Write register gn with a poison bit, as a load does (R58). -/
def Group.setGP (g : Group) (n : Nat) (x : PWord) : Group := { g with g := assocSet ⟨0, false⟩ g.g n x }

/-- Predicate qn of a group. -/
def Group.qReg (g : Group) (n : Nat) : PBit := assocGet ⟨false, false⟩ g.q n

/-- Write predicate qn. -/
def Group.setQ (g : Group) (n : Nat) (b : Bool) : Group := { g with q := assocSet ⟨false, false⟩ g.q n ⟨b, false⟩ }

/-- The thread has not ended or parked. -/
def Thread.live (t : Thread) : Bool :=
  match t.act with
  | .ended | .parked => false
  | _ => true

/-- The greatest of a list of numbers; 0 of none. -/
def greatest (l : List Nat) : Nat := l.foldl max 0

/-- Two threads of a group stand at the same place: equal path stacks, and the same act (R59). A thread that waits at a barrier or at a cell has issued its
operation, so it is not at one place with a thread that comes to that operation, and their fronts do not merge: DESIGN CHOICE where R61 does not
say (log entry 95). -/
def sameSpot (t u : Thread) : Bool := t.path == u.path && t.calls == u.calls && t.act == u.act && t.image == u.image

/-- The record address that crec reads: 0 outside save and restore procedures (R99, R195). -/
def Thread.crec (t : Thread) : DWord :=
  match t.overlay with
  | .none => 0
  | .save _ _ _ r | .restore _ _ _ r => r

/-! ### The error record (R349 to R351) -/

/-- The 256 bits of an entry (R350). -/
def ErrEntry.encode (e : ErrEntry) : Nat :=
  e.path % 2 ^ 128 * 2 ^ 128 + e.addr % 2 ^ 64 * 2 ^ 64 + e.code % 256 * 2 ^ 56 + e.cluster % 16 * 2 ^ 52 + e.core % 128 * 2 ^ 45 +
    e.gslot % 64 * 2 ^ 39 + e.tslot % 32 * 2 ^ 34 + e.kind % 8 * 2 ^ 31 + e.cause % 512 * 2 ^ 22 + e.orig % 512 * 2 ^ 13

/-- Write an entry to a record whose bytes are reached by `rd` and `wr`, and then its HEAD, a release at SYSTEM scope; whether the writes went well, and
whether the ring was full (R349). -/
def recordWrite (rd : State → Nat → Nat → State × Option Nat) (wr : State → Nat → List Byte → State × Bool)
    (base : Nat) (e : ErrEntry) (s : State) : State × Bool × Bool :=
  match rd s base 32 with
  | (s1, none) => (s1, false, false)
  | (s1, some h) =>
    let head := bits h 0 32
    let tail := bits h 32 32
    if (head + 2 ^ 32 - tail) % 2 ^ 32 == 256 then
      let (s2, ok) := wr s1 (base + 12) (leBytes 5 ((bits h 96 32 + 1) % 2 ^ 32 + 2 ^ 32))
      (s2, ok, true)
    else
      match wr s1 (base + 64 + 32 * (head % 256)) (leBytes 32 e.encode) with
      | (s2, false) => (s2, false, false)
      | (s2, true) =>
        let (s3, ok) := wr s2 base (leBytes 4 ((head + 1) % 2 ^ 32))
        (if ok then s3.releasesOutside else s3, ok, false)

/-- Set OVF in the header of a context's error record (R345, R349). -/
def recordOvf (rd : State → Nat → Nat → State × Option Nat) (wr : State → Nat → List Byte → State × Bool) (base : Nat) (s : State) : State :=
  match rd s (base + 16) 1 with
  | (s1, none) => s1
  | (s1, some x) => (wr s1 (base + 16) (leBytes 1 (if bit x 0 then x else x + 1))).1

/-- Reads and writes of a context's own record go through its page tables (R349). -/
def ctxRd (cl co : Nat) (c : Context) (s : State) (a n : Nat) : State × Option Nat :=
  match s.gmRead cl co c false (a % 2 ^ 64) n with
  | (s1, .ok (l, _)) => (s1, some (leNat l))
  | (s1, .error _) => (s1, none)

/-- As ctxRd, a write. -/
def ctxWr (cl co : Nat) (c : Context) (s : State) (a : Nat) (l : List Byte) : State × Bool :=
  match s.gmWrite cl co c false (a % 2 ^ 64) l with
  | (s1, .ok _) => (s1, true)
  | (s1, .error _) => (s1, false)

/-- Append an entry to a context's error record; a latent error also sets ERRSUM.LATENT, an overflow or a failed write
ERRSUM.OVF, and a failed write goes to the Markhor log (R349). -/
def State.writeLog (s : State) (cl co : Nat) (c : Context) (e : ErrEntry) : State :=
  let (s1, ok, full) := recordWrite (ctxRd cl co c) (ctxWr cl co c) c.errrec.toNat e s
  let s2 := s1.onCtx c.ctx (fun c => { c with ovf := c.ovf || full || !ok, latent := c.latent || e.kind == 0 })
  if ok then s2 else s2.emit (.log 1 c.ctx e.encode)

/-- A context's error record cannot be reached now: its header, or the next entry (R369, R376). -/
def State.recordAway (s : State) (cl co : Nat) (c : Context) : Bool :=
  let base := c.errrec.toNat
  let away := fun va => match (s.translate cl co c (va % 2 ^ 64) false).2 with | .ok lf => s.stallsAt lf.phys | .error m => m == .wait
  away base || (match (ctxRd cl co c s base 4).2 with | some head => away (base + 64 + 32 * (head % 256)) | none => false)

/-- An entry for a context waits for its record, or for entries that do. -/
def State.logWaits (s : State) (cl co : Nat) (c : Context) : Bool := s.lateLogs.any (fun x => x.ctx == c.ctx) || s.recordAway cl co c

/-- An entry for a context's error record: written, or held until the record can be reached (R349, R369, R376). -/
def State.logCtx (s : State) (cl co ctx : Nat) (e : ErrEntry) : State :=
  match s.ctx? ctx with
  | none => s
  | some c =>
    if s.logWaits cl co c then
      let s1 : State := { s with lateLogs := s.lateLogs ++ [{ cl := cl, co := co, ctx := ctx, entry := e }] }
      s1.onCtx ctx (fun c => { c with latent := c.latent || e.kind == 0 })
    else s.writeLog cl co c e

/-- OVF in a context's record and in its ERRSUM (R345). -/
def State.setOvf (s : State) (cl co : Nat) (c : Context) : State :=
  (recordOvf (ctxRd cl co c) (ctxWr cl co c) c.errrec.toNat s).onCtx c.ctx (fun c => { c with ovf := true })

/-- An asynchronous error that a full pending slot turned away (R345): an undelivered entry, OVF in record and ERRSUM. -/
def State.logUndelivered (s : State) (cl co ctx : Nat) (e : ErrEntry) (ovf : Bool) : State :=
  match s.ctx? ctx with
  | none => s
  | some c =>
    if s.logWaits cl co c then
      let s1 : State := { s with lateLogs := s.lateLogs ++ [{ cl := cl, co := co, ctx := ctx, entry := e, ovf := ovf }] }
      s1.onCtx ctx (fun c => { c with ovf := c.ovf || ovf })
    else
      let s1 := s.writeLog cl co c e
      if ovf then s1.setOvf cl co ((s1.ctx? ctx).getD c) else s1

/-- Entries that waited are written, in their order, as far as their records can be reached; those of a context that is gone are dropped. -/
def State.retryLogs (s : State) : State :=
  s.lateLogs.foldl (fun (st : State) x =>
    match st.ctx? x.ctx with
    | none => st
    | some c =>
      if st.logWaits x.cl x.co c then { st with lateLogs := st.lateLogs ++ [x] }
      else
        let s1 := st.writeLog x.cl x.co c x.entry
        if x.ovf then s1.setOvf x.cl x.co ((s1.ctx? x.ctx).getD c) else s1) { s with lateLogs := [] }

/-- Reads and writes of a partition's record lie in its HBM (R351). -/
def partRd (i : Nat) (s : State) (a n : Nat) : State × Option Nat := (s, some (s.mem.readLe (s.partBase i + a) n))

/-- As partRd, a write. -/
def partWr (i : Nat) (s : State) (a : Nat) (l : List Byte) : State × Bool := (s.store (s.partBase i + a) l, true)

/-- Append a note to a partition's error record, which holds the context number in PATH, or 0xFFFF (R351). -/
def State.logPart (s : State) (i : Nat) (ctx : Option Nat) (e : ErrEntry) : State :=
  match (s.part? i).bind (fun p => p.errrec) with
  | none => s
  | some a => (recordWrite (partRd i) (partWr i) a { e with path := ctx.getD 0xFFFF } s).1

/-- A latent error (R58, R340). -/
def State.logLatent (s : State) (cl co ctx gs k cause addr path : Nat) : State :=
  s.logCtx cl co ctx { kind := 0, cause := cause, addr := addr, cluster := cl, core := co, gslot := gs, tslot := k, path := path }

/-- A debug audit entry, written while BKPTEN reads 1 on the core (R342). -/
def State.audit (s : State) (cl co gs : Nat) (t : Thread) (d : Nat) : State :=
  if (s.core cl co).bkpten then
    match s.launch? t.launch with
    | some l => s.logCtx cl co l.ctx { kind := 7, cause := 0x150 + d, path := t.path.encode, cluster := cl, core := co, gslot := gs, tslot := t.tslot }
    | none => s
  else s

/-! ### Units and barriers (R83 to R89) -/

/-- The block level: the lowest level bound to CORE or above; the last level where there is none (R85). -/
def Launch.blockLevel (l : Launch) : Nat :=
  match l.levels.findIdx? (fun d => decide (d.domain ≥ 1)) with
  | some i => i
  | none => l.levels.length - 1

/-- Threads of a level-L unit: the product of the extents up to L (R83). -/
def Launch.unitSize (l : Launch) (lev : Nat) : Nat := (l.levels.take (lev + 1)).foldl (fun n d => n * d.extent) 1

/-- Threads of a block. -/
def Launch.blockSize (l : Launch) : Nat := l.unitSize l.blockLevel

/-- The level-L unit of a thread by linear index. -/
def Launch.unitOf (l : Launch) (lev linear : Nat) : Nat := linear / l.unitSize lev

/-- lidx0 to lidx7 of a launch thread (R84); the top level of a launch across chips counts from the chip's first unit (R325). -/
def Launch.lidxOf (l : Launch) (linear : Nat) : List Nat :=
  (List.range 8).map (fun i =>
    match l.levels[i]? with
    | some d => linear / (if i = 0 then 1 else l.unitSize (i - 1)) % d.extent + (if i + 1 = l.levels.length then l.first else 0)
    | none => 0)

/-- lext0 to lext7 (R84). -/
def Launch.lextOf (l : Launch) : List Nat :=
  (List.range 8).map (fun i => match l.levels[i]? with
    | some d => if l.top != 0 && i + 1 == l.levels.length then l.top else d.extent
    | none => 1)

/-- Blocks in a unit of a level (R85). -/
def Launch.blocksIn (l : Launch) (lev : Nat) : Nat := l.unitSize lev / l.blockSize

/-- The level whose units are placed whole: the highest GANG level above the block (R87). -/
def Launch.gangLevel (l : Launch) : Option Nat :=
  ((List.range l.levels.length).filter (fun i => decide (l.blockLevel < i) && (match l.levels[i]? with | some d => d.gang | none => false))).getLast?

/-- The blocks that are saved with one for a service action: those of its GANG unit (R87, R371). -/
def Launch.unitBlocks (l : Launch) (index : Nat) : List Nat :=
  match l.gangLevel with
  | none => [index]
  | some g => (l.blocks.map (fun b => b.index)).filter (fun i => i / l.blocksIn g == index / l.blocksIn g)

/-- A block starts from continuation records: its launch resumes a pool, or it migrates (R104, R371). -/
def Launch.relaunches (l : Launch) (b : BlockRec) : Bool := l.resumed || b.stay.isSome

/-- A thread counts for its units' barriers: unended and not detached (R88). -/
def Thread.counts (t : Thread) : Bool := !t.detached && (match t.act with | .ended => false | _ => true)

/-- The unended, undetached threads of a level-L unit of a launch: resident ones, those of blocks not yet placed, and
those that have parked (R88). -/
def State.aliveIn (s : State) (l : Launch) (lev u : Nat) : Nat :=
  let inU := fun linear => l.unitOf lev linear == u
  let resident := (s.cores.map (fun c => (c.threads.filter (fun t => t.launch == l.id && t.counts && inU t.linear)).length)).foldl (· + ·) 0
  let others := (l.blocks.map (fun b =>
    match b.at_ with
    | .waiting =>
      if l.relaunches b then (b.records.filter (fun r => !r.detached && inU r.stack)).length
      else ((List.range l.blockSize).filter (fun i => inU (b.index * l.blockSize + i))).length
    | .saved | .placed .. => (b.parked.filter inU).length
    | .ended => 0)).foldl (· + ·) 0
  resident + others

/-- The barrier of a unit in a list; phase 0 with no arrivals where the list has none. -/
def barrierOf (bs : List Barrier) (lev u : Nat) : Barrier :=
  (bs.find? (fun b => b.level == lev && b.unit == u)).getD ⟨lev, u, 0, 0, []⟩

/-- Put a barrier into a list. -/
def putBarrier (b : Barrier) : List Barrier → List Barrier
  | [] => [b]
  | x :: l => if x.level == b.level && x.unit == b.unit then b :: l else x :: putBarrier b l

/-- The barriers at and below the block live in its core, the others in the context's barrier area (R89; log entry 14). -/
def State.barrier (s : State) (cl co : Nat) (l : Launch) (lev u : Nat) : Barrier :=
  if lev ≤ l.blockLevel then
    (match (s.core cl co).block with | some b => barrierOf b.barriers lev u | none => ⟨lev, u, 0, 0, []⟩)
  else barrierOf l.barriers lev u

/-- Put a barrier in its place. -/
def State.setBarrier (s : State) (cl co : Nat) (l : Launch) (b : Barrier) : State :=
  if b.level ≤ l.blockLevel then
    s.onCore cl co (fun c => { c with block := c.block.map (fun x => { x with barriers := putBarrier b x.barriers }) })
  else s.onLaunch l.id (fun x => { x with barriers := putBarrier b x.barriers })

/-- An arrival of a unit still waits for accesses before it (R88, R219). -/
def State.arrivalPends (s : State) (launch lev u : Nat) : Bool :=
  s.accs.any (fun a => match a.op with | .publish (.arrival l v n) _ => l == launch && v == lev && n == u | _ => false)

/-- Complete a phase whose arrivals equal the unit's unended, undetached threads and are all performed (R88, R219). Where threads ended while an
arrival was not performed yet, more may have arrived than are left. -/
def State.barrierCheck (s : State) (cl co launch lev u : Nat) : State :=
  match s.launch? launch with
  | none => s
  | some l =>
    let b := s.barrier cl co l lev u
    if b.arrived != 0 && s.aliveIn l lev u ≤ b.arrived && !s.arrivalPends launch lev u then s.setBarrier cl co l { b with phase := b.phase + 1, arrived := 0 } else s

/-- Check every level's barrier of a thread, as its end may complete a phase (R88, R216). -/
def State.barrierCheckAll (s : State) (cl co launch linear : Nat) : State :=
  match s.launch? launch with
  | none => s
  | some l => (List.range l.levels.length).foldl (fun st lev => st.barrierCheck cl co launch lev (l.unitOf lev linear)) s

/-! ### Service notes, save requests and spare cores (R99, R366, R371 to R374) -/

/-- A class-22 note in a context's record and in the Markhor log. -/
def State.noteCtx (s : State) (cl co ctx d addr : Nat) : State :=
  (s.logCtx cl co ctx { kind := 6, cause := 0x160 + d, addr := addr, cluster := cl, core := co }).emit (.log 3 d addr)

/-- A class-22 note of no single context, in a partition's record and in the Markhor log (R351). -/
def State.notePart (s : State) (part : Nat) (ctx : Option Nat) (d cl co addr : Nat) : State :=
  (s.logPart part ctx { kind := 6, cause := 0x160 + d, addr := addr, cluster := cl, core := co }).emit (.log 3 d addr)

/-- Ask for the save of a block and, for a service action, of its GANG unit (R99, R371); a time slice takes over a drain (R373). -/
def State.requestSave (s : State) (cl co : Nat) (why : SaveWhy) : State :=
  match (s.core cl co).block with
  | none => s
  | some b =>
    match s.launch? b.launch with
    | none => s
    | some l =>
      let us := if why == .slice then [b.index] else l.unitBlocks b.index
      let ask := fun (x : Block) => if x.launch == b.launch && us.contains x.index then { x with save := if why == .slice then some why else some (x.save.getD why) } else x
      { s with cores := s.cores.map (fun c => { c with block := c.block.map ask }) }

/-- A spare of the cluster takes over a core's logical number; with none left the number stays unavailable (R374). Either repairs a cluster
whose clear has failed (R313; log entry 88). -/
def State.replaceCore (s : State) (cl co : Nat) : State :=
  let k := s.cluster cl
  let old := (s.core cl co).svc.phys
  let fixed := k.failed || k.repaired
  if k.spares = 0 then (s.setCluster { k with repaired := fixed }).onCore cl co (fun c => { c with svc := { c.svc with fenced := true, replaceDue := false, testDue := false, testing := false } })
  else
    let s1 := (s.setCluster { k with spares := k.spares - 1, repaired := fixed }).onCore cl co (fun c =>
      { c with svc := { testing := false, testDue := false, replaceDue := false, failed := false, marks := 0, fenced := false, phys := Config.coresPerCluster + 4 - k.spares } })
    s1.notePart (cl / (12 / s1.pkg.parts.getD 1)) none 2 cl co old

/-- Begin the replacement of a core: at once where it is free, else once its block is drained (R373, R374). -/
def State.startReplace (s : State) (cl co : Nat) : State :=
  let c := s.core cl co
  if c.svc.fenced || c.svc.replaceDue then s
  else if c.block.isNone && !c.svc.testing then s.replaceCore cl co
  else (s.onCore cl co (fun c => { c with svc := { c.svc with replaceDue := true } })).requestSave cl co .replace

/-- A second mismatch marks a core for test, whose next one is brought forward; a core marked twice within an interval is replaced under AUTOSPARE (R366, R374). -/
def State.markCore (s : State) (cl co : Nat) : State :=
  let c := s.core cl co
  let s1 := match c.block with | some b => s.noteCtx cl co b.ctx 3 0 | none => s
  let s2 := s1.onCore cl co (fun c => { c with svc := { c.svc with marks := c.svc.marks + 1, forward := true } })
  if decide (2 ≤ c.svc.marks + 1) && s2.pkg.policy.getLsbD 16 then s2.startReplace cl co else s2

/-- A core is free of its block: a replacement or a test that waited for it begins (R371, R374). -/
def State.coreFreed (s : State) (cl co : Nat) : State :=
  let c := s.core cl co
  if c.svc.replaceDue then s.replaceCore cl co
  else if c.svc.testDue then s.onCore cl co (fun c => { c with svc := { c.svc with testing := true, testDue := false } })
  else s

/-! ### Fronts of a group (R59, R60, R67) -/

/-- Remove a slot from every front; fronts with no thread cease to exist (R60). -/
def dropSlot (k : Nat) (fs : List Front) : List Front :=
  (fs.map (fun f => { f with tslots := f.tslots.filter (· != k) })).filter (fun f => !f.tslots.isEmpty)

/-- A thread has met what the wait sets of the group wait for (R67); a demotion ends when its wait set is empty. -/
def Core.waitMet (c : Core) (gs k : Nat) : Core :=
  { c with threads := c.threads.map (fun t =>
      if t.gslot == some gs && t.demoted then
        let w := t.waitSet.filter (· != k)
        { t with waitSet := w, demoted := !w.isEmpty }
      else t) }

/-- Take a thread out of its group (R59, R60, R67). -/
def Core.leaveGroup (c : Core) (t : Thread) : Core :=
  match t.gslot with
  | none => c
  | some gs =>
    let c1 := c.onGroup gs (fun g => { g with fronts := dropSlot t.tslot g.fronts, members := g.members.filter (fun m => m.1 != t.tslot) })
    (c1.waitMet gs t.tslot).onThread t.tid (fun x => { x with gslot := none, demoted := false, waitSet := [], waitOld := [] })

/-! ### Ends (R216, R346, R348) -/

/-- Remove a group whose threads have all left, ended or parked; its full pending slot is recorded as undelivered (R346). A
group with writes not yet hashed against the log first makes its last chunk boundary, once what it has written is known (R382). -/
def State.groupGone (s : State) (cl co gs : Nat) : State :=
  let c := s.core cl co
  match c.group? gs with
  | none => s
  | some g =>
    if !g.members.isEmpty || !g.unhashed.isEmpty then s
    else if g.count != 0 then s.onGroup cl co gs (fun g => { g with bounds := g.bounds ++ [(g.count, g.sum)], sum := 0, count := 0 })
    else if !g.bounds.isEmpty then s
    else
      let s1 := s.setCore { c with groups := c.groups.filter (fun x => x.slot != gs), ibuf := c.ibuf.filter (fun x => x.1 != gs) }
      match g.pend, s.launch? g.launch with
      | some cause, some l => s1.logUndelivered cl co l.ctx { kind := 2, cause := cause, cluster := cl, core := co, gslot := gs } false
      | _, _ => s1

/-- A front goes on when a handler ends: the one stopped for it, and one whose own fault was not delivered (R344). -/
def Front.resume (tid : Nat) (f : Front) : Front :=
  match f.stop with
  | some (.handler t) => if t == tid then { f with stop := none } else f
  | some (.trap ..) => { f with stop := none }
  | _ => f

/-- A handler's thread ends or returns: its group is free for another trap and stopped fronts go on (R221, R224, R344). -/
def Core.freeHandler (c : Core) (gs tid : Nat) : Core :=
  c.onGroup gs (fun g => if g.handler == some tid then { g with handler := none, fronts := g.fronts.map (Front.resume tid) } else g)

/-- The thread ends (R216): out of its front, its group and every barrier count; its slot is freed later (THREAD_SLOT_FREE). -/
def State.endThread (s : State) (cl co tid : Nat) : State :=
  match s.thread? cl co tid with
  | none => s
  | some t =>
    let gs := t.gslot.getD 64
    let c1 := ((s.core cl co).freeHandler gs tid).leaveGroup t
    let s1 := s.setCore (c1.onThread tid (fun x => { x with act := .ended, frame := none }))
    (s1.groupGone cl co gs).barrierCheckAll cl co t.launch t.linear

/-- End threads in turn. -/
def State.endThreads (s : State) (cl co : Nat) : List Nat → State
  | [] => s
  | t :: l => (s.endThread cl co t).endThreads cl co l

/-- Kill a group (R348): an entry "group killed", MSI-X vector 2, and every thread ends. -/
def State.killGroup (s : State) (cl co gs cause orig path k addr : Nat) : State :=
  let c := s.core cl co
  match c.group? gs with
  | none => s
  | some g =>
    match s.launch? g.launch with
    | none => s.endThreads cl co (g.members.map Prod.snd)
    | some l =>
      let s1 := s.logCtx cl co l.ctx { kind := 1, cause := cause, orig := orig, path := path, addr := addr, cluster := cl, core := co, gslot := gs, tslot := k }
      (s1.emit (.msix l.part 2)).endThreads cl co (g.members.map Prod.snd)

/-! ### Taking a trap (R221, R227, R343) -/

/-- The enclosing bounded loops whose counters count at a position: those whose node lies above it (R36, R78; log entry 15). -/
def tripsAt (trips : List (Nat × Nat)) (p : Path) : List (Nat × Nat) := trips.filter (fun x => decide (x.1 < p.digits.length))

/-- The handler of a cause and its level: the resting procedure's own for classes 0 and 21, else the supervisor's (R221, R343). -/
def State.handlerOf (s : State) (t : Thread) (cause proc : Nat) : Option (Nat × Nat × Level) :=
  let cls := cause / 16
  let own := if cls == 0 || cls == 21 then (s.proc? t.image proc).bind (fun p => p.handler) else none
  match own with
  | some h => some (t.image, h, .user)
  | none =>
    match (s.launch? t.launch).bind (fun l => s.ctx? l.ctx) with
    | some c => c.svproc.map (fun p => (c.svimg, p, .supervisor))
    | none => none

/-- The situation bits of a class-23 cause (R342). -/
def nestedSituation (saving : Bool) (t : Thread) (lev : Level) : Nat :=
  match t.overlay with
  | .restore .. => 3
  | _ => if saving then 2 else (match lev with | .user => 0 | .supervisor => 1)

/-- The number of calls in progress of a thread, a running handler counting as one (R78). -/
def Thread.depth (t : Thread) : Nat := t.calls.length

/-- What delivery does to the thread (R221 steps 1, 3 and 4): fills the trap frame, saves the trip record and the
predicates, moves the window to the interrupted top with zeroed words, and enters the handler's root. A demotion stands (R67). -/
def trapThread (t : Thread) (cause k : Nat) (addr : DWord) (path rest : Path) (act : Act) (f fh image h : Nat) (lev : Level) : Thread :=
  let trips := tripsAt t.trips rest
  let fr : TrapFrame :=
    { cause := cause, k := k, addr := addr, path := path, rest := rest, act := act, level := lev, fromLevel := t.level,
      preds := t.preds, wb := t.wb, f := f, depth := t.depth, image := t.image, trips := trips }
  let stk := (List.range fh).foldl (fun l i => assocSet ⟨0, false⟩ l (t.wb + f + i) ⟨0, false⟩) t.stk
  { t with frame := some fr, stk := stk, wb := t.wb + f, preds := [], trips := [],
           spilled := t.spilled.filter (fun j => !(decide (t.wb + f ≤ 8 * j) && decide (8 * j < t.wb + f + fh))),
           tripRecs := if trips.isEmpty then t.tripRecs else assocSet [] t.tripRecs t.depth (trips.map Prod.snd),
           tripSpilled := t.tripSpilled.filter (· != t.depth),
           calls := t.calls ++ [rest], tops := t.tops ++ [t.wb + f], path := ⟨h, [], 0⟩, image := image, level := lev, act := .move .enter }

/-- The checks of R221 step 2: room for the handler's window and for a trip record. -/
def trapRoom (t : Thread) (rest : Path) (f fh : Nat) : Bool :=
  decide (t.sptr.toNat + t.p + 4 * (t.wb + f + fh) ≤ t.slim.toNat) &&
    ((tripsAt t.trips rest).isEmpty || decide (t.depth < t.td))

/-- What delivery to a thread comes to (R221, R227, R343): the handler with its frame sizes, or the class-23 cause of the kill and
what it ends: a frame already valid, a missing handler (cause 3 with the level it would have had), or a stack or trip area without room. -/
def State.trapOutcome (s : State) (t : Thread) (saving : Bool) (cause : Nat) (rest : Path) : Except (Nat × Nat) (Nat × Nat × Level × Nat × Nat) :=
  match t.frame with
  | some fr => .error ((if cause / 4 == 0x5E then 0x178 else 0x170) + nestedSituation saving t fr.level, fr.cause)
  | none =>
    match s.handlerOf t cause rest.proc with
    | none => .error (0x17D, cause)
    | some (img, h, lev) =>
      let f := s.frameSize t.image rest.proc
      let fh := s.frameSize img h
      if !trapRoom t rest f fh then .error (0x174 + nestedSituation saving t lev, cause) else .ok (img, h, lev, f, fh)

/-- A save request stands for the core's block (R99). -/
def Core.saving (c : Core) : Bool := match c.block with | some b => b.save.isSome | none => false

/-- TAKE A TRAP (R221): deliver a cause to a thread at a position at rest, or kill its group (R227, R343, R348); a cause of class 23
stands for a poisoned IV or IP read (R342). -/
def State.takeTrap (s : State) (cl co tid cause k : Nat) (addr : DWord) (path rest : Path) (act : Act) : State :=
  let c := s.core cl co
  match c.thread? tid with
  | none => s
  | some t =>
    let gs := t.gslot.getD 64
    match s.trapOutcome t c.saving cause rest with
    | .error (kill, orig) => s.killGroup cl co gs kill orig path.encode k addr.toNat
    | .ok (img, h, lev, f, fh) =>
      let c1 := c.setThread (trapThread t cause k addr path rest act f fh img h lev)
      s.setCore (c1.onGroup gs (fun g => { g with handler := some tid }))

/-! ### Returning from a trap (R224) -/

/-- The actions of tret (R224). -/
inductive TretAction where
  | retry | skip | quit
deriving DecidableEq, Repr

/-- The action of tret a for a cause: DEFAULT skips classes 0 and 21 and retries every other (R224). -/
def tretAction (a cause : Nat) : TretAction :=
  match a with
  | 0 => if cause / 16 == 0 || cause / 16 == 21 then .skip else .retry
  | 1 => .retry
  | 2 => .skip
  | _ => .quit

/-- Where a thread goes on after tret (R43, R224): RETRY at the position at rest, with its act; SKIP past it. -/
def tretAct (a : TretAction) (act : Act) : Act :=
  match a with
  | .skip => (match act with | .rest => .move .advance | _ => .move .complete)
  | _ => act

/-- What tret does to the thread: the handler's window, records, predicates and level give way to the interrupted ones, the words
above every frame that goes on are released, and the trip record saved at delivery is reloaded; one that the pager holds in the trip
area is reloaded before the thread goes on (R78, R80, R224). -/
def tretThread (t : Thread) (fr : TrapFrame) (a : TretAction) : Thread :=
  let top := max (fr.wb + fr.f) (greatest (t.tops.take fr.depth))
  let out := t.tripSpilled.contains fr.depth
  let counts := assocGet [] t.tripRecs fr.depth
  { t with stk := t.stk.filter (fun x => decide (x.1 < top)), wb := fr.wb,
           trips := fr.trips.zipIdx.map (fun (x, i) => (x.1, counts.getD i 0)), preds := fr.preds,
           tripRecs := t.tripRecs.filter (fun x => decide (x.1 < fr.depth + (if out then 1 else 0))),
           tripSpilled := t.tripSpilled.filter (fun j => decide (j ≤ fr.depth)),
           spilled := t.spilled.filter (fun j => decide (8 * j < top)),
           calls := t.calls.take fr.depth, tops := t.tops.take fr.depth, path := fr.rest, image := fr.image, level := fr.fromLevel, frame := none,
           act := tretAct a fr.act, begun := t.begun || a == .skip }

/-- A thread that returns to the place where the rest of its stopped front stands is of that front again, so that the operation
issues again for it and the threads above, and a cross-thread or uniform one whole (R53, R55, R57); else it goes on alone. The
grant of the clause it has left is over (R66). -/
def Core.rejoin (c : Core) (gs : Nat) (t : Thread) (mid : Option MidPass) : Core :=
  c.onGroup gs (fun g =>
    let here := fun (f : Front) => f.stop == some (.handler t.tid) && (match f.tslots.head?.bind (c.threadAt g) with | some u => sameSpot t u | none => false)
    match g.fronts.find? here, g.fronts.find? (fun f => f.tslots.contains t.tslot) with
    | some f, some own =>
      { g with fronts := (dropSlot t.tslot g.fronts).map (fun h =>
          if h.tslots == f.tslots then { h with tslots := setInsert h.tslots t.tslot, age := max h.age own.age } else h) }
    | _, _ => { g with fronts := g.fronts.map (fun f => if f.tslots.contains t.tslot then { f with granted := false, mid := if t.act == .rest then mid else none } else f) })

/-- RETURN FROM A TRAP (R224) for a thread whose frame is valid: restore it, free the group for another trap, unblock the
stopped front, and end the thread for QUIT. The handler's clause is complete (R67); an operation that issues again does so in the pass that
stopped at it (R6). -/
def State.trapReturn (s : State) (cl co : Nat) (t : Thread) (fr : TrapFrame) (a : TretAction) : State :=
  let gs := t.gslot.getD 64
  match a with
  | .quit => s.endThread cl co t.tid
  | _ =>
    let t1 := tretThread t fr a
    let c := ((((s.core cl co).setThread t1).rejoin gs t1 fr.mid).freeHandler gs t.tid).waitMet gs t.tslot
    s.setCore (c.onGroup gs (fun g => if g.pend.isSome then { g with tretTo := some (t.tid, a == .skip) } else g))

/-! ### Asynchronous errors (R345) -/

/-- Post an asynchronous error to a group (R345). -/
def State.postAsync (s : State) (cl co gs cause : Nat) : State :=
  match (s.core cl co).group? gs with
  | none => s
  | some g =>
    match g.pend with
    | none => s.onGroup cl co gs (fun g => { g with pend := some cause })
    | some _ =>
      match s.launch? g.launch with
      | none => s
      | some l => s.logUndelivered cl co l.ctx { kind := 2, cause := cause, cluster := cl, core := co, gslot := gs } true

end Sys2Proof.Machine
end

