-- ==== Sys2Proof/Machine/Tree.lean ====
section
/-! DEFINITION. Resident code as bytes, the nodes of a procedure's tree, and the walk (R28 to R43, R201 to R209, R212). -/

namespace Sys2Proof.Machine

/-! ### Code bytes (R301) -/

/-- The flat address of a byte of an image's resident code as the Markhor installs it (R301; log entry 9). -/
def Image.codeAddr (i : Image) (off : Nat) : Nat := Config.codeBase + i.part * 2 ^ 32 + i.frame * 4096 + off

/-- An image as a thread fetches from it: through the page tables of the thread's context (R301; 23_address_translation.md). -/
def State.codeOf (s : State) (t : Thread) (h : Nat) : Option Image :=
  (s.image? h).map (fun i => { i with ctx := ((s.launch? t.launch).map (fun l => l.ctx)).getD i.ctx })

/-- Code bytes with their poison, on one page of an image; none where the page cannot be fetched from. -/
def State.codeOn (s : State) (i : Image) (off n : Nat) : List (Byte × Bool) :=
  match s.codePage i off with
  | .error _ => []
  | .ok lf =>
    let a := lf.phys + off % 4096
    if lf.prot then (s.readPart (s.ctxOf i.ctx) { addr := a, len := n, prot := true }).2.map (fun x => x.2)
    else (s.mem.readBytes a n).zipIdx.map (fun (b, j) => (b, s.poison.contains ((a + j) / 4)))

/-- n code bytes of an image with their poison, as far as its pages can be fetched from. -/
def State.codePoisons (s : State) (i : Image) (off n : Nat) : List (Byte × Bool) :=
  let k := min n (4096 - off % 4096)
  let l := s.codeOn i off k
  if n ≤ k || l.isEmpty then l else l ++ s.codeOn i (off + k) (n - k)

/-- n code bytes of an image, zeros where its pages cannot be fetched from. -/
def State.code (s : State) (i : Image) (off n : Nat) : List Byte :=
  let l := (s.codePoisons i off n).map Prod.fst
  l ++ List.replicate (n - l.length) 0

/-- Some code byte of a range is poisoned. -/
def State.codePoison (s : State) (i : Image) (off n : Nat) : Bool := (s.codePoisons i off n).any (fun x => x.2)

/-- Bytes of a constant pool with their poison (R269), or why its page cannot be read. -/
def State.poolBytes (s : State) (i : Image) (off n : Nat) : Except (CodeFault × Nat) (List (Byte × Bool)) :=
  match s.codeFault i off n with
  | some f => .error f
  | none => .ok (s.codePoisons i off n)

/-- A fetch fault (R208, R209): its cause, the digits and OP of the item that holds the faulting byte, and of a fault of its code page
the address and whether the context's fault mode may resolve it (R334). `wait` says that there is no fault: the code cannot be reached now (R369,
R376). -/
structure FetchFault where
  cause : Nat
  digits : List Nat := []
  op : Nat := 0
  addr : Nat := 0
  resolve : Bool := false
  wait : Bool := false
deriving DecidableEq, Repr

/-- Where a node lies: the offset of its header, and the header. -/
structure NodeLoc where
  off : Nat
  hdr : Header
deriving DecidableEq, Repr

/-- The fault of a code page that an item's bytes reach, reported at the item (R209). -/
def State.pageItem (s : State) (i : Image) (digits : List Nat) (op off n : Nat) : Option FetchFault :=
  (s.codeFault i off n).map (fun (f, a) => match f with | .fault c r => ⟨c, digits, op, a, r, false⟩ | .wait => ⟨0, digits, op, a, false, true⟩)

/-- The header at an offset (R202) of the node at these digits; a code page that cannot be fetched from is class 4 or 5, poisoned bytes are
class 19, a malformed header class 1, reported at the node (R209, R340). -/
def State.headerAt (s : State) (i : Image) (digits : List Nat) (off : Nat) : Except FetchFault NodeLoc :=
  match s.pageItem i digits 0 off 5 with
  | some e => .error e
  | none =>
    if s.codePoison i off 5 then .error { cause := 0x13F, digits := digits }
    else
      match decodeHeader (s.code i off 40) with
      | .error d =>
        (match s.pageItem i digits 0 off 40 with
         | some e => .error e
         | none => .error { cause := 0x10 + d, digits := digits })
      | .ok h =>
        match s.pageItem i digits 0 off h.size with
        | some e => .error e
        | none => if s.codePoison i off h.size then .error { cause := 0x13F, digits := digits } else .ok ⟨off, h⟩

/-- The k-th sibling from child `c` of a node on, which lies at an offset. -/
def State.sibling (s : State) (i : Image) (parent : List Nat) : Nat → Nat → Nat → Except FetchFault NodeLoc
  | 0, c, off => s.headerAt i (parent ++ [c]) off
  | k + 1, c, off =>
    match s.headerAt i (parent ++ [c]) off with
    | .error e => .error e
    | .ok n => State.sibling s i parent k (c + 1) (off + n.hdr.len)

/-- The node that digits lead to from the node at the digits `at_` (R32). -/
def State.descend (s : State) (i : Image) (at_ : List Nat) : List Nat → NodeLoc → Except FetchFault NodeLoc
  | [], n => .ok n
  | d :: l, n =>
    if n.hdr.kind == .clause || d ≥ n.hdr.count then .error { cause := 0x1D, digits := at_ }
    else
      match s.sibling i at_ d 0 (n.off + n.hdr.size) with
      | .error e => .error e
      | .ok m => State.descend s i (at_ ++ [d]) l m

/-- The node of a path in an image (R32). Every header on the way from the root is read, those of earlier siblings too, so that one that cannot be
read stops the front that needs an item behind it: DESIGN CHOICE where R209 speaks of an item that a front needs (log entry 93). -/
def State.nodeAt (s : State) (i : Image) (proc : Nat) (digits : List Nat) : Except FetchFault NodeLoc :=
  match i.proc? proc with
  | none => .error { cause := 0x1D }
  | some p =>
    match s.headerAt i [] p.coff with
    | .error e => .error e
    | .ok r => s.descend i [] digits r

/-! ### Clauses (R31, R203) -/

/-- The offset of the x-th operation of a segment, counted from the operation with index `x` at offset `o`; an operation whose length cannot be
read gives its fault, with the index that it is reported at. -/
def State.skipOps (s : State) (i : Image) (digits : List Nat) : Nat → Nat → Nat → Except FetchFault Nat
  | 0, _, o => .ok o
  | n + 1, x, o =>
    match s.pageItem i digits x o 1 with
    | some e => .error e
    | none =>
      match opLength ((s.code i o 1).headD 0) with
      | some len => State.skipOps s i digits n (x + 1) (o + len)
      | none => .error { cause := 0x1B, digits := digits, op := x }

/-- The operation with index k counted from a segment header at `off`: the segment, the index of its first operation,
and the offset of the operation. Items that cannot be read give their fault with the index they are reported at (R209). -/
def State.opIn (s : State) (i : Image) (digits : List Nat) : Nat → Nat → Nat → Nat → Nat → Except FetchFault (Segment × Nat × Nat)
  | 0, _, _, _, first => .error { cause := 0x1E, digits := digits, op := first }
  | fuel + 1, segs, off, k, first =>
    let bad := fun c => Except.error { cause := c, digits := digits, op := first }
    if segs == 0 then bad 0x1E
    else
      match s.pageItem i digits first off 4 with
      | some e => .error e
      | none =>
        if s.codePoison i off 4 then bad 0x13F
        else
          match decodeSegment (s.code i off 4) with
          | .error d => bad (0x10 + d)
          | .ok sg =>
            if k < sg.ops then (s.skipOps i digits k first (off + 4)).map (fun o => (sg, first, o))
            else
              match s.skipOps i digits sg.ops first (off + 4) with
              | .ok o => State.opIn s i digits fuel (segs - 1) o (k - sg.ops) (first + sg.ops)
              | .error e => .error e

/-- The operation a clause position names: its segment, whether it is the first of the segment, and the offset of its bytes. -/
structure OpLoc where
  seg : Segment
  first : Nat
  off : Nat
deriving DecidableEq, Repr

/-- The operation at a clause position (R31). -/
def State.opAt (s : State) (i : Image) (p : Path) : Except FetchFault OpLoc :=
  match s.nodeAt i p.proc p.digits with
  | .error e => .error e
  | .ok n =>
    match s.opIn i p.digits 64 n.hdr.count (n.off + n.hdr.size) p.op 0 with
    | .error e => .error e
    | .ok (sg, first, off) => .ok ⟨sg, first, off⟩

/-- The operations of a clause, the sum of its segments' OPS (R203). A segment whose header cannot be read or is malformed counts one, at which
a front that needs it takes the fault (R208, R209); behind an operation whose length cannot be read none is counted. -/
def State.clauseOps (s : State) (i : Image) : Nat → Nat → Nat
  | 0, _ => 0
  | segs + 1, off =>
    match (s.codeFault i off 4), decodeSegment (s.code i off 4) with
    | some _, _ | none, .error _ => 1
    | none, .ok sg =>
      match s.skipOps i [] sg.ops 0 (off + 4) with
      | .ok o => sg.ops + State.clauseOps s i segs o
      | .error _ => sg.ops

/-- The number of operations of the clause of a path; a fetch fault where its header, or one on the way to it, cannot be read. -/
def State.opCount (s : State) (i : Image) (p : Path) : Except FetchFault Nat :=
  (s.nodeAt i p.proc p.digits).map (fun n => s.clauseOps i n.hdr.count (n.off + n.hdr.size))

/-- The decoded operation at a clause position, or a fetch fault (class 4 or 5 by its code page, class 19 by its item kind, R209,
R340). -/
def State.fetchOp (s : State) (i : Image) (p : Path) : Except FetchFault (Decoded × Segment × Nat) :=
  match s.opAt i p with
  | .error e => .error e
  | .ok o =>
    match s.pageItem i p.digits p.op o.off 1 with
    | some e => .error e
    | none =>
      let lead := ((s.code i o.off 1).headD 0)
      let len := (opLength lead).getD 1
      match s.pageItem i p.digits p.op o.off len with
      | some e => .error e
      | none =>
        if s.codePoison i o.off len then .error { cause := 0x13C + (if len == 4 then 0 else if len == 8 then 1 else 2), digits := p.digits, op := p.op }
        else .ok (decodeOp (s.code i o.off len), o.seg, o.first)

/-! ### Items that no loaded image holds (R18, R202, R208) -/

/-- A register of a window (R18). -/
def specFits (f : Nat) : Spec → Bool
  | .v n => decide (n.val < f)
  | _ => true

/-- The registers a node header names lie in the window. -/
def nodeFits (f : Nat) : NodeKind → Bool
  | .case v => specFits f v
  | .loopCount v n _ _ => decide (v.val < f) && specFits f n
  | .callI v _ _ => decide (v.val < f)
  | _ => true

/-- The registers that an operation names lie in the window. -/
def opsFit (f : Nat) (o : Ops) : Bool := specFits f o.d && specFits f o.a && specFits f o.b && specFits f o.c

/-- Where the children of a node end: `n` of them from number c on, the first at an offset; none where a header cannot be read. -/
def State.kidsEnd (s : State) (i : Image) (digits : List Nat) : Nat → Nat → Nat → Option Nat
  | 0, _, off => some off
  | n + 1, c, off =>
    match s.headerAt i (digits ++ [c]) off with
    | .ok h => State.kidsEnd s i digits n (c + 1) (off + h.hdr.len)
    | .error _ => none

/-- Where the segments of a clause end, the first at an offset; none where an item cannot be read. -/
def State.segsEnd (s : State) (i : Image) : Nat → Nat → Option Nat
  | 0, off => some off
  | n + 1, off =>
    match s.codeFault i off 4, decodeSegment (s.code i off 4) with
    | none, .ok sg => (match s.skipOps i [] sg.ops 0 (off + 4) with | .ok o => State.segsEnd s i n o | .error _ => none)
    | _, _ => none

/-- A header's LEN is the sum that R202 gives, as far as what it holds can be read, and the registers that it names lie in the window of f
words: what R208 checks of a header that is fetched nonetheless. A register at or above F is given detail 13 too: DESIGN CHOICE (log
entry 38). -/
def State.headerOk (s : State) (i : Image) (f : Nat) (digits : List Nat) (n : NodeLoc) : Bool :=
  nodeFits f n.hdr.kind &&
    (match (if n.hdr.kind == .clause then s.segsEnd i n.hdr.count (n.off + n.hdr.size) else s.kidsEnd i digits n.hdr.count 0 (n.off + n.hdr.size)) with
     | some e => e == n.off + n.hdr.len
     | none => true)

/-- A path that names a node of the image with a state of R33 (R44). A path on whose way a header cannot be read is taken as one that names no
node: DESIGN CHOICE (log entry 93). -/
def State.pathOk (s : State) (i : Image) (p : Path) : Bool :=
  match s.nodeAt i p.proc p.digits with
  | .error _ => false
  | .ok n =>
    match n.hdr.kind with
    | .clause => decide (p.op < s.clauseOps i n.hdr.count (n.off + n.hdr.size))
    | .loopWhile .. | .loopUntil .. | .loopCount .. | .call .. | .callI .. | .safe _ => decide (p.op ≤ 1)
    | _ => p.op == 0

/-! ### The walk (R35, R36, R212) -/

/-- A step of the walk still to do. -/
inductive Todo where
  | enter (digits : List Nat)
  | complete (digits : List Nat)
  | test (digits : List Nat)
deriving DecidableEq, Repr

/-- A word that a node move reads or writes (R212). -/
abbrev Touched := List DrainWord

/-- A stop of a node move at the position it leaves the thread at (R43): its cause. -/
abbrev NodeStop := Nat

/-- Set the trip counter of a loop at a depth, dropping those of loops at or below it (R36). -/
def setTrip (trips : List (Nat × Nat)) (d n : Nat) : List (Nat × Nat) := (trips.filter (fun x => decide (x.1 < d))) ++ [(d, n)]

/-- The trip counter of the loop at a depth; 0 where none is held (R37). -/
def tripOf (trips : List (Nat × Nat)) (d : Nat) : Nat := ((trips.find? (fun x => x.1 == d)).map Prod.snd).getD 0

/-- A predicate operand of a node: its value or class 19 (R213, R340), and the word it touches. -/
def nodePred (t : Thread) (g : Group) (p : Spec) : Except NodeStop Bool × Touched :=
  match p with
  | .q n => (if (g.qReg n.val).poison then .error 0x13B else .ok (g.qReg n.val).val, [.q n.val])
  | .p n => (if (t.p_ n.val).poison then .error 0x13B else .ok (t.p_ n.val).val, [.p t.tid n.val])
  | _ => (.ok false, [])

/-- A register operand of a node (R213). -/
def nodeReg (t : Thread) (g : Group) (v : Spec) : Except NodeStop Nat × Touched :=
  match v with
  | .v n => (if (t.v n.val).poison then .error 0x133 else .ok (t.v n.val).val.toNat, [.v t.tid (t.wb + n.val)])
  | .g n => (if (g.gReg n.val).poison then .error 0x137 else .ok (g.gReg n.val).val.toNat, [.g n.val])
  | _ => (.ok 0, [])

/-- The trip bound of a loop, if it is bounded (R37), and the [3:2] of its class-12 cause (R338). -/
def loopBound : NodeKind → Option Nat × Nat
  | .loopWhile _ b => (if b == 0 then none else some b, 0)
  | .loopUntil _ b => (if b == 0 then none else some b, 1)
  | .loopCount _ n imm b => if b != 0 then (some b, 2) else if n == .imm then (some imm, 3) else (none, 2)
  | _ => (none, 0)

/-- What one step of the walk leads to: more to do, or the thread at rest, or a stop with the position it rests at, or a fetch fault
of an item that it needs (R209). -/
inductive Walk where
  | more (t : Thread) (next : Todo)
  | done (t : Thread)
  | stop (t : Thread) (cause : NodeStop)
  | fetch (t : Thread) (e : FetchFault)
deriving DecidableEq, Repr

/-- The thread rests at a node or clause with an act. -/
def Thread.restAt (t : Thread) (digits : List Nat) (op : Nat) (a : Act) : Thread := { t with path := { t.path with digits := digits, op := op }, act := a }

/-- run_body of R36. -/
def runBody (t : Thread) (n : NodeLoc) (digits : List Nat) : Walk :=
  let d := digits.length
  match loopBound n.hdr.kind with
  | (some b, hi) =>
    if tripOf t.trips d == b then
      .stop ({ t with trips := t.trips.filter (fun x => decide (x.1 < d)) }.restAt digits 1 (.move .test)) (0xC0 + 4 * hi)
    else .more { t with trips := setTrip t.trips d (tripOf t.trips d + 1) } (.enter (digits ++ [0]))
  | (none, _) => .more t (.enter (digits ++ [0]))

/-- The continuation test of a loop (R36); a poisoned operand stops at the given state of the loop. -/
def loopTest (t : Thread) (g : Group) (n : NodeLoc) (digits : List Nat) (op : Nat) : Walk × Touched :=
  let back : Act := if op == 0 then .move .enter else .move .test
  let stopAt := fun c => Walk.stop ({ t with trips := t.trips.filter (fun x => decide (x.1 < digits.length)) }.restAt digits op back) c
  match n.hdr.kind with
  | .loopWhile p _ =>
    (match nodePred t g p with
     | (.error c, w) => (stopAt c, w)
     | (.ok b, w) => (if b then runBody t n digits else .more t (.complete digits), w))
  | .loopUntil p _ =>
    (match nodePred t g p with
     | (.error c, w) => (stopAt c, w)
     | (.ok b, w) => (if b then .more t (.complete digits) else runBody t n digits, w))
  | .loopCount v m imm _ =>
    (match nodeReg t g (.v v) with
     | (.error c, w) => (stopAt c, w)
     | (.ok x, w) =>
       match (if m == .imm then (Except.ok imm, []) else nodeReg t g m) with
       | (.error c, w2) => (stopAt c, w ++ w2)
       | (.ok lim, w2) => (if x < lim then runBody t n digits else .more t (.complete digits), w ++ w2))
  | _ => (.done t, [])

/-- enter(n) of R35; loop_enter of R36. -/
def enterNode (t : Thread) (g : Group) (n : NodeLoc) (digits : List Nat) : Walk × Touched :=
  match n.hdr.kind with
  | .clause => (.done (t.restAt digits 0 .rest), [])
  | .seq | .block => (.more t (.enter (digits ++ [0])), [])
  | .sel p =>
    (match nodePred t g p with
     | (.error c, w) => (.stop (t.restAt digits 0 (.move .enter)) c, w)
     | (.ok b, w) => (.more t (.enter (digits ++ [if b then 0 else 1])), w))
  | .case v =>
    (match nodeReg t g v with
     | (.error c, w) => (.stop (t.restAt digits 0 (.move .enter)) c, w)
     | (.ok i, w) => (.more t (.enter (digits ++ [if i ≥ n.hdr.count then n.hdr.count - 1 else i])), w))
  | .loopWhile _ _ => loopTest { t with trips := if (loopBound n.hdr.kind).1.isSome then setTrip t.trips digits.length 0 else t.trips } g n digits 0
  | .loopUntil _ _ => (runBody { t with trips := if (loopBound n.hdr.kind).1.isSome then setTrip t.trips digits.length 0 else t.trips } n digits, [])
  | .loopCount v _ _ _ =>
    let t1 := { t.setV v.val 0 with trips := if (loopBound n.hdr.kind).1.isSome then setTrip t.trips digits.length 0 else t.trips }
    let (r, w) := loopTest t1 g n digits 0
    (r, .v t.tid (t.wb + v.val) :: w)
  | .call .. | .callI .. => (.done (t.restAt digits 0 .call), [])
  | .reform => (.done (t.restAt digits 0 .reform), [])
  | .safe _ => (.done (t.restAt digits 0 .safe), [])

/-- complete(n) of R35, at n's parent m. A loop is stepped, and its test belongs to the same move (R35, R36). -/
def completeNode (t : Thread) (m : NodeLoc) (pd : List Nat) (child : Nat) : Walk × Touched :=
  match m.hdr.kind with
  | .seq | .block =>
    if child + 1 < m.hdr.count then (.more t (.enter (pd ++ [child + 1])), [])
    else if pd.isEmpty then (.done { t with act := .ret }, [])
    else (.more t (.complete pd), [])
  | .loopCount v _ _ _ =>
    if (t.v v.val).poison then
      (.stop ({ t with trips := t.trips.filter (fun x => decide (x.1 < pd.length)) }.restAt pd 1 (.move .test)) 0x133, [.v t.tid (t.wb + v.val)])
    else (.more (t.setV v.val ((t.v v.val).val + 1)) (.test pd), [.v t.tid (t.wb + v.val)])
  | .loopWhile .. | .loopUntil .. => (.more t (.test pd), [])
  | _ => (.more t (.complete pd), [])

/-- Drop the trip counters of a node and of every loop inside it (R36, R39). -/
def dropTrips (t : Thread) (digits : List Nat) : Thread := { t with trips := t.trips.filter (fun x => decide (x.1 < digits.length)) }

/-- One step of the walk. A fetch fault on the header of a node to enter rests the thread at that node (R43); any other leaves it where it
rests, with its move to make again (R209). -/
def State.walkStep (s : State) (i : Image) (g : Group) (t : Thread) : Todo → Walk × Touched
  | .enter d =>
    match s.nodeAt i t.path.proc d with
    | .error e => (.fetch (t.restAt d 0 (.move .enter)) e, [])
    | .ok n => if s.headerOk i (s.frameOf t) d n then enterNode t g n d else (.fetch (t.restAt d 0 (.move .enter)) { cause := 0x1D, digits := d }, [])
  | .test d =>
    match s.nodeAt i t.path.proc d with
    | .error e => (.fetch (t.restAt d 1 (.move .test)) e, [])
    | .ok n => loopTest t g n d 1
  | .complete d =>
    match d.getLast? with
    | none => (.done { t with act := .ret }, [])
    | some c =>
      match s.nodeAt i t.path.proc d.dropLast with
      | .error e => (.fetch t e, [])
      | .ok m => completeNode (dropTrips t d) m d.dropLast c

/-- The chain of steps of one move (R35). No finite chain is longer than the bound that State.walkMove gives; a thread in an endless one
rests where the bound finds it (log entry 72). -/
def State.walkChain (s : State) (i : Image) (g : Group) : Nat → Thread → Todo → Touched → Walk × Touched
  | 0, t, todo, w =>
    (.done (match todo with
      | .enter d => t.restAt d 0 (.move .enter)
      | .complete d => t.restAt d 0 (.move .complete)
      | .test d => t.restAt d 1 (.move .test)), w)
  | fuel + 1, t, todo, w =>
    match s.walkStep i g t todo with
    | (.more t' next, w') => State.walkChain s i g fuel t' next (w ++ w')
    | (r, w') => (r, w ++ w')

/-- The digits of the k-th exit scope or loop that encloses a position, innermost first (R39, R40); none where fewer enclose it. -/
def State.kthScope (s : State) (i : Image) (proc : Nat) (loopsOnly : Bool) : Nat → Nat → List Nat → Except FetchFault (Option (List Nat))
  | 0, _, _ => .ok none
  | fuel + 1, k, d =>
    let up := d.dropLast
    if d.isEmpty then .ok none
    else
      match s.nodeAt i proc up with
      | .error e => .error e
      | .ok n =>
        let scope := match n.hdr.kind with
          | .block => !loopsOnly
          | .loopWhile .. | .loopUntil .. | .loopCount .. => true
          | _ => false
        if scope then (if k ≤ 1 then .ok (some up) else State.kthScope s i proc loopsOnly fuel (k - 1) up)
        else State.kthScope s i proc loopsOnly fuel k up

/-- A bound on the steps of a finite chain: 16 nested bounded loops of 2^17 rounds, each round of at most 64 children of 16 levels. -/
abbrev walkBound : Nat := 2 ^ 300

/-- Make the node move that is due for a thread (R35, R39, R40). -/
def State.walkMove (s : State) (i : Image) (g : Group) (t : Thread) (m : Move) : Walk × Touched :=
  let d := t.path.digits
  match m with
  | .advance | .again =>
    (match s.opCount i t.path with
     | .error e => (.fetch { t with act := .move .again } e, [])
     | .ok n => if t.path.op + 1 < n then (.done (t.restAt d (t.path.op + 1) .rest), []) else s.walkChain i g walkBound t (.complete d) [])
  | .complete => s.walkChain i g walkBound t (.complete d) []
  | .enter => s.walkChain i g walkBound t (.enter d) []
  | .test => s.walkChain i g walkBound t (.test d) []
  | .exit k =>
    (match s.kthScope i t.path.proc false 17 k d with
     | .ok (some x) => s.walkChain i g walkBound t (.complete x) []
     | .ok none => (.done { t with act := .ret }, [])
     | .error e => (.fetch t e, []))
  | .next k =>
    match s.kthScope i t.path.proc true 17 k d with
    | .ok none => (.done { t with act := .ret }, [])
    | .error e => (.fetch t e, [])
    | .ok (some x) =>
      match s.nodeAt i t.path.proc x with
      | .error e => (.fetch t e, [])
      | .ok n =>
        match completeNode { t with trips := t.trips.filter (fun y => decide (y.1 ≤ x.length)) } n x 0 with
        | (.more t' todo, w) => s.walkChain i g walkBound t' todo w
        | r => r

/-- The depths of the bounded loops that enclose a path, outermost first (R36, R78). -/
def State.boundedAt (s : State) (i : Image) (p : Path) : List Nat :=
  (List.range p.digits.length).filter (fun d =>
    match s.nodeAt i p.proc (p.digits.take d) with
    | .ok n => (loopBound n.hdr.kind).1.isSome
    | .error _ => false)

/-- The counters of a thread restored at a position: every enclosing bounded loop's is 0 (R37). -/
def State.zeroTrips (s : State) (img : Nat) (p : Path) : List (Nat × Nat) :=
  match s.image? img with
  | some i => (s.boundedAt i p).map (fun d => (d, 0))
  | none => []

/-! ### The node of a position and of a link (R73, R209) -/

/-- The node that a thread rests at, or the fetch fault of its header (R209). -/
def State.restNode (s : State) (t : Thread) : Except FetchFault NodeKind :=
  match s.codeOf t t.image with
  | none => .error { cause := 0x1E, digits := t.path.digits }
  | some i => (s.nodeAt i t.path.proc t.path.digits).map (fun n => n.hdr.kind)

/-- The link that a return reads (R73), a number of 128 bits. -/
def Thread.link (t : Thread) : Nat :=
  ((List.range 4).map (fun i => (assocGet ⟨0, false⟩ t.stk (t.wb - 4 + i)).val.toNat * 2 ^ (32 * i))).foldl (· + ·) 0

/-- Why a return by link does not go on: class 11 of the link (R73, R338), or a fetch fault on the way to the node that it names (R209). -/
inductive LinkFault where
  | link (cause : Nat)
  | fetch (proc : Nat) (e : FetchFault)
deriving DecidableEq, Repr

/-- The call node that a link designates and its offset, or why the return stops (R73). A path that leads to no node is class 11. -/
def State.linkNode (s : State) (t : Thread) : Except LinkFault (Path × Nat) :=
  match Path.decode t.link, s.codeOf t t.image with
  | some p, some i =>
    (match s.nodeAt i p.proc p.digits with
     | .ok n =>
       let off := match n.hdr.kind with | .call _ off => some off | .callI _ off _ => some off | _ => none
       (match off with
        | none => .error (.link 0xB8)
        | some k => if p.op != 1 then .error (.link 0xB8) else if k > t.wb then .error (.link 0xBC) else .ok (p, k))
     | .error e => .error (if e.cause == 0x1D then .link 0xB8 else .fetch p.proc e))
  | _, _ => .error (.link 0xB8)

end Sys2Proof.Machine
end

