-- ==== Sys2Proof/Machine/Operands.lean ====
section
/-! DEFINITION. Operands of an operation: the words each field names, reading and writing them, poison and alignment
(R18 to R21, R58, R194, R195, R228, R245, R262, R298). -/

namespace Sys2Proof.Machine

/-- Why an operation stops at a thread (R54): a trap whose cause takes the position qualifier of R338 or not, a page that
resolve mode waits for (R55), a spawn ring without room (R94), no free request entry (R116), a chunk of a thread that the pager must
bring in first (R80; log entry 74), or memory that cannot be reached now (R369, R376). `seen` adds the translations that the
checks have loaded, which stay (R331). -/
inductive Halt where
  | trap (base : Nat) (posn : Bool) (addr : DWord)
  | page (va : Nat) (acc : AccessKind)
  | ring (left : Nat)
  | room
  | fill (tid j : Nat)
  | away (va : Nat)
  | seen (s : State) (h : Halt)
deriving DecidableEq, Repr

/-- What the operations of a pass read beside the thread and its group (R195). -/
structure Env where
  cl : Nat
  co : Nat
  gs : Nat
  ctx : Nat
  lext : List Nat
  prank : Nat
  spself : Nat
  slots : List DWord
deriving DecidableEq, Repr

/-- The environment of a group on a core. -/
def Env.of (s : State) (c : Core) (g : Group) : Env :=
  let l := s.launch? g.launch
  { cl := c.cl, co := c.co, gs := g.slot, ctx := (l.map (fun l => l.ctx)).getD 0,
    lext := (l.map Launch.lextOf).getD [], prank := (l.map (fun l => l.rank)).getD 0,
    spself := c.gen % 64 * 2 ^ 34 + c.co * 2 ^ 27, slots := (l.map (fun l => l.slots)).getD [] }

/-! ### Widths (R228, R231, R234 to R238, R241, R245, R256, R261, R262, R298) -/

/-- Words that D, A, B and C name: 1, 2 (a pair), 4 (a quad). -/
structure Widths where
  d : Nat
  a : Nat
  b : Nat
  c : Nat
deriving DecidableEq, Repr

/-- The words an access width moves (R262). -/
def memWords (t : Nat) : Nat := if t == 5 then 2 else if t == 6 then 4 else 1

/-- The bytes of an access width (R262). -/
def memBytes (t : Nat) : Nat :=
  match t with | 0 | 1 => 1 | 2 | 3 => 2 | 4 => 4 | 5 => 8 | _ => 16

/-- The widths of the fields of an operation. -/
def widths (opc : Nat) (o : Ops) : Widths :=
  let t := o.t.val
  let w := o.mod.getLsbD 11
  let n := if w then 2 else 1
  let sub := (o.mod.extractLsb' 4 4).toNat
  let sp := (o.mod.extractLsb' 6 2).toNat
  let base := if sp < 2 then 2 else 1
  let m := memWords t
  let fl := if t == 3 then 2 else 1
  let x := if w || t == 7 then 2 else 1
  let x2 := o.mod.getLsbD 10
  if opc == 0x00C then ⟨1, 1, 2, 1⟩
  else if opc == 0x014 then ⟨n, 1, 1, 1⟩
  else if opc == 0x015 || opc == 0x016 then ⟨1, 1, 1, 1⟩
  else if opc == 0x047 then ⟨2, 1, 1, 2⟩
  else if 0x080 ≤ opc && opc ≤ 0x083 then ⟨n, n, 1, 1⟩
  else if opc == 0x084 || opc == 0x086 then ⟨n, n, n, 1⟩
  else if opc == 0x085 then ⟨n, n, 1, 1⟩
  else if opc == 0x0C5 then ⟨base, base, 1, 1⟩
  else if 0x040 ≤ opc && opc ≤ 0x0C4 then ⟨n, n, n, n⟩
  else if 0x0D0 ≤ opc && opc ≤ 0x0D4 then ⟨1, 1, 1, 1⟩
  else if opc == 0x103 || opc == 0x104 || opc == 0x105 then ⟨x, x, 1, 1⟩
  else if opc == 0x106 then ⟨x, 1, 1, 1⟩
  else if 0x100 ≤ opc && opc ≤ 0x102 then ⟨x, x, x, 1⟩
  else if 0x107 ≤ opc && opc ≤ 0x109 then ⟨1, 1, 1, 1⟩
  else if opc == 0x149 then ⟨1, fl, 1, 1⟩
  else if 0x140 ≤ opc && opc ≤ 0x188 then ⟨fl, fl, fl, fl⟩
  else if opc == 0x190 then
    let src := if sub == 5 || sub == 12 || sub == 13 then 2
      else if sub == 6 || sub == 7 || sub == 10 || sub == 11 then n
      else if x2 && (sub == 2 || sub == 3) then 2 else 1
    let dst := if sub == 4 || sub == 10 || sub == 11 then 2
      else if sub == 8 || sub == 9 || sub == 12 || sub == 13 then n
      else if x2 && (sub == 0 || sub == 1) then 2 else 1
    ⟨dst, src, 1, 1⟩
  else if 0x191 ≤ opc && opc ≤ 0x194 then ⟨1, 1, 1, 1⟩
  else if opc == 0x1C2 then ⟨m, 1, 1, 1⟩
  else if opc == 0x1C0 || opc == 0x1C1 then ⟨m, base, 1, m⟩
  else if opc == 0x1C3 then ⟨1, base, 1, 1⟩
  else if opc == 0x1C4 || opc == 0x1C5 then ⟨m, base, m, m⟩
  else if opc == 0x1C8 then ⟨1, base, 2, 1⟩
  else if opc == 0x1CA then ⟨1, 2, 2, 1⟩
  else if opc == 0x200 then ⟨1, 5, 1, 1⟩
  else if opc == 0x201 then ⟨1, 2, 2, 1⟩
  else if opc == 0x202 || opc == 0x210 then ⟨1, 4, 1, 1⟩
  else if opc == 0x204 then ⟨1, 8, 1, 1⟩
  else if opc == 0x208 then ⟨1, 4, 4, 1⟩
  else if opc == 0x20D then ⟨1, if (o.mod.extractLsb' 7 2).toNat < 2 then 2 else 1, 1, 1⟩
  else if opc == 0x20E then ⟨if (o.mod.extractLsb' 7 2).toNat < 2 then 2 else 1, 1, 1, 1⟩
  else if opc == 0x20F then ⟨if (o.mod.extractLsb' 7 2).toNat < 2 then 2 else 1, 1, 2, 1⟩
  else if opc == 0x21B then ⟨2, 1, 1, 1⟩
  else ⟨1, 1, 1, 1⟩

/-! ### Reading (R18, R58, R195) -/

/-- The value of a special register (R84, R195). -/
def specialVal (e : Env) (t : Thread) : Special → Nat
  | .tslot => t.tslot
  | .gslot => e.gs
  | .corenum => e.co
  | .clusternum => e.cl
  | .sptrLo => bits t.sptr.toNat 0 32
  | .sptrHi => bits t.sptr.toNat 32 32
  | .slimLo => bits t.slim.toNat 0 32
  | .slimHi => bits t.slim.toNat 32 32
  | .crecLo => bits t.crec.toNat 0 32
  | .crecHi => bits t.crec.toNat 32 32
  | .spselfLo => bits e.spself 0 32
  | .spselfHi => bits e.spself 32 32
  | .prank => e.prank
  | .lidx i => t.lidx.getD i.val 0
  | .lext i => e.lext.getD i.val 1

/-- The high word of a special register read as a pair (R195). -/
def specialHigh (e : Env) (t : Thread) : Special → Nat
  | .sptrLo => bits t.sptr.toNat 32 32
  | .slimLo => bits t.slim.toNat 32 32
  | .crecLo => bits t.crec.toNat 32 32
  | .spselfLo => bits e.spself 32 32
  | _ => 0

/-- The j-th word that a specifier names. Only v, g, zero and the special registers name words; the immediate is
extended where it is read (R19). -/
def wordOf (e : Env) (t : Thread) (g : Group) (x : Spec) (j : Nat) : Word :=
  match x with
  | .v n => (t.v (n.val + j)).val
  | .g n => (g.gReg (n.val + j)).val
  | .special r => BitVec.ofNat 32 (if j = 0 then specialVal e t r else specialHigh e t r)
  | _ => 0

/-- A one-word operand (R18, R19). -/
def rd32 (e : Env) (o : Ops) (t : Thread) (g : Group) (x : Spec) : Word :=
  match x with
  | .imm => o.imm
  | x => wordOf e t g x 0

/-- A pair operand; the immediate extended to 64 bits by sign or by zeros (R19, R21). -/
def rd64 (e : Env) (o : Ops) (t : Thread) (g : Group) (x : Spec) (signed : Bool) : DWord :=
  match x with
  | .imm => if signed then o.imm.signExtend 64 else o.imm.zeroExtend 64
  | x => wordOf e t g x 1 ++ wordOf e t g x 0

/-- An operand of one or two words, as 64 bits. -/
def rdN (e : Env) (o : Ops) (t : Thread) (g : Group) (x : Spec) (n : Nat) (signed : Bool) : DWord :=
  if n = 2 then rd64 e o t g x signed else (rd32 e o t g x).zeroExtend 64

/-- A predicate operand: p, q, or IMM[0] (R242). -/
def rdP (o : Ops) (t : Thread) (g : Group) (x : Spec) : Bool :=
  match x with
  | .p n => (t.p_ n.val).val
  | .q n => (g.qReg n.val).val
  | .imm => o.imm.getLsbD 0
  | _ => false

/-- The guard of an operation (R20). -/
def guardVal (o : Ops) (t : Thread) : PBit := let p := t.p_ o.gp.val; ⟨p.val != o.neg, p.poison⟩

/-! ### Poison and alignment (R58, R229, R264, R340) -/

/-- The class-19 place of a poisoned word that a source field names, with the role it has (R340). -/
def poisonOf (t : Thread) (g : Group) (x : Spec) (n role : Nat) : Option Nat :=
  match x with
  | .v k => if (List.range n).any (fun j => (t.v (k.val + j)).poison) then some (0x130 + role) else none
  | .g k => if (List.range n).any (fun j => (g.gReg (k.val + j)).poison) then some (0x134 + role) else none
  | .p k => if (t.p_ k.val).poison then some 0x138 else none
  | .q k => if (g.qReg k.val).poison then some 0x138 else none
  | _ => none

/-- The first chunk of the words that a v operand names which the register file does not hold (R79). -/
def awayChunk (t : Thread) (x : Spec) (n : Nat) : Option Nat :=
  match x with
  | .v k => ((List.range n).map (fun j => (t.wb + k.val + j) / 8)).find? t.spilled.contains
  | _ => none

/-- A register that is not aligned as the pair or quad it names (R21, R262). -/
def misaligned (x : Spec) (n : Nat) : Bool :=
  match x with
  | .v k => n != 0 && k.val % (if n == 2 then 2 else if n == 4 then 4 else 1) != 0
  | .g k => n != 0 && k.val % (if n == 2 then 2 else if n == 4 then 4 else 1) != 0
  | .special r => n == 2 && !r.pairs
  | _ => false

/-- The first poisoned source of A, B and C with its role (R58, R340). -/
def sourcePoison (t : Thread) (g : Group) (o : Ops) (w : Widths) (ra rb rc : Nat) : Option Nat :=
  match poisonOf t g o.a w.a ra with
  | some x => some x
  | none =>
    match poisonOf t g o.b w.b rb with
    | some x => some x
    | none => poisonOf t g o.c w.c rc

/-- The operand checks of an operation: poison first, then pair and quad alignment (the order of R264; R228, R229). -/
def operandHalt (t : Thread) (g : Group) (o : Ops) (w : Widths) (ra rb rc : Nat) : Option Halt :=
  match sourcePoison t g o w ra rb rc with
  | some c => some (.trap c false 0)
  | none =>
    if misaligned o.d w.d || misaligned o.a w.a || misaligned o.b w.b || misaligned o.c w.c then some (.trap 0x30 true 0) else none

/-! ### Writing (R58, R228) -/

/-- Write one word of a destination; a write to `zero` is discarded. -/
def wrWord (t : Thread) (g : Group) (x : Spec) (j : Nat) (v : Word) : Thread × Group :=
  match x with
  | .v n => (t.setV (n.val + j) v, g)
  | .g n => (t, g.setG (n.val + j) v)
  | _ => (t, g)

/-- Write a destination of one or two words, low word first (R21). -/
def wrN (t : Thread) (g : Group) (x : Spec) (n : Nat) (v : DWord) : Thread × Group :=
  let (t1, g1) := wrWord t g x 0 (v.extractLsb' 0 32)
  if n = 2 then wrWord t1 g1 x 1 (v.extractLsb' 32 32) else (t1, g1)

/-- Write a predicate destination (R242). -/
def wrP (t : Thread) (g : Group) (x : Spec) (b : Bool) : Thread × Group :=
  match x with
  | .p n => (t.setP n.val b, g)
  | .q n => (t, g.setQ n.val b)
  | _ => (t, g)

/-! ### Words read and written by an operation (R48, R298) -/

/-- The drain words of a register field. -/
def fieldWords (t : Thread) (x : Spec) (n : Nat) : List DrainWord :=
  match x with
  | .v k => (List.range n).map (fun j => .v t.tid (t.wb + k.val + j))
  | .g k => (List.range n).map (fun j => .g (k.val + j))
  | .p k => if k.val = 0 then [] else [.p t.tid k.val]
  | .q k => [.q k.val]
  | _ => []

/-- Whether D is a source in this opcode: the base register of acc.st and acc.stx (R181). -/
def dIsSource (opc : Nat) : Bool := opc == 0x20E || opc == 0x20F

/-- The words an operation writes for a thread; the carry of addc and subb is one of them (R230). -/
def writeWords (opc : Nat) (o : Ops) (t : Thread) : List DrainWord :=
  let w := widths opc o
  (if dIsSource opc then [] else fieldWords t o.d w.d) ++ (if opc == 0x041 || opc == 0x043 then fieldWords t o.c 1 else [])

/-- The words an operation reads for a thread, its guard among them. -/
def readWords (opc : Nat) (o : Ops) (t : Thread) : List DrainWord :=
  let w := widths opc o
  (if dIsSource opc then fieldWords t o.d w.d else []) ++ fieldWords t o.a w.a ++ fieldWords t o.b w.b ++ fieldWords t o.c w.c ++
    (if o.gp.val = 0 then [] else [.p t.tid o.gp.val])

end Sys2Proof.Machine
end

