-- ==== Sys2Proof/Machine/Pass.lean ====
section
/-! DEFINITION. A pass of one operation (R46, R47, R49, R53, R54, R57): which threads it serves, where it stops, and
how an operation on one thread becomes a step of the machine. -/

namespace Sys2Proof.Machine

/-- The effect of an operation for the thread in one slot of the issue's group: the state after it, or why it stops. -/
abbrev Serve := Issue → Nat → State → Except Halt State

/-- The thread in a slot of the issue's group. -/
def State.slotThread (s : State) (i : Issue) (k : Nat) : Option (Core × Group × Thread) :=
  let c := s.core i.cl i.co
  match c.group? i.gs with
  | none => none
  | some g =>
    match c.threadAt g k with
    | none => none
    | some t => some (c, g, t)

/-- The position qualifier of R338. -/
def qualifier (i : Issue) : Nat := (if i.first then 0 else 2) + (if i.shared then 1 else 0)

/-- What the checks of an access leave of the state they ran on: translations loaded, with their A and D bits (R331). -/
def State.keepChecks (s s1 : State) : State :=
  { s with mem := s1.mem, poison := s1.poison, tlb := s1.tlb, walks := s1.walks, oracle := s1.oracle, tick := s1.tick }

/-- Record that a pass stops at the thread in slot k (R54, R57): the cause with its qualifier and the thread's position,
or a stalled access whose page resolve mode waits for (R334), or a wait for the spawn ring (R94), a request entry (R116), a chunk, or memory that
cannot be reached now (R369, R376). -/
def stopAt (s : State) (i : Issue) (k : Nat) (path : Path) (ctx : Nat) : Halt → State × Issue
  | .trap base posn addr => (s, { i with stop := some (.trap (base + if posn then qualifier i else 0) k addr path) })
  | .page va acc =>
    let (id, s1) := s.freshId
    ({ s1 with stalls := s1.stalls ++ [{ id := id, part := s1.partOfCluster i.cl, cl := i.cl, ctx := ctx, va := va, src := 0, acc := acc, who := some (i.co, i.gs, k) }] },
     { i with stop := some (.stall id) })
  | .ring n => (s, { i with wait := some (.spawnRing n) })
  | .room => (s, { i with wait := some .requests })
  | .fill tid j => (s, { i with wait := some (.fill tid j) })
  | .away va => (s, { i with wait := some (.away va) })
  | .seen s1 h => stopAt (s.keepChecks s1) i k path ctx h

/-- The thread's operation has retired: its position moves on unless the operation itself says otherwise (R35, R46). An operation of a
handler is not the first one of a thread's entry procedure (R76). -/
def retire (t : Thread) : Thread := { t with act := .move .advance, begun := t.begun || t.frame.isNone, opAt := t.path }

/-- A checker mismatch about to strike the thread of a slot (R56). -/
def State.upsetOf (s : State) (i : Issue) (k : Nat) : Option Upset :=
  s.upsets.find? (fun u => u.cl == i.cl && u.co == i.co && u.gs == i.gs && u.k == k)

/-- Consume a checker mismatch; a second one marks the core for test (R56, R366). -/
def State.dropUpset (s : State) (u : Upset) : State :=
  let s1 := { s with upsets := s.upsets.filter (· != u) }
  if u.second then s1.markCore u.cl u.co else s1

/-- What a mismatch at a slot does (R56): the state after it, the cycles it adds, and the class-18 cause if the retry mismatches too, where the
pass has fed the thread besides. An operation that takes no fault of classes 3 to 19 acts at a second mismatch too (R276 to R278): DESIGN CHOICE
of the model where R56 has every operation stop (log entry 73). -/
def State.struck (s : State) (i : Issue) (k : Nat) : State × Nat × Option Nat :=
  match s.upsetOf i k with
  | some u => if u.second && !i.soft then (s.dropUpset u, i.feed + 1, some (0x120 + 4 * u.unit)) else (s.dropUpset u, 1, none)
  | none => (s, 0, none)

/-- The roles of A, B and C of an operation where they are poisoned (R340). -/
def sourceRoles (opc : Nat) : Nat × Nat × Nat :=
  if opc == 0x1C0 || opc == 0x1C3 || opc == 0x1C8 || opc == 0x1CA then (1, if opc == 0x1C0 || opc == 0x1C3 then 1 else 0, 0)
  else if opc == 0x1C1 then (1, 1, 2)
  else if opc == 0x1C4 || opc == 0x1C5 then (1, 2, 2)
  else (0, 0, 0)

/-- A latent error for each poisoned word that an operation names and a thread it skips does not read (R58): the thread's own words, and
where no thread of the front is active the group's. -/
def State.skipLatent (s : State) (opc : Nat) (o : Ops) (e : Env) (t : Thread) (g : Group) (k : Nat) (group : Bool) : State :=
  let w := widths opc o
  let (ra, rb, rc) := sourceRoles opc
  let named := fun (x : Spec) n r => if group || (match x with | .g _ | .q _ => false | _ => true) then (poisonOf t g x n r).toList else []
  (named o.a w.a ra ++ named o.b w.b rb ++ named o.c w.c rc).foldl (fun st x => st.logLatent e.cl e.co e.ctx e.gs k x 0 t.path.encode) s

/-- The thread of a slot is the last of its front that the pass comes to: no other rests at the operation still. -/
def State.lastOf (s : State) (i : Issue) (k : Nat) : Bool :=
  i.front.all (fun j => j == k || (match s.slotThread i j with | some (_, _, t) => t.act != .rest | none => true))

/-- Serve one thread of a pass: its guard, then the operation (R46, R54, R56, R58). An operation that takes no fault of classes 3 to 19
acts on a poisoned guard and logs it (R276, R278; log entry 73). -/
def serveOne (f : Serve) (opc : Nat) (o : Ops) (s : State) (i : Issue) (k : Nat) : State × Issue :=
  match s.slotThread i k with
  | none => (s, i)
  | some (c, g, t) =>
    let e := Env.of s c g
    let gd := guardVal o t
    if gd.poison && !i.soft then stopAt s i k t.path e.ctx (.trap 0x138 false 0)
    else if !gd.val && !gd.poison then
      let s1 := s.skipLatent opc o e t g k (i.done.isEmpty && s.lastOf i k)
      (s1.onThread i.cl i.co t.tid retire, { i with skipped := i.skipped ++ [k] })
    else
      let s0 := if gd.poison then s.logLatent e.cl e.co e.ctx e.gs k 0x138 0 t.path.encode else s
      match s0.struck i k with
      | (s1, extra, some b) => stopAt s1 { i with cycles := i.cycles + extra } k t.path e.ctx (.trap b true 0)
      | (s1, extra, none) =>
        match f i k (s1.onThread i.cl i.co t.tid retire) with
        | .ok s2 => (s2, { i with done := i.done ++ [k], first := false, cycles := i.cycles + extra })
        | .error h => stopAt s1 { i with cycles := i.cycles + extra } k t.path e.ctx h

/-- Serve threads in increasing index until one stops the pass (R46, R54). -/
def serveAll (f : Serve) (opc : Nat) (o : Ops) : List Nat → State → Issue → State × Issue
  | [], s, i => (s, i)
  | k :: l, s, i =>
    let (s1, i1) := serveOne f opc o s i k
    if i1.stop.isSome || i1.wait.isSome then (s1, i1) else serveAll f opc o l s1 i1

/-- Retire a slot's thread with no further effect. -/
def retireSlot (i : Issue) (s : State) (k : Nat) : State :=
  match s.slotThread i k with
  | none => s
  | some (_, _, t) => s.onThread i.cl i.co t.tid retire

/-- A uniform operation executes once for its front, on its lowest thread's behalf; a fault stops the front before any
effect (R47, R57). -/
def serveUniform (f : Serve) (s : State) (i : Issue) : State × Issue :=
  match i.threads with
  | [] => (s, i)
  | k :: _ =>
    match s.slotThread i k with
    | none => (s, i)
    | some (c, g, t) =>
      let ctx := (Env.of s c g).ctx
      match s.struck i k with
      | (s1, extra, some b) => stopAt s1 { i with cycles := i.cycles + extra } k t.path ctx (.trap b true 0)
      | (s1, extra, none) =>
        match f i k (i.threads.foldl (retireSlot i) s1) with
        | .ok s2 => (s2, { i with done := i.done ++ i.threads, first := false, uniform := true, cycles := i.cycles + extra })
        | .error h => stopAt s1 { i with cycles := i.cycles + extra } k t.path ctx h

/-- A cross-thread operation: all active threads at once, or a stop before any effect (R51, R53). -/
abbrev CrossServe := Env → Core → Group → List Thread → Except (Halt × Nat) (List Thread × Group)

/-- The active threads of a cross-thread operation in pass order as far as the first whose guard is poisoned or whose retry mismatches
again, and that thread with its cause (R46, R53, R56, R58). -/
def crossActive (o : Ops) (s : State) (i : Issue) : List Nat → List Thread × Option (Thread × Halt)
  | [] => ([], none)
  | k :: l =>
    match s.slotThread i k with
    | none => crossActive o s i l
    | some (_, _, t) =>
      let gd := guardVal o t
      if gd.poison then ([], some (t, .trap 0x138 false 0))
      else if !gd.val then crossActive o s i l
      else
        match (s.upsetOf i k).filter (fun u => u.second) with
        | some u => ([], some (t, .trap (0x120 + 4 * u.unit) true 0))
        | none => let (ts, stop) := crossActive o s i l; (t :: ts, stop)

/-- The mismatches of threads up to a slot have struck. -/
def State.dropUpsets (s : State) (i : Issue) (ks : List Nat) : State := (ks.filterMap (s.upsetOf i)).foldl State.dropUpset s

/-- A cross-thread operation stops at a thread with no effect (R53); the first active thread of the front is the first. The threads below have
been fed, and so has one whose retry mismatches again (R15, R46, R56). -/
def crossStop (s : State) (i : Issue) (l : List Thread) (t : Thread) (h : Halt) : State × Issue :=
  let ks := (l.map (fun x => x.tslot)).filter (fun k => decide (k < t.tslot)) ++ [t.tslot]
  let fed := ks.length - (match (s.upsetOf i t.tslot).filter (fun u => u.second) with | some _ => 0 | none => 1)
  stopAt (s.dropUpsets i ks) { i with first := ks.length == 1, cycles := i.cycles + i.feed * fed + (ks.filterMap (s.upsetOf i)).length } t.tslot t.path 0 h

/-- Serve a cross-thread operation (R53): the first fault in pass order stops it, else every active thread retires. -/
def serveCross (f : CrossServe) (opc : Nat) (o : Ops) (s : State) (i : Issue) : State × Issue :=
  let c := s.core i.cl i.co
  match c.group? i.gs with
  | none => (s, i)
  | some g =>
    let e := Env.of s c g
    let (l, stop) := crossActive o s i i.threads
    match f e c g l, stop with
    | .error (h, k), _ =>
      (match l.find? (fun t => t.tslot == k) with
       | some t => crossStop s i l t h
       | none => (s, i))
    | .ok _, some (t, h) => crossStop s i l t h
    | .ok (l', g'), none =>
      let done := l.map (fun t => t.tslot)
      let skipped := i.threads.filter (fun k => !done.contains k)
      let s0 := skipped.foldl (fun st k => match s.slotThread i k with | some (_, _, t) => st.skipLatent opc o e t g k done.isEmpty | none => st) (s.dropUpsets i done)
      let s1 := i.threads.foldl (retireSlot i) s0
      let s2 := l'.foldl (fun st t => st.onThread i.cl i.co t.tid (fun _ => retire t)) s1
      (s2.onGroup i.cl i.co i.gs (fun _ => g'),
       { i with done := i.done ++ done, skipped := i.skipped ++ skipped, first := false, cycles := i.cycles + (done.filterMap (s.upsetOf i)).length })

/-- Serve a uniform cross-thread operation: it executes once for the front, and a fault is its lowest thread's (R47, R57). -/
def serveOnce (f : CrossServe) (s : State) (i : Issue) : State × Issue :=
  serveUniform (fun i k st =>
    let c := st.core i.cl i.co
    match c.group? i.gs, st.slotThread i k with
    | some g, some _ =>
      (match f (Env.of st c g) c g (i.threads.filterMap (c.threadAt g)) with
       | .error (h, _) => .error h
       | .ok (_, g') => .ok (st.onGroup i.cl i.co i.gs (fun _ => g')))
    | _, _ => .ok st) s i

/-! ### From one thread to the machine -/

/-- An operation on the registers of one thread and its group: nothing else can change. -/
abbrev LaneOp := Env → Thread → Group → Except Halt (Thread × Group)

/-- A lane operation as an effect on the state. -/
def laneServe (f : LaneOp) : Serve := fun i k s =>
  match s.slotThread i k with
  | none => .ok s
  | some (c, g, t) =>
    match f (Env.of s c g) t g with
    | .error h => .error h
    | .ok (t', g') => .ok (s.setCore ((c.setThread t').setGroup g'))

/-- Whether an operation is uniform (R47). -/
def opUniform (opc : Nat) (o : Ops) : Bool := (o.raw opc).uniform

/-- A word that is no instruction stops as class 1 with its detail (R208). -/
def illegal (d : Nat) : Serve := fun _ _ _ => .error (.trap (0x10 + d) false 0)

/-- An operation that takes no fault of classes 3 to 19: fence.r, fence and cctl (R276 to R278). -/
def isSoft (opc : Nat) : Bool := decide (0x1C8 ≤ opc) && decide (opc ≤ 0x1CA)

/-- Run an operation of the issue under way: a uniform one once, any other for each active thread (R46, R47). -/
def runOp (ins : Instr) (opc : Nat) (o : Ops) (f : Serve) (s : State) : Host.Outcome State Fault Refusal :=
  match s.cur with
  | none => .fault .noIssue
  | some i0 =>
    let i := { i0 with soft := isSoft opc }
    let f' := match ins.detail with
      | some d => illegal d
      | none => f
    let (s', i') := if opUniform opc o then serveUniform f' s i else serveAll f' opc o i.threads s i
    .next { s' with cur := some { i' with soft := i0.soft } }

/-- Run a lane operation. -/
def runLane (ins : Instr) (opc : Nat) (o : Ops) (f : LaneOp) (s : State) : Host.Outcome State Fault Refusal :=
  runOp ins opc o (laneServe f) s

/-- Run a cross-thread operation; the uniform ones, xpick, first and actc, execute once for their front (R47, R51). -/
def runCross (ins : Instr) (opc : Nat) (o : Ops) (f : CrossServe) (s : State) : Host.Outcome State Fault Refusal :=
  match s.cur with
  | none => .fault .noIssue
  | some i =>
    let (s', i') := match ins.detail with
      | some d => if opUniform opc o then serveUniform (illegal d) s i else serveAll (illegal d) opc o i.threads s i
      | none => if opUniform opc o then serveOnce f s i else serveCross f opc o s i
    .next { s' with cur := some i' }

/-- A lane operation with one destination of one or two words: the operand checks, then the result (R228, R245). -/
def laneRes (opc : Nat) (o : Ops) (f : Env → Thread → Group → DWord) : LaneOp := fun e t g =>
  let w := widths opc o
  match operandHalt t g o w 0 0 0 with
  | some h => .error h
  | none => .ok (wrN t g o.d w.d (f e t g))

/-- A result from the three sources. `sx` says whether an immediate extends by sign (R19). -/
def srcRes (opc : Nat) (o : Ops) (sx : Bool) (f : DWord → DWord → DWord → DWord) (e : Env) (t : Thread) (g : Group) : DWord :=
  let w := widths opc o
  f (rdN e o t g o.a w.a sx) (rdN e o t g o.b w.b sx) (rdN e o t g o.c w.c sx)

/-- A lane operation on the three sources. -/
def laneN (opc : Nat) (o : Ops) (sx : Bool) (f : DWord → DWord → DWord → DWord) : LaneOp := laneRes opc o (srcRes opc o sx f)

/-! ### Long-latency operations (R65, R199, R299) -/

/-- The words a destination of a long operation takes, stack words or group registers; none for `zero`. -/
def longDests (t : Thread) (x : Spec) (n : Nat) : List Dest :=
  match x with
  | .v k => (List.range n).map (fun j => .v (t.wb + k.val + j))
  | .g k => (List.range n).map (fun j => .g (k.val + j))
  | _ => []

/-- Count an operation in a completion flag of the group (R65). -/
def Group.setFlag (g : Group) (f : Option Nat) : Group :=
  match f with
  | none => g
  | some k => { g with flags := assocSet 0 g.flags k (assocGet 0 g.flags k + 1) }

/-- The other threads of the front for which a uniform operation acts (R47, R57). -/
def State.others (s : State) (i : Issue) (t : Thread) (uniform : Bool) : List Nat :=
  if uniform then (i.threads.filterMap (fun k => (s.slotThread i k).map (fun x => x.2.2.tid))).filter (· != t.tid) else []

/-- Start a long operation of a thread: its result lands later (LONG_OP_LANDS). It counts in the flag the segment gives
this operation, if it writes a word (R298). -/
def State.startLong (s : State) (i : Issue) (t : Thread) (also : List Nat) (dests : List Dest) (data : Option (List PWord)) : Nat × State :=
  let (id, s1) := s.freshId
  let fl := if dests.isEmpty then none else i.flag
  let s2 := s1.onGroup i.cl i.co i.gs (fun g => g.setFlag fl)
  (id, { s2 with longs := s2.longs ++ [{ id := id, cl := i.cl, co := i.co, tid := t.tid, also := also, gslot := i.gs, flag := fl, dests := dests, data := data }] })

/-- A long-latency lane operation: the operand checks and the result as laneRes, written when it lands. -/
def longServe (opc : Nat) (o : Ops) (f : Env → Thread → Group → DWord) : Serve := fun i k s =>
  match s.slotThread i k with
  | none => .ok s
  | some (c, g, t) =>
    let w := widths opc o
    match operandHalt t g o w 0 0 0 with
    | some h => .error h
    | none =>
      let x := f (Env.of s c g) t g
      let words : List PWord := [⟨x.extractLsb' 0 32, false⟩, ⟨x.extractLsb' 32 32, false⟩]
      .ok (s.startLong i t (s.others i t (opUniform opc o)) (longDests t o.d w.d) (some (words.take w.d))).2

/-- Run a long-latency lane operation. -/
def runLong (ins : Instr) (opc : Nat) (o : Ops) (f : Env → Thread → Group → DWord) (s : State) : Host.Outcome State Fault Refusal :=
  runOp ins opc o (longServe opc o f) s

end Sys2Proof.Machine
end

