-- ==== Sys2Proof/Machine/Formats.lean ====
section
/-! DEFINITION. Number formats, exact values, rounding, conversion into slots, XS10 scales (R5, R134 to R150). -/

namespace Sys2Proof.Machine

/-! ### Exact values -/

/-- A value before rounding: NaN, an infinity, or ±m × 2^e. `st` says that the magnitude lies strictly between
m × 2^e and (m + 1) × 2^e. A zero keeps its sign. -/
inductive XVal where
  | nan
  | inf (neg : Bool)
  | fin (neg : Bool) (m : Nat) (e : Int) (st : Bool)
deriving DecidableEq, Repr

/-- Rounding modes (R136). -/
inductive Rnd where
  | rne | rz | ru | rd
deriving DecidableEq, Repr

/-- The mode of an RM or ROUND field (R136, R145). -/
def rndOf (n : Nat) : Rnd := match n with | 0 => .rne | 1 => .rz | 2 => .ru | _ => .rd

/-- A floating format: precision with the hidden bit, exponent of the least normal, greatest finite magnitude code, the
magnitude codes of infinity and NaN, whether it has a sign bit above `width - 1` bits of magnitude, and a negative zero
(R134, R137, R138, R140). -/
structure FloatFmt where
  p : Nat
  emin : Int
  cmax : Nat
  inf : Option Nat
  nan : Option Nat
  signed : Bool
  negZero : Bool
  width : Nat
deriving DecidableEq, Repr

/-- binary16. -/
def f16 : FloatFmt := ⟨11, -14, 0x7BFF, some 0x7C00, some 0x7E00, true, true, 16⟩
/-- bfloat16. -/
def bf16 : FloatFmt := ⟨8, -126, 0x7F7F, some 0x7F80, some 0x7FC0, true, true, 16⟩
/-- binary32. -/
def f32 : FloatFmt := ⟨24, -126, 0x7F7FFFFF, some 0x7F800000, some 0x7FC00000, true, true, 32⟩
/-- binary64. -/
def f64 : FloatFmt := ⟨53, -1022, 0x7FEFFFFFFFFFFFFF, some 0x7FF0000000000000, some 0x7FF8000000000000, true, true, 64⟩
/-- E2M1 (R140). -/
def e2m1 : FloatFmt := ⟨2, 0, 7, none, none, true, true, 4⟩

/-- The format of a T field of kind F (R197). -/
def fmtOf (t : Nat) : FloatFmt := match t with | 0 => f16 | 1 => bf16 | 2 => f32 | _ => f64

/-- binary8pP by precision, signedness and domain (R137, R138). -/
def b8 (p : Nat) (unsigned extended : Bool) : FloatFmt :=
  if unsigned then
    ⟨p, 1 - (2 ^ (8 - p) : Int), if extended then 0xFD else 0xFE, if extended then some 0xFE else none, some 0xFF, false, false, 8⟩
  else
    ⟨p, 1 - (2 ^ (7 - p) : Int), if extended then 0x7E else 0x7F, if extended then some 0x7F else none, some 0x80, true, false, 8⟩

/-- The magnitude of a magnitude code: m × 2^e (R134, R137). -/
def codeMag (f : FloatFmt) (c : Nat) : Nat × Int :=
  let k := 2 ^ (f.p - 1)
  let ef := c / k
  if ef = 0 then (c, f.emin - (f.p - 1)) else (k + c % k, f.emin + (ef - 1) - (f.p - 1))

/-- The value of a code (R134, R137, R138, R140). -/
def decodeF (f : FloatFmt) (code : Nat) : XVal :=
  let c := code % 2 ^ f.width
  let sb := 2 ^ (f.width - 1)
  let neg := f.signed && decide (sb ≤ c)
  let mag := if neg then c - sb else c
  if f.signed && !f.negZero && c == sb then .nan
  else if some mag == f.inf then .inf neg
  else if decide (f.cmax < mag) then .nan
  else .fin neg (codeMag f mag).1 (codeMag f mag).2 false

/-- Twice the part below one unit, compared: 0 exact, 1 below half, 2 a half, 3 above half. -/
def restClass (r d : Nat) (st : Bool) : Nat :=
  if r = 0 && !st then 0
  else if 2 * r = d && !st then 2
  else if 2 * r < d then 1 else 3

/-- A magnitude m × 2^e as a multiple of 2^q: the floor and the class of the rest. -/
def quantum (m : Nat) (e q : Int) (st : Bool) : Nat × Nat :=
  if q ≤ e then
    -- the unit is not above the value's own: with st the value lies strictly inside the unit, which callers avoid
    (m * 2 ^ (e - q).toNat, if st then 1 else 0)
  else
    let d := 2 ^ (q - e).toNat
    (m / d, restClass (m % d) d st)

/-- Round a magnitude up by one unit (R136). -/
def roundUp (md : Rnd) (neg odd : Bool) (cls : Nat) : Bool :=
  match md with
  | .rne => cls == 3 || (cls == 2 && odd)
  | .rz => false
  | .ru => cls != 0 && !neg
  | .rd => cls != 0 && neg

/-- The unbounded magnitude code nearest to ±m × 2^e under a mode (R136). -/
def roundCode (f : FloatFmt) (md : Rnd) (neg : Bool) (m : Nat) (e : Int) (st : Bool) : Nat :=
  if m = 0 && !st then 0
  else
    let top : Int := (if m = 0 then 0 else (Nat.log2 m : Int)) + e
    let ex := if top < f.emin then f.emin else top
    let q := ex - (f.p - 1)
    let (n, cls) := quantum m e q st
    let k := 2 ^ (f.p - 1)
    let c := if n < k then n else (ex - f.emin + 1).toNat * k + (n - k)
    if roundUp md neg (c % 2 == 1) cls then c + 1 else c

/-- A magnitude code with its sign. -/
def signCode (f : FloatFmt) (neg : Bool) (c : Nat) : Nat := if neg && f.signed then 2 ^ (f.width - 1) + c else c

/-- What a rounding delivers: a code, or NaN (R136). -/
inductive Rounded where
  | nan
  | code (c : Nat) (zero : Bool)
deriving DecidableEq, Repr

/-- Infinity of a format, NaN where it has none (R5, R136). An infinite value that is converted into a format without infinities, with no SAT, is NaN in
every rounding mode, where R136 could be read to choose the largest finite value in some: DESIGN CHOICE (log entry 98). -/
def infCode (f : FloatFmt) (neg : Bool) : Rounded :=
  match f.inf with
  | some c => .code (signCode f neg c) false
  | none => .nan

/-- Round a value to a format (R136); an infinite one as infCode has it (log entry 98). -/
def roundF (f : FloatFmt) (md : Rnd) (x : XVal) : Rounded :=
  match x with
  | .nan => .nan
  | .inf neg => infCode f neg
  | .fin neg m e st =>
    let c := roundCode f md neg m e st
    if c > f.cmax then
      let toMax := match md with | .rne => false | .rz => true | .ru => neg | .rd => !neg
      if toMax then .code (signCode f neg f.cmax) false else infCode f neg
    else if c = 0 then .code (if f.negZero then signCode f neg 0 else 0) true
    else .code (signCode f neg c) false

/-- Round to an IEEE type; NaN becomes its canonical NaN (R134, R135). -/
def toF (f : FloatFmt) (md : Rnd) (x : XVal) : Nat :=
  match roundF f md x with
  | .nan => f.nan.getD 0
  | .code c _ => c

/-! ### Exact arithmetic -/

/-- A finite value as an integer multiple of 2^e0, e0 not above its exponent. -/
def scaled (neg : Bool) (m : Nat) (e e0 : Int) : Int :=
  let v : Int := m * 2 ^ (e - e0).toNat
  if neg then -v else v

/-- The exact sum of finite values; a zero sum is +0, −0 only when both are −0, or under rd when signs differ (R250). -/
def addFin (md : Rnd) (n1 : Bool) (m1 : Nat) (e1 : Int) (n2 : Bool) (m2 : Nat) (e2 : Int) : XVal :=
  let e0 := min e1 e2
  let v := scaled n1 m1 e1 e0 + scaled n2 m2 e2 e0
  if v = 0 then .fin (if n1 == n2 then n1 else md == .rd) 0 e0 false
  else .fin (decide (v < 0)) v.natAbs e0 false

/-- va + vb (R249, R250). -/
def xadd (md : Rnd) (a b : XVal) : XVal :=
  match a, b with
  | .nan, _ | _, .nan => .nan
  | .inf x, .inf y => if x == y then .inf x else .nan
  | .inf x, _ => .inf x
  | _, .inf y => .inf y
  | .fin n1 m1 e1 _, .fin n2 m2 e2 _ => addFin md n1 m1 e1 n2 m2 e2

/-- −x. -/
def xneg : XVal → XVal
  | .nan => .nan
  | .inf n => .inf (!n)
  | .fin n m e st => .fin (!n) m e st

/-- va × vb (R249, R250). -/
def xmul (a b : XVal) : XVal :=
  match a, b with
  | .nan, _ | _, .nan => .nan
  | .inf x, .inf y => .inf (x != y)
  | .inf x, .fin n m _ _ => if m = 0 then .nan else .inf (x != n)
  | .fin n m _ _, .inf x => if m = 0 then .nan else .inf (x != n)
  | .fin n1 m1 e1 _, .fin n2 m2 e2 _ => .fin (n1 != n2) (m1 * m2) (e1 + e2) false

/-- va × vb + vc (R249, R250). -/
def xfma (md : Rnd) (a b c : XVal) : XVal := xadd md (xmul a b) c

/-- Bits that a quotient or root is computed to before rounding. -/
abbrev quotBits : Nat := 160

/-- va / vb with a sticky rest (R249, R250). -/
def xdiv (a b : XVal) : XVal :=
  match a, b with
  | .nan, _ | _, .nan => .nan
  | .inf _, .inf _ => .nan
  | .inf x, .fin n _ _ _ => .inf (x != n)
  | .fin n _ _ _, .inf y => .fin (n != y) 0 0 false
  | .fin n1 m1 e1 _, .fin n2 m2 e2 _ =>
    if m2 = 0 then (if m1 = 0 then .nan else .inf (n1 != n2))
    else
      let k := quotBits + Nat.log2 m2
      let x := m1 * 2 ^ k
      .fin (n1 != n2) (x / m2) (e1 - e2 - k) (x % m2 != 0)

/-- The integer square root, bit by bit. -/
def isqrtFrom (m : Nat) : Nat → Nat → Nat
  | 0, r => r
  | i + 1, r => let r' := r + 2 ^ i; isqrtFrom m i (if r' * r' ≤ m then r' else r)

/-- The integer square root. -/
def isqrt (m : Nat) : Nat := isqrtFrom m (Nat.log2 m / 2 + 1) 0

/-- Compare two values that are no NaN: a < b, with −0 below +0 where `zeros` says so. -/
def xlt (zeros : Bool) (a b : XVal) : Bool :=
  match a, b with
  | .nan, _ | _, .nan => false
  | .inf x, .inf y => x && !y
  | .inf x, _ => x
  | _, .inf y => !y
  | .fin n1 m1 e1 _, .fin n2 m2 e2 _ =>
    let e0 := min e1 e2
    let u := scaled n1 m1 e1 e0
    let v := scaled n2 m2 e2 e0
    if u = 0 && v = 0 then zeros && n1 && !n2 else decide (u < v)

/-- Value is NaN. -/
def XVal.isNan : XVal → Bool
  | .nan => true
  | _ => false

/-- Value is finite. -/
def XVal.isFin : XVal → Bool
  | .fin .. => true
  | _ => false

/-- Value is zero. -/
def XVal.isZero : XVal → Bool
  | .fin _ m _ st => m == 0 && !st
  | _ => false

/-- Value is negative or −0. -/
def XVal.isNeg : XVal → Bool
  | .nan => false
  | .inf n => n
  | .fin n _ _ _ => n

/-- The lesser code of a format: the other operand when exactly one is NaN, bits unchanged; −0 below +0 (R244, R250). -/
def minCode (f : FloatFmt) (a b : Nat) : Nat :=
  let x := decodeF f a
  let y := decodeF f b
  if x.isNan then (if y.isNan then f.nan.getD 0 else b) else if y.isNan then a else if xlt true y x then b else a

/-- The greater code of a format (R244, R250). -/
def maxCode (f : FloatFmt) (a b : Nat) : Nat :=
  let x := decodeF f a
  let y := decodeF f b
  if x.isNan then (if y.isNan then f.nan.getD 0 else b) else if y.isNan then a else if xlt true x y then b else a

/-- An exact integer. -/
def xint (v : Int) : XVal := .fin (decide (v < 0)) v.natAbs 0 false

/-- A value rounded to an integer under a mode (R253, R257). -/
def roundInt (md : Rnd) (neg : Bool) (m : Nat) (e : Int) : Int :=
  let (n, cls) := quantum m e 0 false
  let k := if roundUp md neg (n % 2 == 1) cls then n + 1 else n
  if neg then -(k : Int) else k

/-! ### Slots (R145 to R149) -/

/-- An element format of a slot (R146). -/
inductive Elem where
  | none
  | flt (f : FloatFmt)
  | int (w : Nat)
  | reserved
deriving DecidableEq, Repr

/-- The element format of an ELEM code (R146). -/
def elemOf (c : Nat) : Elem :=
  let p := c % 8
  match c with
  | 0x00 => .none
  | 0x01 => .flt f16
  | 0x02 => .flt bf16
  | 0x03 => .flt f32
  | 0x08 => .flt e2m1
  | 0x09 => .int 8
  | 0x0A => .int 4
  | _ => if decide (0x41 ≤ c) && decide (c ≤ 0x5F) && p != 0 then .flt (b8 p (bit c 4) (bit c 3)) else .reserved

/-- A slot descriptor's fields (R145). -/
structure Slot where
  elem : Elem
  code : Nat
  scaled : Bool
  sblk : Nat
  md : Rnd
  sat : Bool
  nanp : Nat
deriving DecidableEq, Repr

/-- Read a slot descriptor (R145). -/
def slotOf (d : DWord) : Slot :=
  let n := d.toNat
  ⟨elemOf (bits n 0 8), bits n 0 8, bits n 8 2 == 1, bits n 10 2, rndOf (bits n 12 2), bit n 14, bits n 15 2⟩

/-- A descriptor that a launch may bind (R147). -/
def slotOk (d : DWord) : Bool :=
  let n := d.toNat
  bits n 17 47 == 0 && decide (bits n 15 2 < 2) && decide (bits n 10 2 < 2) && decide (bits n 8 2 < 2)
  && (bits n 10 2 == 0 || bits n 8 2 == 1) && elemOf (bits n 0 8) != .reserved

/-- The width of an element (R146). -/
def elemWidth : Elem → Nat
  | .flt f => f.width
  | .int w => w
  | _ => 0

/-- Formats that a matrix command may name (R146). -/
def matrixElem (c : Nat) : Bool := c != 3 && elemOf c != .none && elemOf c != .reserved

/-- The largest finite value of an element format. -/
def elemMax : Elem → XVal
  | .flt f => .fin false (codeMag f f.cmax).1 (codeMag f f.cmax).2 false
  | .int w => xint (2 ^ (w - 1) - 1)
  | _ => xint 0

/-- sat(x, f): clamp to the finite range (R5, R139, R149). -/
def satX (el : Elem) (x : XVal) : XVal :=
  let mx := elemMax el
  let mn := match el with
    | .int w => xint (-(2 ^ (w - 1)))
    | _ => xneg mx
  if xlt false mx x then mx else if xlt false x mn then mn else x

/-- convert(x, s) of R149: the code in the low bits. -/
def convertSlot (s : Slot) (x : XVal) : Nat :=
  match s.elem with
  | .int w =>
    (match x with
     | .nan => 0
     | _ =>
       match satX s.elem x with
       | .fin n m e st =>
         let (k, cls) := quantum m e 0 st
         let v : Nat := if roundUp s.md n (k % 2 == 1) cls then k + 1 else k
         ((if n then -(v : Int) else v) % (2 ^ w : Int)).toNat
       | _ => 0)
  | .flt f =>
    let x1 := if !f.signed && x.isNeg then xint 0 else x
    let x2 := if s.sat || f == e2m1 then satX s.elem x1 else x1
    (match roundF f s.md x2 with
     | .nan => (match f.nan with
        | some c => if s.nanp == 0 then c else 0
        | none => 0)
     | .code c _ => c)
  | _ => 0

/-- The value of an element code (R146). -/
def decodeElem (el : Elem) (c : Nat) : XVal :=
  match el with
  | .flt f => decodeF f c
  | .int w => xint (sgn w c)
  | _ => xint 0

/-! ### XS10 (R142 to R144) -/

/-- The value of a scale container (R142). -/
def xs10 (c : Nat) : XVal :=
  let e := bits c 2 8
  if bits c 10 6 != 0 || e == 255 then .nan else .fin false (4 + bits c 0 2) ((e : Int) - 129) false

/-- a × b ≥ c for finite non-negative values. -/
def geProd (a b c : XVal) : Bool := !xlt false (xmul a b) c

/-- The least container of the given number of candidates from c on whose value times emax reaches amax (R144). -/
def scaleFrom (emax amax : XVal) : Nat → Nat → Nat
  | 0, _ => 0x3FB
  | k + 1, c => if geProd (xs10 c) emax amax then c else scaleFrom emax amax k (c + 1)

/-- The scale chosen for a block (R144). -/
def chooseScale (el : Elem) (amax : XVal) : Nat :=
  match amax with
  | .nan => 0x3FC
  | .inf _ => 0x3FC
  | x => if x.isZero then 0 else scaleFrom (elemMax el) x 0x3FC 0

end Sys2Proof.Machine
end

