-- ==== Sys2Proof/Machine/Float.lean ====
section
/-! DEFINITION. Floating-point arithmetic, comparison, conversion and packing (R245 to R253, R256 to R260). -/

namespace Sys2Proof.Machine

/-! ### Operands (R19, R245, R246) -/

/-- The rounding mode of an operation (R136). -/
def opRnd (o : Ops) : Rnd := rndOf (o.mod.extractLsb' 8 2).toNat

/-- The packed pair form (R246). -/
def opX2 (o : Ops) : Bool := o.mod.getLsbD 10

/-- SUB of the compute layout. -/
def opSub (o : Ops) : Nat := (o.mod.extractLsb' 4 4).toNat

/-- Element j of a floating source as a code; an immediate supplies the same code to each element, and for f64 an f32
code that the Saruz widens (R19, R245, R246). -/
def fcode (e : Env) (o : Ops) (t : Thread) (g : Group) (ty : Nat) (x : Spec) (j : Nat) : Nat :=
  match x with
  | .imm => if ty == 3 then toF f64 .rne (decodeF f32 o.imm.toNat) else o.imm.toNat % 2 ^ (fmtOf ty).width
  | x => if ty == 3 then (rd64 e o t g x false).toNat else (wordOf e t g x 0).toNat / 2 ^ (16 * j) % 2 ^ (fmtOf ty).width

/-- The result of an operation of kind F by elements. -/
def floatRes (o : Ops) (f : FloatFmt → Rnd → Nat → Nat → Nat → Nat) (e : Env) (t : Thread) (g : Group) : DWord :=
  let ty := o.t.val
  let el := fun j => f (fmtOf ty) (opRnd o) (fcode e o t g ty o.a j) (fcode e o t g ty o.b j) (fcode e o t g ty o.c j)
  BitVec.ofNat 64 (if opX2 o then el 0 + 2 ^ 16 * el 1 else el 0)

/-- Run an operation of kind F in the lane. -/
def runFloat (ins : Instr) (opc : Nat) (o : Ops) (f : FloatFmt → Rnd → Nat → Nat → Nat → Nat) (s : State) :
    Host.Outcome State Fault Refusal :=
  runLane ins opc o (laneRes opc o (floatRes o f)) s

/-- Run a long-latency operation of kind F. -/
def runFloatLong (ins : Instr) (opc : Nat) (o : Ops) (f : FloatFmt → Rnd → Nat → Nat → Nat → Nat) (s : State) :
    Host.Outcome State Fault Refusal :=
  runLong ins opc o (floatRes o f) s

/-! ### Arithmetic (R249, R250) -/

/-- va + vb (R249, R250). -/
def fnAdd (f : FloatFmt) (md : Rnd) (a b _c : Nat) : Nat := toF f md (xadd md (decodeF f a) (decodeF f b))
/-- va − vb (R249, R250). -/
def fnSub (f : FloatFmt) (md : Rnd) (a b _c : Nat) : Nat := toF f md (xadd md (decodeF f a) (xneg (decodeF f b)))
/-- va × vb (R249, R250). -/
def fnMul (f : FloatFmt) (md : Rnd) (a b _c : Nat) : Nat := toF f md (xmul (decodeF f a) (decodeF f b))
/-- va × vb + vc, one rounding (R249, R250). -/
def fnFma (f : FloatFmt) (md : Rnd) (a b c : Nat) : Nat := toF f md (xfma md (decodeF f a) (decodeF f b) (decodeF f c))
/-- The lesser (R249, R250). -/
def fnMin (f : FloatFmt) (_md : Rnd) (a b _c : Nat) : Nat := minCode f a b
/-- The greater (R249, R250). -/
def fnMax (f : FloatFmt) (_md : Rnd) (a b _c : Nat) : Nat := maxCode f a b
/-- va / vb (R249, R250). -/
def fnDiv (f : FloatFmt) (md : Rnd) (a b _c : Nat) : Nat := toF f md (xdiv (decodeF f a) (decodeF f b))

/-- fadd (R249). -/
def execFadd (o : Ops) (s : State) : Host.Outcome State Fault Refusal := runFloat (.fadd o) 0x140 o fnAdd s
/-- fsub (R249). -/
def execFsub (o : Ops) (s : State) : Host.Outcome State Fault Refusal := runFloat (.fsub o) 0x141 o fnSub s
/-- fmul (R249). -/
def execFmul (o : Ops) (s : State) : Host.Outcome State Fault Refusal := runFloat (.fmul o) 0x142 o fnMul s
/-- ffma (R249). -/
def execFfma (o : Ops) (s : State) : Host.Outcome State Fault Refusal := runFloat (.ffma o) 0x143 o fnFma s
/-- fmin (R249). -/
def execFmin (o : Ops) (s : State) : Host.Outcome State Fault Refusal := runFloat (.fmin o) 0x144 o fnMin s
/-- fmax (R249). -/
def execFmax (o : Ops) (s : State) : Host.Outcome State Fault Refusal := runFloat (.fmax o) 0x145 o fnMax s
/-- fdiv (R249): long-latency. -/
def execFdiv (o : Ops) (s : State) : Host.Outcome State Fault Refusal := runFloatLong (.fdiv o) 0x146 o fnDiv s

/-! ### Compare and classify (R251, R252) -/

/-- The condition CC of fcmp by its SUB value (R251). -/
def fcmpCC (cc : Nat) (x y : XVal) : Bool :=
  if x.isNan || y.isNan then cc == 1 || cc == 7
  else
    match cc with
    | 0 => !xlt false x y && !xlt false y x
    | 1 => xlt false x y || xlt false y x
    | 2 => xlt false x y
    | 3 => !xlt false y x
    | 4 => xlt false y x
    | 5 => !xlt false x y
    | 6 => true
    | _ => false

/-- fcmp (R251). -/
def execFcmp (o : Ops) (s : State) : Host.Outcome State Fault Refusal :=
  runLane (.fcmp o) 0x148 o (fun e t g =>
    match operandHalt t g o (widths 0x148 o) 0 0 0 with
    | some h => .error h
    | none =>
      let f := fmtOf o.t.val
      .ok (wrP t g o.d (fcmpCC (opSub o) (decodeF f (fcode e o t g o.t.val o.a 0)) (decodeF f (fcode e o t g o.t.val o.b 0))))) s

/-- The class of a code (R252). -/
def classOf (f : FloatFmt) (code : Nat) : Nat :=
  let sb := 2 ^ (f.width - 1)
  let neg := decide (sb ≤ code % 2 ^ f.width)
  let mag := code % sb
  let infm := f.inf.getD 0
  if mag > infm then (if bit mag (f.p - 2) then 1 else 0)
  else if mag = infm then (if neg then 2 else 9)
  else if mag = 0 then (if neg then 5 else 6)
  else if mag < 2 ^ (f.p - 1) then (if neg then 4 else 7)
  else (if neg then 3 else 8)

/-- fclass (R252). -/
def execFclass (o : Ops) (s : State) : Host.Outcome State Fault Refusal :=
  runLane (.fclass o) 0x149 o (fun e t g =>
    match operandHalt t g o (widths 0x149 o) 0 0 0 with
    | some h => .error h
    | none => .ok (wrP t g o.d ((rd32 e o t g o.b).getLsbD (classOf (fmtOf o.t.val) (fcode e o t g o.t.val o.a 0))))) s

/-! ### Integral and fractional parts (R253) -/

/-- frnd on a code (R253): a zero keeps the sign. -/
def frndCode (f : FloatFmt) (md : Rnd) (a : Nat) : Nat :=
  match decodeF f a with
  | .nan => f.nan.getD 0
  | .inf _ => a
  | .fin n m e _ =>
    if m = 0 then a
    else
      let v := roundInt md n m e
      toF f md (.fin n v.natAbs 0 false)

/-- ffrac on a code (R253). -/
def ffracCode (f : FloatFmt) (md : Rnd) (a : Nat) : Nat :=
  match decodeF f a with
  | .nan => f.nan.getD 0
  | .inf _ => f.nan.getD 0
  | .fin n m e _ =>
    let fl := roundInt .rd n m e
    match xadd .rne (.fin n m e false) (xint (-fl)) with
    | .fin _ 0 _ _ => 0
    | x =>
      let c := toF f md x
      let one := toF f .rne (xint 1)
      if c == one then one - 1 else c

/-- frnd (R253). -/
def execFrnd (o : Ops) (s : State) : Host.Outcome State Fault Refusal :=
  runFloat (.frnd o) 0x14A o (fun f md a _ _ => frndCode f md a) s
/-- ffrac (R253). -/
def execFfrac (o : Ops) (s : State) : Host.Outcome State Fault Refusal :=
  runFloat (.ffrac o) 0x14B o (fun f md a _ _ => ffracCode f md a) s

/-! ### Reciprocals and roots (R254, R255) -/

/-- √x for a finite non-negative value, with a sticky rest: the magnitude is brought to an even exponent and 200 bits. -/
def xsqrt (m : Nat) (e : Int) : XVal :=
  let k : Nat := 400
  let e1 := e - k
  let adj : Nat := if e1 % 2 = 0 then 0 else 1
  let x := m * 2 ^ (k + adj)
  let r := isqrt x
  .fin false r ((e1 - adj) / 2) (r * r != x)

/-- rcp on a value (R255). -/
def rcpX (x : XVal) : XVal := xdiv (xint 1) x

/-- sqrt on a value (R255). -/
def sqrtX (x : XVal) : XVal :=
  match x with
  | .nan => .nan
  | .inf n => if n then .nan else .inf false
  | .fin n m e _ => if m = 0 then .fin n 0 0 false else if n then .nan else xsqrt m e

/-- rsq on a value (R255): 1/√x is √(1/x), taken from the floor of 2^(2k) / m with a sticky rest. -/
def rsqX (x : XVal) : XVal :=
  match x with
  | .nan => .nan
  | .inf n => if n then .nan else .fin false 0 0 false
  | .fin n m e _ =>
    if m = 0 then .inf n
    else if n then .nan
    else
      let adj : Nat := if e % 2 = 0 then 0 else 1
      let m1 := m * 2 ^ adj
      let e1 := e - adj
      let k : Nat := 400 + Nat.log2 m1
      let q := 2 ^ (2 * k) / m1
      let r := isqrt q
      .fin false r (-(e1 / 2) - k) (r * r * m1 != 2 ^ (2 * k))

/-- rcp (R254): long-latency. -/
def execRcp (o : Ops) (s : State) : Host.Outcome State Fault Refusal :=
  runFloatLong (.rcp o) 0x180 o (fun f md a _ _ => toF f md (rcpX (decodeF f a))) s
/-- rsq (R254): long-latency. -/
def execRsq (o : Ops) (s : State) : Host.Outcome State Fault Refusal :=
  runFloatLong (.rsq o) 0x181 o (fun f md a _ _ => toF f md (rsqX (decodeF f a))) s
/-- sqrt (R254): long-latency. -/
def execSqrt (o : Ops) (s : State) : Host.Outcome State Fault Refusal :=
  runFloatLong (.sqrt o) 0x182 o (fun f md a _ _ => toF f md (sqrtX (decodeF f a))) s

/-! ### Conversion (R256, R257) -/

/-- Round to an integer, clamp to a range; NaN gives 0 (R257). -/
def toInt (md : Rnd) (lo hi : Int) (x : XVal) : Int :=
  match x with
  | .nan => 0
  | .inf n => if n then lo else hi
  | .fin n m e _ => let v := roundInt md n m e; if v < lo then lo else if hi < v then hi else v

/-- A slot's element decoded as an f32 code (R257). -/
def fromSlot (sl : Slot) (c : Nat) : Nat := toF f32 .rne (decodeElem sl.elem (c % 2 ^ elemWidth sl.elem))

/-- The slot of an index (R145). -/
def Env.slot (e : Env) (n : Nat) : Slot := slotOf (e.slots.getD n 0)

/-- The 64-bit result of cvt (R256, R257). -/
def cvtRes (o : Ops) (e : Env) (t : Thread) (g : Group) : DWord :=
  let md := opRnd o
  let w := o.mod.getLsbD 11
  let x2 := opX2 o
  let half := fun j => match o.a with
    | .imm => o.imm.toNat % 2 ^ 16
    | x => (wordOf e t g x 0).toNat / 2 ^ (16 * j) % 2 ^ 16
  let word := fun j => match o.a with
    | .imm => o.imm.toNat
    | x => (wordOf e t g x j).toNat
  let dbl := match o.a with
    | .imm => toF f64 .rne (decodeF f32 o.imm.toNat)
    | x => (rd64 e o t g x false).toNat
  let widen := fun (f : FloatFmt) =>
    let r := fun j => toF f32 .rne (decodeF f (half j))
    if x2 then r 0 + 2 ^ 32 * r 1 else r 0
  let narrow := fun (f : FloatFmt) =>
    let r := fun j => toF f md (decodeF f32 (word j))
    if x2 then r 0 + 2 ^ 16 * r 1 else r 0
  let n := if w then 64 else 32
  let int := fun (signed : Bool) => xint (intVal n signed (rdN e o t g o.a (if w then 2 else 1) signed))
  let fint := fun (signed : Bool) (x : XVal) =>
    let v := if signed then toInt md (-(2 ^ (n - 1))) (2 ^ (n - 1) - 1) x else toInt md 0 (2 ^ n - 1) x
    (wrapInt n v).toNat
  let sl := e.slot o.t.val
  BitVec.ofNat 64 (match opSub o with
    | 0 => widen f16
    | 1 => widen bf16
    | 2 => narrow f16
    | 3 => narrow bf16
    | 4 => toF f64 .rne (decodeF f32 (word 0))
    | 5 => toF f32 md (decodeF f64 dbl)
    | 6 => toF f32 md (int true)
    | 7 => toF f32 md (int false)
    | 8 => fint true (decodeF f32 (word 0))
    | 9 => fint false (decodeF f32 (word 0))
    | 10 => toF f64 md (int true)
    | 11 => toF f64 md (int false)
    | 12 => fint true (decodeF f64 dbl)
    | 13 => fint false (decodeF f64 dbl)
    | 14 => convertSlot sl (decodeF f32 (word 0))
    | _ => fromSlot sl (word 0))

/-- A slot whose ELEM is 0 stops a conversion instruction (R147, R338). -/
def unbound (e : Env) (n : Nat) : Bool := (e.slot n).elem == .none

/-- A lane operation that names a slot: the operand checks, then the slot, then the result. -/
def laneSlot (opc : Nat) (o : Ops) (named : Bool) (f : Env → Thread → Group → DWord) : LaneOp := fun e t g =>
  let w := widths opc o
  match operandHalt t g o w 0 0 0 with
  | some h => .error h
  | none => if named && unbound e o.t.val then .error (.trap 0x110 true 0) else .ok (wrN t g o.d w.d (f e t g))

/-- cvt (R256). -/
def execCvt (o : Ops) (s : State) : Host.Outcome State Fault Refusal :=
  runLane (.cvt o) 0x190 o (laneSlot 0x190 o (decide (14 ≤ opSub o)) (cvtRes o)) s

/-- cvt.sc (R258): the exact quotient by the scale, converted. -/
def cvtScRes (o : Ops) (e : Env) (t : Thread) (g : Group) : DWord :=
  let sl := e.slot o.t.val
  let x := decodeF f32 (rd32 e o t g o.a).toNat
  let v := xs10 ((rd32 e o t g o.b).toNat % 2 ^ 16)
  BitVec.ofNat 64 (convertSlot sl (xdiv x v))

/-- cvt.sc (R258). -/
def execCvtSc (o : Ops) (s : State) : Host.Outcome State Fault Refusal :=
  runLane (.cvtSc o) 0x191 o (laneSlot 0x191 o true (cvtScRes o)) s

/-- The magnitude of a value. -/
def xabs : XVal → XVal
  | .nan => .nan
  | .inf _ => .inf false
  | .fin _ m e st => .fin false m e st

/-- bscale (R259). -/
def execBscale (o : Ops) (s : State) : Host.Outcome State Fault Refusal :=
  runLane (.bscale o) 0x192 o (laneSlot 0x192 o true (fun e t g =>
    BitVec.ofNat 64 (chooseScale (e.slot o.t.val).elem (xabs (decodeF f32 (rd32 e o t g o.a).toNat))))) s

/-- pack (R260). -/
def execPack (o : Ops) (s : State) : Host.Outcome State Fault Refusal :=
  runLane (.pack o) 0x193 o (laneSlot 0x193 o true (fun e t g =>
    let sl := e.slot o.t.val
    let w := elemWidth sl.elem
    let c := convertSlot sl (decodeF f32 (rd32 e o t g o.a).toNat)
    BitVec.ofNat 64 (if w < 32 then (rd32 e o t g o.b).toNat / 2 ^ w ||| c * 2 ^ (32 - w) else c))) s

/-- unpack (R260): a field that the word does not hold is class 3. -/
def execUnpack (o : Ops) (s : State) : Host.Outcome State Fault Refusal :=
  runLane (.unpack o) 0x194 o (fun e t g =>
    let w := widths 0x194 o
    match operandHalt t g o w 0 0 0 with
    | some h => .error h
    | none =>
      let sl := e.slot o.t.val
      let n := elemWidth sl.elem
      if sl.elem == .none then .error (.trap 0x110 true 0)
      else if opSub o ≥ 32 / n then .error (.trap 0x34 true 0)
      else .ok (wrN t g o.d w.d (BitVec.ofNat 64 (fromSlot sl ((rd32 e o t g o.a).toNat / 2 ^ (opSub o * n)))))) s

end Sys2Proof.Machine
end

