-- ==== Sys2Proof/Machine/Integer.lean ====
section
/-! DEFINITION. Integer arithmetic, shifts, bit fields, logic, moves, selects and compares (R228 to R241). -/

namespace Sys2Proof.Machine

/-- The operation width n (R228). -/
def opBits (o : Ops) : Nat := if o.mod.getLsbD 11 then 64 else 32

/-- The operation is signed: T = s (R197). -/
def opSigned (o : Ops) : Bool := signedT o.t.val

/-- Run an integer operation of up to three sources (R228). -/
def runInt (ins : Instr) (opc : Nat) (o : Ops) (f : Nat → Bool → DWord → DWord → DWord → DWord) (s : State) : Host.Outcome State Fault Refusal :=
  runLane ins opc o (laneN opc o (opSigned o) (f (opBits o) (opSigned o))) s

/-! ### Results -/

/-- (va + vb) mod 2^n (R230). -/
def resAdd (n : Nat) (_ : Bool) (a b _c : DWord) : DWord := wrapInt n (a.toNat + b.toNat)
/-- (va − vb) mod 2^n (R230). -/
def resSub (n : Nat) (_ : Bool) (a b _c : DWord) : DWord := wrapInt n ((a.toNat : Int) - b.toNat)
/-- (va × vb) mod 2^n (R231). -/
def resMul (n : Nat) (_ : Bool) (a b _c : DWord) : DWord := wrapInt n (a.toNat * b.toNat)
/-- The high half of the 2n-bit product (R231). -/
def resMulh (n : Nat) (sg : Bool) (a b _c : DWord) : DWord := wrapInt n ((intVal n sg a * intVal n sg b) / (2 ^ n : Int))
/-- (va × vb + vc) mod 2^n (R231). -/
def resMad (n : Nat) (_ : Bool) (a b c : DWord) : DWord := wrapInt n (a.toNat * b.toNat + c.toNat)
/-- (ext(va) × ext(vb) + pair vc) mod 2^64 (R231). -/
def resMadw (_ : Nat) (sg : Bool) (a b c : DWord) : DWord := wrapInt 64 (intVal 32 sg a * intVal 32 sg b + c.toNat)
/-- The lesser in the order of T (R233). -/
def resMin (n : Nat) (sg : Bool) (a b _c : DWord) : DWord := if ltT n sg b a then b else a
/-- The greater in the order of T (R233). -/
def resMax (n : Nat) (sg : Bool) (a b _c : DWord) : DWord := if ltT n sg a b then b else a
/-- |va| mod 2^n (R233). -/
def resAbs (n : Nat) (_ : Bool) (a _b _c : DWord) : DWord := wrapInt n (intVal n true a).natAbs
/-- (−va) mod 2^n (R233). -/
def resNeg (n : Nat) (_ : Bool) (a _b _c : DWord) : DWord := wrapInt n (-(a.toNat : Int))
/-- min(max(va, vb), vc) (R233). -/
def resClamp (n : Nat) (sg : Bool) (a b c : DWord) : DWord := resMin n sg (resMax n sg a b 0) c 0
/-- The quotient, truncated toward zero, with the cases of R232. -/
def resIdiv (n : Nat) (sg : Bool) (a b _c : DWord) : DWord :=
  if b.toNat % 2 ^ n = 0 then wrapInt n (-1) else wrapInt n ((intVal n sg a).tdiv (intVal n sg b))
/-- The remainder, with the sign of a (R232). -/
def resIrem (n : Nat) (sg : Bool) (a b _c : DWord) : DWord :=
  if b.toNat % 2 ^ n = 0 then wrapInt n a.toNat else wrapInt n ((intVal n sg a).tmod (intVal n sg b))
/-- Shift left; 0 from a count of n on (R234). -/
def resShl (n : Nat) (_ : Bool) (a b _c : DWord) : DWord := if b.toNat ≥ n then 0 else wrapInt n (a.toNat * 2 ^ b.toNat)
/-- Shift right with zeros; 0 from a count of n on (R234). -/
def resShr (n : Nat) (_ : Bool) (a b _c : DWord) : DWord := if b.toNat ≥ n then 0 else wrapInt n (a.toNat % 2 ^ n / 2 ^ b.toNat : Nat)
/-- Shift right with the top bit; every bit the top bit from a count of n on (R234). -/
def resSar (n : Nat) (_ : Bool) (a b _c : DWord) : DWord := wrapInt n (intVal n true a / (2 ^ (if b.toNat ≥ n then n else b.toNat) : Int))
/-- Rotate left by c mod n (R234). -/
def resRotl (n : Nat) (_ : Bool) (a b _c : DWord) : DWord :=
  let r := b.toNat % n
  let x := a.toNat % 2 ^ n
  wrapInt n (x * 2 ^ r + x / 2 ^ (n - r) : Nat)
/-- Funnel shift of vb:va right by vc mod n (R234). -/
def resFsh (n : Nat) (_ : Bool) (a b c : DWord) : DWord :=
  wrapInt n ((b.toNat % 2 ^ n * 2 ^ n + a.toNat % 2 ^ n) / 2 ^ (c.toNat % n) : Nat)
/-- Extract a field (R235). -/
def resBfx (n : Nat) (sg : Bool) (a b c : DWord) : DWord :=
  let pos := min (b.toNat % 2 ^ 32) n
  let len := min (c.toNat % 2 ^ 32) n
  let x := intVal n sg a / (2 ^ pos : Int)
  if len = 0 then 0 else if len = n then wrapInt n x
  else wrapInt n (intVal len sg (wrapInt len x))
/-- Insert a field (R235). -/
def resBfi (n : Nat) (_ : Bool) (a b c : DWord) : DWord :=
  let pos := bits c.toNat 0 8
  let len := bits c.toNat 8 8
  let y := b.toNat % 2 ^ n
  if pos ≥ n || len == 0 then wrapInt n y
  else
    let l := min len (n - pos)
    wrapInt n ((y / 2 ^ (pos + l) * 2 ^ (pos + l) + a.toNat % 2 ^ l * 2 ^ pos + y % 2 ^ pos : Nat) : Int)
/-- The number of set bits (R236). -/
def resPopc (n : Nat) (_ : Bool) (a _b _c : DWord) : DWord := BitVec.ofNat 64 ((List.range n).filter (fun i => a.getLsbD i)).length
/-- Zero bits above the highest set bit (R236). -/
def resClz (n : Nat) (_ : Bool) (a _b _c : DWord) : DWord := BitVec.ofNat 64 (((List.range n).reverse.takeWhile (fun i => !a.getLsbD i)).length)
/-- Zero bits below the lowest set bit (R236). -/
def resCtz (n : Nat) (_ : Bool) (a _b _c : DWord) : DWord := BitVec.ofNat 64 (((List.range n).takeWhile (fun i => !a.getLsbD i)).length)
/-- Bits in reverse order (R236). -/
def resBrev (n : Nat) (_ : Bool) (a _b _c : DWord) : DWord :=
  BitVec.ofNat 64 ((List.range n).foldl (fun r i => r * 2 + (if a.getLsbD i then 1 else 0)) 0)
/-- Bitwise operations (R237). -/
def resAnd (_ : Nat) (_ : Bool) (a b _c : DWord) : DWord := a &&& b
/-- Bitwise or (R237). -/
def resOr (_ : Nat) (_ : Bool) (a b _c : DWord) : DWord := a ||| b
/-- Bitwise exclusive or (R237). -/
def resXor (_ : Nat) (_ : Bool) (a b _c : DWord) : DWord := a ^^^ b
/-- Bitwise complement (R237). -/
def resNot (_ : Nat) (_ : Bool) (a _b _c : DWord) : DWord := ~~~a
/-- va and not vb (R237). -/
def resAndn (_ : Nat) (_ : Bool) (a b _c : DWord) : DWord := a &&& ~~~b
/-- Bit i is bit (a_i + 2 b_i + 4 c_i) of the map in IMM[7:0] (R237). -/
def resBool3 (map : Nat) (n : Nat) (_ : Bool) (a b c : DWord) : DWord :=
  BitVec.ofNat 64 ((List.range n).foldl (fun r i =>
    r + (if bit map ((if a.getLsbD i then 1 else 0) + (if b.getLsbD i then 2 else 0) + (if c.getLsbD i then 4 else 0)) then 2 ^ i else 0)) 0)
/-- A copy (R238). -/
def resMov (_ : Nat) (_ : Bool) (a _b _c : DWord) : DWord := a

/-! ### Meanings -/

/-- add (R230). -/
def execAdd (o : Ops) (s : State) : Host.Outcome State Fault Refusal := runInt (.add o) 0x040 o resAdd s
/-- sub (R230). -/
def execSub (o : Ops) (s : State) : Host.Outcome State Fault Refusal := runInt (.sub o) 0x042 o resSub s

/-- addc and subb: a sum and a carry, both written (R230). -/
def laneCarry (opc : Nat) (o : Ops) (f : Nat → Bool → DWord → DWord → Bool → DWord × Bool) : LaneOp := fun e t g =>
  let w := widths opc o
  match operandHalt t g o w 0 0 0 with
  | some h => .error h
  | none =>
    let (x, c) := f (opBits o) (opSigned o) (rdN e o t g o.a w.a (opSigned o)) (rdN e o t g o.b w.b (opSigned o)) (rdP o t g o.c)
    let (t1, g1) := wrN t g o.d w.d x
    .ok (wrP t1 g1 o.c c)

/-- addc (R230). -/
def execAddc (o : Ops) (s : State) : Host.Outcome State Fault Refusal :=
  runLane (.addc o) 0x041 o (laneCarry 0x041 o (fun n _ a b c => (wrapInt n (a.toNat + b.toNat + (if c then 1 else 0)), carryOut n a b c))) s
/-- subb (R230). -/
def execSubb (o : Ops) (s : State) : Host.Outcome State Fault Refusal :=
  runLane (.subb o) 0x043 o (laneCarry 0x043 o (fun n _ a b c => (wrapInt n ((a.toNat : Int) - b.toNat - (if c then 1 else 0)), borrowOut n a b c))) s

/-- mul (R231). -/
def execMul (o : Ops) (s : State) : Host.Outcome State Fault Refusal := runInt (.mul o) 0x044 o resMul s
/-- mulh (R231). -/
def execMulh (o : Ops) (s : State) : Host.Outcome State Fault Refusal := runInt (.mulh o) 0x045 o resMulh s
/-- mad (R231). -/
def execMad (o : Ops) (s : State) : Host.Outcome State Fault Refusal := runInt (.mad o) 0x046 o resMad s
/-- madw (R231). -/
def execMadw (o : Ops) (s : State) : Host.Outcome State Fault Refusal := runInt (.madw o) 0x047 o resMadw s
/-- min (R233). -/
def execMin (o : Ops) (s : State) : Host.Outcome State Fault Refusal := runInt (.min o) 0x048 o resMin s
/-- max (R233). -/
def execMax (o : Ops) (s : State) : Host.Outcome State Fault Refusal := runInt (.max o) 0x049 o resMax s
/-- abs (R233). -/
def execAbs (o : Ops) (s : State) : Host.Outcome State Fault Refusal := runInt (.abs o) 0x04A o resAbs s
/-- neg (R233). -/
def execNeg (o : Ops) (s : State) : Host.Outcome State Fault Refusal := runInt (.neg o) 0x04B o resNeg s
/-- clamp (R233). -/
def execClamp (o : Ops) (s : State) : Host.Outcome State Fault Refusal := runInt (.clamp o) 0x04C o resClamp s
/-- idiv (R232): long-latency. -/
def execIdiv (o : Ops) (s : State) : Host.Outcome State Fault Refusal :=
  runLong (.idiv o) 0x04D o (srcRes 0x04D o (opSigned o) (resIdiv (opBits o) (opSigned o))) s
/-- irem (R232): long-latency. -/
def execIrem (o : Ops) (s : State) : Host.Outcome State Fault Refusal :=
  runLong (.irem o) 0x04E o (srcRes 0x04E o (opSigned o) (resIrem (opBits o) (opSigned o))) s
/-- shl (R234). -/
def execShl (o : Ops) (s : State) : Host.Outcome State Fault Refusal := runInt (.shl o) 0x080 o resShl s
/-- shr (R234). -/
def execShr (o : Ops) (s : State) : Host.Outcome State Fault Refusal := runInt (.shr o) 0x081 o resShr s
/-- sar (R234). -/
def execSar (o : Ops) (s : State) : Host.Outcome State Fault Refusal := runInt (.sar o) 0x082 o resSar s
/-- rotl (R234). -/
def execRotl (o : Ops) (s : State) : Host.Outcome State Fault Refusal := runInt (.rotl o) 0x083 o resRotl s
/-- fsh (R234). -/
def execFsh (o : Ops) (s : State) : Host.Outcome State Fault Refusal := runInt (.fsh o) 0x084 o resFsh s
/-- bfx (R235). -/
def execBfx (o : Ops) (s : State) : Host.Outcome State Fault Refusal := runInt (.bfx o) 0x085 o resBfx s
/-- bfi (R235). -/
def execBfi (o : Ops) (s : State) : Host.Outcome State Fault Refusal := runInt (.bfi o) 0x086 o resBfi s
/-- popc (R236). -/
def execPopc (o : Ops) (s : State) : Host.Outcome State Fault Refusal := runInt (.popc o) 0x087 o resPopc s
/-- clz (R236). -/
def execClz (o : Ops) (s : State) : Host.Outcome State Fault Refusal := runInt (.clz o) 0x088 o resClz s
/-- ctz (R236). -/
def execCtz (o : Ops) (s : State) : Host.Outcome State Fault Refusal := runInt (.ctz o) 0x089 o resCtz s
/-- brev (R236). -/
def execBrev (o : Ops) (s : State) : Host.Outcome State Fault Refusal := runInt (.brev o) 0x08A o resBrev s
/-- and (R237). -/
def execAnd (o : Ops) (s : State) : Host.Outcome State Fault Refusal := runInt (.and o) 0x090 o resAnd s
/-- or (R237). -/
def execOr (o : Ops) (s : State) : Host.Outcome State Fault Refusal := runInt (.or o) 0x091 o resOr s
/-- xor (R237). -/
def execXor (o : Ops) (s : State) : Host.Outcome State Fault Refusal := runInt (.xor o) 0x092 o resXor s
/-- not (R237). -/
def execNot (o : Ops) (s : State) : Host.Outcome State Fault Refusal := runInt (.not o) 0x093 o resNot s
/-- andn (R237). -/
def execAndn (o : Ops) (s : State) : Host.Outcome State Fault Refusal := runInt (.andn o) 0x094 o resAndn s
/-- bool3 (R237). -/
def execBool3 (o : Ops) (s : State) : Host.Outcome State Fault Refusal :=
  runInt (.bool3 o) 0x095 o (resBool3 (bits o.imm.toNat 0 8)) s
/-- mov (R238). -/
def execMov (o : Ops) (s : State) : Host.Outcome State Fault Refusal := runInt (.mov o) 0x0C0 o resMov s
/-- movi (R238). -/
def execMovi (o : Ops) (s : State) : Host.Outcome State Fault Refusal := runInt (.movi o) 0x0C1 o resMov s

/-- csel: va where pc is true, vb otherwise (R239). -/
def execCsel (o : Ops) (s : State) : Host.Outcome State Fault Refusal :=
  runLane (.csel o) 0x0C2 o (fun e t g => laneN 0x0C2 o (opSigned o) (fun a b _ => if rdP o t g o.c then a else b) e t g) s

/-- cmp on one thread: the operand checks and the predicate (R240). -/
def laneCmp (o : Ops) : LaneOp := fun e t g =>
  let w := widths 0x0C3 o
  match operandHalt t g o w 0 0 0 with
  | some h => .error h
  | none => .ok (wrP t g o.d (cmpCC (o.mod.extractLsb' 4 4).toNat (opBits o) (opSigned o)
      (rdN e o t g o.a w.a (opSigned o)) (rdN e o t g o.b w.b (opSigned o))))

/-- cmp (R240). -/
def execCmp (o : Ops) (s : State) : Host.Outcome State Fault Refusal := runLane (.cmp o) 0x0C3 o (laneCmp o) s

/-- setv: 1 where pa is true, 0 otherwise (R239). -/
def execSetv (o : Ops) (s : State) : Host.Outcome State Fault Refusal :=
  runLane (.setv o) 0x0C4 o (fun e t g => laneN 0x0C4 o false (fun _ _ _ => if rdP o t g o.a then 1 else 0) e t g) s

/-- The effective address of `[base + index*scale + disp]` for a space (R105): modulo 2^64, or its low 32 bits. -/
def effAddr (e : Env) (o : Ops) (t : Thread) (g : Group) (disp : Word) : DWord :=
  let sp := (o.mod.extractLsb' 6 2).toNat
  let base : Int := if sp < 2 then (rd64 e o t g o.a false).toNat else (rd32 e o t g o.a).toNat
  let index : Int := match o.b with
    | .v n => (t.v n.val).val.toInt * (2 ^ (o.mod.extractLsb' 8 3).toNat : Int)
    | _ => 0
  wrapInt (if sp < 2 then 64 else 32) (base + index + disp.toInt)

/-- lea: the effective address, with no check (R241). -/
def execLea (o : Ops) (s : State) : Host.Outcome State Fault Refusal :=
  runLane (.lea o) 0x0C5 o (fun e t g =>
    let w := widths 0x0C5 o
    match operandHalt t g o w 0 0 0 with
    | some h => .error h
    | none => .ok (wrN t g o.d w.d (effAddr e o t g o.imm))) s

/-! ### Predicates (R242) -/

/-- A predicate operation of two sources (R242). -/
def lanePred (o : Ops) (f : Bool → Bool → Bool) : LaneOp := fun _ t g =>
  match operandHalt t g o ⟨1, 1, 1, 1⟩ 0 0 0 with
  | some h => .error h
  | none => .ok (wrP t g o.d (f (rdP o t g o.a) (rdP o t g o.b)))

/-- pand (R242). -/
def execPand (o : Ops) (s : State) : Host.Outcome State Fault Refusal := runLane (.pand o) 0x0D0 o (lanePred o (fun a b => a && b)) s
/-- por (R242). -/
def execPor (o : Ops) (s : State) : Host.Outcome State Fault Refusal := runLane (.por o) 0x0D1 o (lanePred o (fun a b => a || b)) s
/-- pxor (R242). -/
def execPxor (o : Ops) (s : State) : Host.Outcome State Fault Refusal := runLane (.pxor o) 0x0D2 o (lanePred o (fun a b => a != b)) s
/-- pnot (R242). -/
def execPnot (o : Ops) (s : State) : Host.Outcome State Fault Refusal := runLane (.pnot o) 0x0D3 o (lanePred o (fun a _ => !a)) s
/-- pmov (R242). -/
def execPmov (o : Ops) (s : State) : Host.Outcome State Fault Refusal := runLane (.pmov o) 0x0D4 o (lanePred o (fun a _ => a)) s

end Sys2Proof.Machine
end

