-- ==== Sys2Proof/Machine/Replay.lean ====
section
/-! DEFINITION. The Chamois: replay windows, logged accesses and their homes, the log's packets, gates, and the store
hash (R377 to R385). -/

namespace Sys2Proof.Machine

/-! ### Sessions and homes (R377 to R380) -/

/-- The active session of a context. -/
def State.session? (s : State) (ctx : Nat) : Option Session := s.sessions.find? (fun x => x.ctx == ctx)

/-- Change the session of a context. -/
def State.onSession (s : State) (ctx : Nat) (f : Session → Session) : State :=
  { s with sessions := mapIf (fun x => x.ctx == ctx) f s.sessions }

/-- A `.bk` access touches one of the session's bank ranges (R377, R378). -/
def Session.bankHit (x : Session) (ea n : Nat) : Bool := x.bkr.any (fun r => decide (ea < r.1 + r.2) && decide (r.1 < ea + n))

/-- An access with these parts touches a replay window (R377). -/
def Session.windowed (x : Session) (space : Space) (ea n : Nat) (ps : List Part) : Bool :=
  match space with
  | .gm => ps.any (fun p => p.window)
  | .bk => x.bankHit ea n
  | _ => false

/-- The home of a word: stream kind, die stack, index (R274, R380). -/
def homeOf (addr : Nat) (uncached : Bool) : Nat × Nat × Nat :=
  if Config.bankBase ≤ addr && addr < Config.spBase then
    let off := addr - Config.bankBase
    (2, off / Config.bankDie, off % Config.bankDie / 128 % 256)
  else (if uncached then 1 else 0, addr / Config.hbmStack / 2 % 8, Config.homeIndex (addr / 128) % 64)

/-- The home of a part. -/
def Part.home (p : Part) : Nat × Nat × Nat := homeOf p.addr p.uncached

/-- A part of a thread's access to a replay window is logged (R379): an annotation on a UO page orders nothing and makes no access an acquire or
a release (R121). -/
def logsPart (op : AccOp) (ord : Ord) (space : Space) (p : Part) : Bool :=
  (space == .bk || p.window) &&
    match op with
    | .update .. => true
    | .load | .store _ => p.kind == .so || (ord != .none && p.kind != .uo)
    | _ => false

/-- The part is logged, or held at a gate (R379, R383). -/
def Access.gated (a : Access) (p : Part) : Bool := a.held && logsPart a.op a.ord a.space p

/-- The homes that log an access, each once: an access over two homes counts at each (R379, R380; log entry 101). -/
def Access.homes (a : Access) : List (Nat × Nat × Nat) := ((a.parts.filter a.gated).map Part.home).eraseDups

/-- The parts of an access that a home logs. -/
def Access.partsAt (a : Access) (h : Nat × Nat × Nat) : List Part := a.parts.filter (fun p => a.gated p && p.home == h)

/-- The group of an access as the log knows it. -/
def Access.who (a : Access) : LogGroup := (a.cl, a.co, a.gslot, a.grp)

/-- The group of a command as the log knows it. -/
def Cmd.who (m : Cmd) : LogGroup := (m.cl, m.co, m.gslot, m.grp)

/-- A stream of a session; an empty one where it has none. -/
def Session.stream (x : Session) (h : Nat × Nat × Nat) : Stream :=
  (x.streams.find? (fun t => t.kind == h.1 && t.die == h.2.1 && t.index == h.2.2)).getD { kind := h.1, die := h.2.1, index := h.2.2 }

/-- Put a stream into a list. -/
def putStream (t : Stream) : List Stream → List Stream
  | [] => [t]
  | y :: l => if y.kind == t.kind && y.die == t.die && y.index == t.index then t :: l else y :: putStream t l

/-- Put a stream into a session. -/
def Session.setStream (x : Session) (t : Stream) : Session := { x with streams := putStream t x.streams }

/-- The home of the hash stream (R380). -/
def hashHome : Nat × Nat × Nat := (3, 0, 0)

/-! ### Records and packets (R380, R381) -/

/-- The words of a record. -/
def LogRec.words : LogRec → List DWord
  | .run k c _ => [BitVec.ofNat 64 (k % 2 ^ 24 * 2 ^ 32 + c % 2 ^ 32)]
  | .hash k c sum _ => [BitVec.ofNat 64 (2 ^ 62 + k % 2 ^ 24 * 2 ^ 32 + c % 2 ^ 32), sum]

/-- The groups that produced a record. -/
def LogRec.groups : LogRec → List LogGroup
  | .run _ _ l => l
  | .hash _ _ _ l => l

/-- A pad, and the end of a session (R380). -/
def padWord : DWord := 0xC000000000000000
/-- The end-of-session mark. -/
def endWord : DWord := 0xC000000000000001

/-- The STREAM record of a stream. -/
def Stream.word (t : Stream) : DWord := BitVec.ofNat 64 (2 ^ 63 + t.kind % 4 * 2 ^ 14 + t.die % 8 * 2 ^ 11 + t.index % 2 ^ 11)

/-- Take records for one packet: at most 7 words, a hash with its sum together (R381). -/
def takeRecs : Nat → List LogRec → List LogRec × List LogRec
  | _, [] => ([], [])
  | room, r :: l =>
    if r.words.length ≤ room then (let (w, rest) := takeRecs (room - r.words.length) l; (r :: w, rest)) else ([], r :: l)

/-- The words that records take. -/
def recWords (l : List LogRec) : Nat := (l.map (fun r => r.words.length)).foldl (· + ·) 0

/-- A packet of a stream: its STREAM record, records, pads (R381). -/
def Stream.packet (t : Stream) (l : List LogRec) : List DWord := t.word :: l.flatMap LogRec.words ++ List.replicate (7 - recWords l) padWord

/-- The ring has room for a packet (R381). -/
def Session.room (x : Session) : Bool := decide (x.tail + 64 ≤ x.head + x.ringLen)

/-! ### Divergence (R385) -/

/-- The first divergence of a replay ends its hash compares; the Markhor log records where (R385). -/
def State.endCompares (s : State) (ctx : Nat) : State :=
  match s.session? ctx with
  | none => s
  | some x =>
    let s1 := s.onSession ctx (fun x => { x with compares := false })
    if x.compares && !x.record then
      (s1.onSession ctx (fun x => x.setStream { x.stream hashHome with at_ := [] })).emit (.log 2 (BitVec.toNat (x.stream hashHome).word) (x.stream hashHome).used)
    else s1

/-- A divergence of an event at a stream of a kind: class 20 to groups, those of them that still stand, and no further hash compares in the
session. -/
def State.diverge (s : State) (ctx event kind : Nat) (groups : List LogGroup) : State :=
  let s1 := s.endCompares ctx
  groups.foldl (fun st (cl, co, gs, born) =>
    if ((st.core cl co).group? gs).any (fun g => g.born == born) then st.postAsync cl co gs (0x140 + 4 * event + kind) else st) s1

/-- A gate stops following its stream: it admits everything from then on, and the Markhor log records where (R385). -/
def State.openGate (s : State) (ctx : Nat) (h : Nat × Nat × Nat) : State :=
  match s.session? ctx with
  | none => s
  | some x =>
    let t := x.stream h
    (s.onSession ctx (fun y => y.setStream { t with open_ := true, at_ := [] })).emit (.log 2 (BitVec.toNat t.word) t.used)

/-! ### The ring (R381) -/

/-- A write to a session's ring faults: the ring no longer lies below the partition's metadata region and carve-out (R353, R378, R385). -/
def State.ringFaults (s : State) (x : Session) (c : Context) : Bool := decide (s.ordinaryCap c.part < x.ring + x.ringLen)

/-- Write a packet of eight words to the ring of a context's session (R381). -/
def State.putPacket (s : State) (c : Context) (x : Session) (w : List DWord) (by_ : List LogGroup) : State :=
  (s.store (s.partBase c.part + x.ring + x.tail % x.ringLen) (w.flatMap (fun d => leBytes 8 d.toNat))).onSession x.ctx
    (fun y => { y with tail := y.tail + 64, drains := if y.record then y.drains ++ [by_] else y.drains })

/-- A recording writes a packet; one whose write faults is event 3, and recording stops (R381, R385). -/
def State.writePacket (s : State) (ctx : Nat) (t : Stream) (l : List LogRec) : State :=
  match s.session? ctx, s.ctx? ctx with
  | some x, some c =>
    let by_ := (l.flatMap LogRec.groups).eraseDups
    if s.ringFaults x c then (s.onSession ctx (fun y => { y with truncated := true })).diverge ctx 3 t.kind by_
    else s.putPacket c x (t.packet l) by_
  | _, _ => s

/-- A stream writes a packet when seven records wait, or at the session's end (R381). -/
def State.flushStream (s : State) (ctx : Nat) (h : Nat × Nat × Nat) (all : Bool) : State :=
  match s.session? ctx with
  | none => s
  | some x =>
    let t := x.stream h
    if t.pending.isEmpty || (!all && decide (recWords t.pending < 7)) then s
    else
      let (l, rest) := takeRecs 7 t.pending
      (s.onSession ctx (fun y => y.setStream { t with pending := rest })).writePacket ctx t l

/-- Count a logged access of a key in the run of its home's stream (R380). -/
def Stream.logKey (t : Stream) (key : Nat) (who : LogGroup) : Stream :=
  match t.run with
  | some (k, n) =>
    if k == key && decide (n < 2 ^ 32 - 1) then { t with run := some (k, n + 1), runBy := (t.runBy ++ [who]).eraseDups }
    else { t with run := some (key, 1), runBy := [who], pending := t.pending ++ [.run k n t.runBy] }
  | none => { t with run := some (key, 1), runBy := [who] }

/-- A home logs an access it has performed (R379 to R381). -/
def State.logAt (s : State) (ctx : Nat) (h : Nat × Nat × Nat) (key : Nat) (who : LogGroup) : State :=
  match s.session? ctx with
  | some x =>
    if x.record && !x.truncated then
      (s.onSession ctx (fun y => y.setStream ((y.stream h).logKey key who))).flushStream ctx h false
    else s
  | none => s

/-! ### Gates (R383) -/

/-- What a record of a stream's ring says to its gate. -/
inductive GateRec where
  | run (key count : Nat)
  | pad
  | ended
  | bad
deriving DecidableEq, Repr

/-- Read a record (R380). -/
def gateRec (w : Nat) : GateRec :=
  let ty := w / 2 ^ 62
  if ty == 0 then (if bits w 56 6 != 0 || bits w 0 32 == 0 then .bad else .run (bits w 32 24) (bits w 0 32))
  else if ty == 3 then (if bits w 8 54 != 0 then .bad else if bits w 0 8 == 0 then .pad else if bits w 0 8 == 1 then .ended else .bad)
  else .bad

/-- What a gate does with a key: admits it, holds it, or finds its log ended or malformed. -/
inductive GateAnswer where
  | letIn (t : Stream)
  | hold
  | ended
  | bad
deriving DecidableEq, Repr

/-- Follow a stream to a run and ask it for a key; `read` reads a ring position, `full` says that all packets are in the ring. -/
def gateAsk (read : Nat → Nat) (full : Bool) (key : Nat) : Nat → Stream → GateAnswer
  | 0, _ => .hold
  | fuel + 1, t =>
    match t.run with
    | some (k, n + 1) => if k == key then .letIn { t with run := some (k, n) } else .hold
    | _ =>
      match t.at_ with
      | [] => if full then .ended else .hold
      | p :: l =>
        match gateRec (read p) with
        | .run k n => gateAsk read full key fuel { t with run := some (k, n), at_ := l, used := t.used + 1 }
        | .pad => gateAsk read full key fuel { t with at_ := l, used := t.used + 1 }
        | .ended => .ended
        | .bad => .bad

/-- The word at a position of a session's ring. -/
def State.ringWord (s : State) (ctx : Nat) (pos : Nat) : Nat :=
  match s.session? ctx, s.ctx? ctx with
  | some x, some c => s.mem.readLe (s.partBase c.part + x.ring + pos % x.ringLen) 8
  | _, _ => 0

/-- A command that can go on: entered, no error met, not stalled. -/
def Cmd.going (m : Cmd) : Bool := m.entered && m.err.isNone && m.stall.isNone

/-- A pair command takes an entry in both cores (R13). -/
def Cmd.pair (c : Cmd) : Bool := match c.kind with | .mma .pair .. => true | _ => false

/-- Two commands of matrix queues share a queue: one core's, or those of the pair of a pair command (R13, R130, R185). -/
def Cmd.sameQueue (a b : Cmd) : Bool :=
  a.cl == b.cl && a.engine == .matrix && b.engine == .matrix && (a.co == b.co || ((a.pair || b.pair) && a.co / 2 == b.co / 2))

/-- The command is the first of its queue in the order of issue, and of its follower's where it is a pair command (R130, R185). -/
def State.atHead (s : State) (m : Cmd) : Bool :=
  m.engine != .matrix || !s.cmds.any (fun x => decide (x.id < m.id) && x.sameQueue m)

/-- Bytes of a bank operation's type (R287). -/
def bankSize (ty : Nat) : Nat := if ty == 0 || ty == 1 then 2 else 4

/-- The bank bytes that update k of a command changes: its address and its length (R165, R189). -/
def CmdKind.updated (k : Nat) : CmdKind → Option (Nat × Nat)
  | .bankop op ty _ y _ _ _ => some (y.toNat + (if op == .rsum then 0 else k * bankSize ty), bankSize ty)
  | .accStx _ true base _ _ _ rows => some ((base.toNat + 512 * rows.getD (k / 128) 0 + 4 * (k % 128)) % 2 ^ 64, 4)
  | _ => none

/-- The home of an update at a bank word, where it is logged (R379, R380). -/
def State.bankHome (s : State) (m : Cmd) (off n : Nat) : Option (Nat × Nat × Nat) :=
  match bkPart (s.ctxOf m.ctx) off n with
  | some p => if (s.session? m.ctx).any (fun x => x.windowed .bk off n [p]) then some (homeOf p.addr p.uncached) else none
  | none => none

/-- The commands of a context with an update that waits at a gate (R379, R383). -/
def State.cmdsHeld (s : State) (ctx : Nat) (h : Nat × Nat × Nat) : List Cmd :=
  s.cmds.filter (fun m => m.ctx == ctx && m.going && s.atHead m &&
    m.todo.any (fun r => (List.range' r.1 (r.2 - r.1)).any (fun k => (m.kind.updated k).any (fun (off, n) => s.bankHome m off n == some h))))

/-- The accesses of threads that wait at a gate. -/
def State.accsHeld (s : State) (ctx : Nat) (h : Nat × Nat × Nat) : List Access :=
  s.accs.filter (fun a => a.ctx == ctx && a.homes.contains h)

/-- Groups with an access held at a gate, and the groups of commands with an update held there. -/
def State.heldAt (s : State) (ctx : Nat) (h : Nat × Nat × Nat) : List LogGroup :=
  ((s.accsHeld ctx h).map Access.who ++ (s.cmdsHeld ctx h).map Cmd.who).eraseDups

/-- The stream of a packet's first record; none where it is no STREAM record (R380). -/
def packetHome (w : List DWord) : Option (Nat × Nat × Nat) :=
  let n := (w.headD 0).toNat
  if n / 2 ^ 62 == 2 then some (bits n 14 2, bits n 11 3, bits n 0 11) else none

/-- Every packet of a stream is in the ring. -/
def Session.allIn (x : Session) (h : Nat × Nat × Nat) : Bool := !x.packets.any (fun w => packetHome w == some h)

/-- Ask a replay gate for one logged access: the state after it, or none while it is held (R383, R385). -/
def State.gateTake (s : State) (ctx : Nat) (h : Nat × Nat × Nat) (key : Nat) (who : LogGroup) : Option State :=
  match s.session? ctx with
  | none => some s
  | some x =>
    if x.record then (if x.truncated || x.room then some s else none)
    else
      let t := x.stream h
      if t.open_ then some s
      else
        match gateAsk (s.ringWord ctx) (x.allIn h) key (t.at_.length + 1) t with
        | .letIn t' => some (s.onSession ctx (fun y => y.setStream t'))
        | .hold => none
        | .ended => some ((s.openGate ctx h).diverge ctx 1 h.1 [who])
        | .bad => some ((s.openGate ctx h).diverge ctx 2 h.1 (s.heldAt ctx h))

/-! ### The store hash (R382) -/

/-- One term of the chunk sum (R382). -/
def hashTerm (key m n0 a n : Nat) (x : BitVec 128) : DWord :=
  [BitVec.ofNat 64 m, BitVec.ofNat 64 n0, BitVec.ofNat 64 a, BitVec.ofNat 64 n, x.extractLsb' 0 64, x.extractLsb' 64 64].foldl
    (fun h w => (h.rotateLeft 23 ^^^ w) * 0x9E3779B97F4A7C15) (BitVec.ofNat 64 key)

/-- The engine address of a byte (R160). -/
def engineAddr (space : Space) (a : Nat) : Nat :=
  (match space with | .gm => 0 | .sp => 1 | .bk => 2 | .rg => 3) * 2 ^ 60 + a % 2 ^ 60

/-- Add one hashed write to a group's chunk; the write that fills a chunk makes a boundary (R382). -/
def Group.addHash (g : Group) (ck : Nat) (h : DWord) : Group :=
  if g.count + 1 = 2 ^ ck then { g with bounds := g.bounds ++ [(g.count + 1, g.sum + h)], sum := 0, count := 0 }
  else { g with sum := g.sum + h, count := g.count + 1 }

/-- The hashed writes at the head of a group's list that are known to be made enter its chunk sum, in the order in which they retired (R382). -/
def State.hashKnown (s : State) (cl co gs ck : Nat) : State :=
  match (s.core cl co).group? gs with
  | none => s
  | some g =>
    let known := g.unhashed.takeWhile (fun x => x.acc.isNone)
    let s1 := s.onGroup cl co gs (fun g => known.foldl (fun g x => g.addHash ck x.term) { g with unhashed := g.unhashed.drop known.length })
    known.foldl (fun st x => st.onThread cl co x.tid (fun u => { u with writes := u.writes + 1 })) s1

/-- A hashed write of a thread of a keyed group (R382); `acc` is an access that is to show whether it is one. -/
def State.hashWrite (s : State) (cl co gs tid : Nat) (x : Session) (space : Space) (ea n : Nat) (data : Nat) (acc : Option Nat) : State :=
  let c := s.core cl co
  match c.group? gs, c.thread? tid with
  | some g, some t =>
    (match g.key with
     | none => s
     | some key =>
       let h := hashTerm key t.stackNo t.writes (engineAddr space ea) n (BitVec.ofNat 128 data)
       (s.onGroup cl co gs (fun g => { g with unhashed := g.unhashed ++ [⟨acc, tid, h⟩] })).hashKnown cl co gs x.ck)
  | _, _ => s

/-- An update has been performed at its home: its hashed write is one, or, where nothing was written, none; a group whose threads have all gone may
make its last boundary (R382). -/
def State.hashSettled (s : State) (a : Access) (wrote : Bool) : State :=
  match (s.core a.cl a.co).group? a.gslot, s.session? a.ctx with
  | some g, some x =>
    if g.born != a.grp || !g.unhashed.any (fun y => y.acc == some a.id) then s
    else
      let l := if wrote then g.unhashed.map (fun y => if y.acc == some a.id then { y with acc := none } else y) else g.unhashed.filter (fun y => y.acc != some a.id)
      ((s.onGroup a.cl a.co a.gslot (fun g => { g with unhashed := l })).hashKnown a.cl a.co a.gslot x.ck).groupGone a.cl a.co a.gslot
  | _, _ => s

/-- The data that a write enters the hash with (R382). -/
def hashData : AccOp → Option Nat
  | .store l => some (leNat l)
  | .update op b c _ => some (if op == 9 then c.toNat else b.toNat)
  | _ => none

/-- Whether a write is made is known only at its home: of an update, which a poisoned word or a comparison may keep from writing (R272, R273). -/
def hashWaits (id : Nat) : AccOp → Option Nat
  | .update .. => some id
  | _ => none

end Sys2Proof.Machine
end

