-- ==== Sys2Proof/Machine/Memory.lean ====
section
/-! DEFINITION. Loads, stores, atomics, reductions, fences, the constant pool, and cache hints as threads issue them
(R105 to R116, R261 to R278). What an issued access does when it is performed stands in Access.lean. -/

namespace Sys2Proof.Machine

/-! ### Checks (R264, R265) -/

/-- The qualifier of classes 4 to 9 (R106). -/
def spaceFault (cls space acc : Nat) (a : Nat) : Halt := .trap (cls * 16 + space * 4 + acc) false (BitVec.ofNat 64 a)

/-- The kind of an access by its code. -/
def accKind (acc : Nat) : AccessKind := match acc with | 0 => .read | 1 => .write | 2 => .atomic | _ => .fetch

/-- A page fault as a stop of a thread (R264, R334): an invalid entry stalls in resolve mode. -/
def pageHalt (c : Context) (acc : Nat) (f : PageFault) : Halt :=
  match f with
  | .translation inv va => if inv && !c.trapMode then .page va (accKind acc) else spaceFault 4 0 acc va
  | .permission va => spaceFault 5 0 acc va
  | .protection va => spaceFault 6 0 acc va
  | .unreachable va => .away va

/-- The record accesses that R359 lets reach protected pages. -/
def recordAccess (c : Context) (t : Thread) (a n : Nat) : Bool :=
  c.prot && (match t.overlay with
    | .none => false
    | .save _ _ _ r | .restore _ _ _ r => decide (r.toNat ≤ a) && decide (a + n ≤ r.toNat + 576))

/-- What an access is found to be: its parts, or the thread and stack word of the register it names. -/
inductive Found where
  | parts (ps : List Part)
  | reg (cl co tid w : Nat)
deriving DecidableEq, Repr

/-- The checks of a `.rg` access (R113): zero fields, live thread and register number, own block, alignment. The access arrives as it
issues, so it is this thread's register that it reaches (R264; log entry 18). -/
def rgFound (s : State) (cl co : Nat) (t : Thread) (acc a bytes : Nat) : Except Halt Found :=
  let core := bits a 25 7
  let n := bits a 0 7
  let k := s.core cl core
  match (k.group? (bits a 19 6)).bind (fun g => k.threadAt g (bits a 14 5)) with
  | none => .error (spaceFault 4 3 acc a)
  | some x =>
    if bits a 7 7 != 0 || !x.live || decide (s.frameOf x < n + bytes / 4) then .error (spaceFault 4 3 acc a)
    else if t.level == .user && core != co then .error (spaceFault 5 3 acc a)
    else if bytes == 8 && n % 2 != 0 then .error (spaceFault 7 3 acc a)
    else .ok (.reg cl core x.tid (x.wb + n))

/-- The lowest byte of an access whose address is not canonical: its first, or the first on its second page (R265). -/
def firstNonCanonical (a n : Nat) : Option Nat :=
  let next := (a / 4096 + 1) * 4096
  if !canonicalVa a then some a else if next < a + n && !canonicalVa (next % 2 ^ 64) then some (next % 2 ^ 64) else none

/-- The checks of an access of a thread in the order of R264, from the space's format on. -/
def State.checkAccess (s : State) (cl co : Nat) (c : Context) (t : Thread) (space acc a bytes : Nat) : State × Except Halt Found :=
  match space with
  | 0 =>
    let atomic := acc == 2
    match firstNonCanonical a bytes with
    | some b => (s, .error (spaceFault 4 0 acc b))
    | none =>
      if atomic && a % bytes != 0 then (s, .error (spaceFault 7 0 acc a))
      else match s.checkGm cl co c ⟨acc, acc != 1, acc != 0, recordAccess c t a bytes && !atomic⟩ a bytes with
        | (s1, .error f) => (s1, .error (.seen s1 (pageHalt c acc f)))
        | (s1, .ok ps) => (s1, .ok (.parts (ps.flatMap Part.split)))
  | 1 =>
    (match s.spPart cl c.ctx a bytes with
     | none => (s, .error (spaceFault 8 1 acc a))
     | some p => if a % bytes != 0 then (s, .error (spaceFault 7 1 acc a)) else (s, .ok (.parts [p])))
  | 2 =>
    (match bkPart c a bytes with
     | none => (s, .error (spaceFault 9 2 acc a))
     | some p => if a % bytes != 0 then (s, .error (spaceFault 7 2 acc a)) else (s, .ok (.parts [p])))
  | _ => (s, rgFound s cl co t acc a bytes)

/-! ### Fences and the accesses they cover (R121, R122, R125, R129) -/

/-- A release fence is issued: it covers writes of its thread that loads have missed (R123). -/
def fenceMissed (f : Access) (l : List Access) : List Access :=
  l.map (fun b => { b with missed := b.missed.map (fun m =>
    if (m.tid == f.tid || f.also.contains m.tid) && f.covers { f with op := .load, space := m.space, ea := m.ea, width := m.width } then { m with scopes := m.scopes ++ [f.scope] } else m) })

/-- The accesses of some threads that must be performed before what the threads do next starts (R128, R129): non-UO ones, and UO
ones that a later release or full fence covers. -/
def forkAfter (accs : List Access) (tids : List Nat) : List Nat :=
  let mine := fun (a : Access) => tids.any (fun t => a.tid == t || a.also.contains t)
  let rec go : List Access → List Nat
    | [] => []
    | a :: l => if mine a && a.real && (a.nonUo || l.any (fun f => mine f && f.releases && f.covers a)) then a.id :: go l else go l
  go accs

/-! ### Requests (R80, R116, R263, R333) -/

/-- The requests that an access holds: a line operation for each line that the loads, or the stores, of its pass reach; one for any
other access, a register access or a prefetch; none for a fence (R50, R116, R263). -/
def requestKeys (pass id : Nat) (op : AccOp) (ps : List Part) : List (Nat × Nat × Nat) :=
  match op with
  | .load => ps.map (fun p => (0, pass, p.addr / 128))
  | .store _ => ps.map (fun p => (1, pass, p.addr / 128))
  | .update .. | .rgLoad .. | .rgStore .. | .prefetch => [(2, id, 0)]
  | .fence .. | .publish .. => []

/-- The requests of a core's accesses, each once. -/
def State.requestsOf (s : State) (cl co : Nat) : List (Nat × Nat × Nat) :=
  ((s.accs.filter (fun a => a.cl == cl && a.co == co)).flatMap (fun a => requestKeys (a.passes.headD 0) a.id a.op a.parts)).eraseDups

/-- Accesses of a core's threads that are stalled on a page: each holds its request (R333). -/
def State.stalledOf (s : State) (cl co : Nat) : Nat :=
  (s.stalls.filter (fun x => x.cl == cl && x.src == 0 && (match x.who with | some (k, _, _) => k == co | none => false))).length

/-- Requests outstanding of a core (R80, R116). -/
def State.outstanding (s : State) (c : Core) : Nat := (s.requestsOf c.cl c.co).length + s.stalledOf c.cl c.co + c.xfers.length

/-- The core has request entries for an access that its pass is about to make (R116). -/
def State.roomFor (s : State) (i : Issue) (op : AccOp) (ps : List Part) : Bool :=
  let held := s.requestsOf i.cl i.co
  let new := ((requestKeys (i.passes.headD 0) s.nextId op ps).filter (fun k => !held.contains k)).eraseDups
  decide (s.outstanding (s.core i.cl i.co) + new.length ≤ Config.requestCount)

/-! ### Issuing an access (R116, R120, R263, R266) -/

/-- ORD and SCOPE of the memory layout (R198, R266). -/
def ordOf (o : Ops) : Ord := match (o.mod.extractLsb' 4 2).toNat with | 0 => .none | 1 => .acq | 2 => .rel | _ => .full

/-- SCOPE of the memory layout. -/
def scopeOf (o : Ops) : Nat := (o.mod.extractLsb' 1 3).toNat

/-- SP of the memory layout. -/
def spOf (o : Ops) : Nat := (o.mod.extractLsb' 6 2).toNat

/-- A space by its code (R106). -/
def spaceOf (n : Nat) : Space := match n with | 0 => .gm | 1 => .sp | 2 => .bk | _ => .rg

/-- Add an access to those issued and not yet performed; one to a replay window is hashed as it retires, and logged or
gated at its home (R379, R382, R383). -/
def State.issueAccess (s : State) (i : Issue) (e : Env) (o : Ops) (t : Thread) (also : List Nat) (op : AccOp) (ea : DWord) (ps : List Part)
    (width : Nat) (long : Option Nat) (sext : Bool) : State :=
  let (id, s1) := s.freshId
  let spc := spaceOf (spOf o)
  let sess := (s.session? e.ctx).filter (fun x => x.windowed spc ea.toNat width ps)
  let grp := (s.core e.cl e.co).group? e.gs
  let key := (grp.bind (fun g => g.key)).getD 0xFFFFFF
  let a : Access :=
    { id := id, cl := e.cl, co := e.co, ctx := e.ctx, launch := t.launch, tid := t.tid, also := also, gslot := e.gs, passes := i.passes, tslot := t.tslot,
      op := op, space := spc, ea := ea, parts := ps, width := width, ord := ordOf o, scope := scopeOf o, long := long, sext := sext,
      held := sess.isSome && ps.any (logsPart op (ordOf o) spc), key := key, grp := (grp.map (fun g => g.born)).getD 0 }
  let s2 := { s1 with accs := if a.releases then fenceMissed a s1.accs ++ [a] else s1.accs ++ [a] }
  match sess, hashData op with
  | some x, some d => s2.hashWrite e.cl e.co e.gs t.tid x spc ea.toNat width d (hashWaits id op)
  | _, _ => s2

/-- A barrier arrival or a spawn of a thread, which counts once the accesses of the thread before it are performed (R93, R128, R219): a UO
access that no fence covers is not among them, as R125 has it: DESIGN CHOICE of the model for the spawn edge (log entry 77). -/
def State.publish (s : State) (i : Issue) (t : Thread) (what : Published) : State :=
  let after := forkAfter s.accs [t.tid]
  if after.isEmpty then s
  else
    let (id, s1) := s.freshId
    let ctx := ((s.launch? t.launch).map (fun l => l.ctx)).getD 0
    { s1 with accs := s1.accs ++ [{ id := id, cl := i.cl, co := i.co, ctx := ctx, launch := t.launch, tid := t.tid, gslot := i.gs, passes := i.passes,
                                    tslot := t.tslot, op := .publish what after, space := .gm, ea := 0, parts := [], width := 0 }] }

/-- The effective address of a load or store, with its index (R105, R261). -/
def memEa (e : Env) (o : Ops) (t : Thread) (g : Group) : Nat := (effAddr e o t g o.imm).toNat

/-- The audit entry of a privileged `.rg` access (R342). -/
def State.auditRg (s : State) (i : Issue) (t : Thread) (d : Nat) : State :=
  match t.level with
  | .user => s
  | .supervisor => s.audit i.cl i.co i.gs t d

/-- Check an access and find the parts of it, or its register; the pass stalls where no request entry is free for it (R116, R264, R331). -/
def State.found (s : State) (i : Issue) (e : Env) (t : Thread) (sp acc ea n : Nat) (op : AccOp) : Except Halt (State × Found) :=
  match s.checkAccess e.cl e.co (s.ctxOf e.ctx) t sp acc ea n with
  | (_, .error h) => .error h
  | (s1, .ok f) =>
    let room := match f with
      | .parts ps => s1.roomFor i op ps
      | .reg cl co tid w => s1.roomFor i (.rgLoad cl co tid w) []
    if room then .ok (s1, f) else .error (.seen s1 .room)

/-- ld for one thread (R267). -/
def serveLd (o : Ops) : Serve := fun i k s =>
  match s.slotThread i k with
  | none => .ok s
  | some (c, g, t) =>
    let e := Env.of s c g
    let w := widths 0x1C0 o
    match operandHalt t g o w 1 1 0 with
    | some h => .error h
    | none =>
      let ea := memEa e o t g
      let n := memBytes o.t.val
      match s.found i e t (spOf o) 0 ea n .load with
      | .error h => .error h
      | .ok (s1, f) =>
        let also := s.others i t (opUniform 0x1C0 o)
        let (id, s2) := s1.startLong i t also (longDests t o.d w.d) none
        let sx := o.t.val == 1 || o.t.val == 3
        .ok (match f with
          | .parts ps => s2.issueAccess i e o t also .load (BitVec.ofNat 64 ea) ps n (some id) sx
          | .reg cl co tid r => (s2.auditRg i t 12).issueAccess i e o t also (.rgLoad cl co tid r) (BitVec.ofNat 64 ea) [] n (some id) false)

/-- ld (R267): long-latency. -/
def execLd (o : Ops) (s : State) : Host.Outcome State Fault Refusal := runOp (.ld o) 0x1C0 o (serveLd o) s

/-- The data words of a store; the immediate of a 64-bit store extends by zeros (R19). -/
def storeWords (e : Env) (o : Ops) (t : Thread) (g : Group) (n : Nat) : List Word :=
  match o.c with
  | .imm => [o.imm, 0, 0, 0].take n
  | x => (List.range n).map (fun j => wordOf e t g x j)

/-- The displacement of an access: 0 where C or B holds the immediate (R196, R261). -/
def memDisp (o : Ops) : Word := if o.b == .imm || o.c == .imm then 0 else o.imm

/-- st for one thread (R268); a register store is a long operation that writes no word of the issuer (R114). -/
def serveSt (o : Ops) : Serve := fun i k s =>
  match s.slotThread i k with
  | none => .ok s
  | some (c, g, t) =>
    let e := Env.of s c g
    let w := widths 0x1C1 o
    match operandHalt t g o w 1 1 2 with
    | some h => .error h
    | none =>
      let ea := (effAddr e o t g (memDisp o)).toNat
      let n := memBytes o.t.val
      let words := storeWords e o t g (memWords o.t.val)
      let data := (words.flatMap (fun x => leBytes 4 x.toNat)).take n
      match s.found i e t (spOf o) 1 ea n (.store data) with
      | .error h => .error h
      | .ok (s1, f) =>
        let also := s.others i t (opUniform 0x1C1 o)
        .ok (match f with
          | .parts ps => s1.issueAccess i e o t also (.store data) (BitVec.ofNat 64 ea) ps n none false
          | .reg cl co tid r =>
            let (id, s2) := s1.startLong i t also [] none
            (s2.auditRg i t 13).issueAccess i e o t also (.rgStore cl co tid r (words.take (n / 4))) (BitVec.ofNat 64 ea) [] n (some id) false)

/-- st (R268). -/
def execSt (o : Ops) (s : State) : Host.Outcome State Fault Refusal := runOp (.st o) 0x1C1 o (serveSt o) s

/-! ### The constant pool (R115, R269) -/

/-- The words a load writes from its bytes, each poisoned by any byte of a poisoned memory word it is formed from (R58, R262). -/
def loadWords (sext : Bool) (width : Nat) (l : List (Nat × Byte × Bool)) : List PWord :=
  let at_ := fun k => (l.find? (fun x => x.1 == k)).map Prod.snd
  let byte := fun k => ((at_ k).map Prod.fst).getD 0
  let pois := fun k => ((at_ k).map Prod.snd).getD false
  if width < 4 then
    let n := leNat ((List.range width).map byte)
    let v := if sext && bit n (8 * width - 1) then n + (2 ^ 32 - 2 ^ (8 * width)) else n
    [⟨BitVec.ofNat 32 v, (List.range width).any pois⟩]
  else (List.range (width / 4)).map (fun j =>
    ⟨BitVec.ofNat 32 (leNat ((List.range 4).map (fun b => byte (4 * j + b)))), (List.range 4).any (fun b => pois (4 * j + b))⟩)

/-- ldk for one thread (R269): the pool is read at once, the words land as those of a load. It holds no request entry: R116 names none for the
constant pool, DESIGN CHOICE (log entry 39). A pool page that cannot be fetched from stops it as the fetch of an item does: DESIGN CHOICE (log
entry 92). -/
def serveLdk (o : Ops) : Serve := fun i k s =>
  match s.slotThread i k with
  | none => .ok s
  | some (c, g, t) =>
    let e := Env.of s c g
    let w := widths 0x1C2 o
    match operandHalt t g o w 0 0 0 with
    | some h => .error h
    | none =>
      let off := (rd32 e o t g o.a).toNat
      let n := memBytes o.t.val
      match s.codeOf t t.image, s.proc? t.image t.path.proc with
      | some img, some p =>
        if off % n != 0 || off + n > p.poolLen then .error (.trap 0x34 true 0)
        else
          match s.poolBytes img (p.pool + off) n with
          | .error (.fault cause r, a) => .error (if r && !(s.ctxOf e.ctx).trapMode then .page a .fetch else .trap cause false (BitVec.ofNat 64 a))
          | .error (.wait, a) => .error (.away a)
          | .ok l =>
          let words := loadWords (o.t.val == 1 || o.t.val == 3) n (l.zipIdx.map (fun (x, j) => (j, x.1, x.2)))
          .ok (s.startLong i t (s.others i t (opUniform 0x1C2 o)) (longDests t o.d w.d) (some words)).2
      | _, _ => .error (.trap 0x34 true 0)

/-- ldk (R269): long-latency. -/
def execLdk (o : Ops) (s : State) : Host.Outcome State Fault Refusal := runOp (.ldk o) 0x1C2 o (serveLdk o) s

/-- prf for one thread (R270): one request until the line arrives. Code pages are class 5, as R301 says of a prefetch; any other address
that a load could not read makes it do nothing (log entry 76). -/
def servePrf (o : Ops) : Serve := fun i k s =>
  match s.slotThread i k with
  | none => .ok s
  | some (c, g, t) =>
    let e := Env.of s c g
    match operandHalt t g o (widths 0x1C3 o) 1 1 0 with
    | some h => .error h
    | none =>
      let ea := memEa e o t g
      if canonicalVa ea && s.onCode e.ctx ea then .error (spaceFault 5 0 0 ea)
      else if !canonicalVa ea then .ok s
      else
        match s.checkGm e.cl e.co (s.ctxOf e.ctx) ⟨0, true, false, false⟩ ea 1 with
        | (s1, .error _) => .ok s1
        | (s1, .ok ps) =>
          if s1.roomFor i .prefetch ps then .ok (s1.issueAccess i e o t (s.others i t (opUniform 0x1C3 o)) .prefetch (BitVec.ofNat 64 ea) ps 1 none false)
          else .error (.seen s1 .room)

/-- prf (R270): changes no value. -/
def execPrf (o : Ops) (s : State) : Host.Outcome State Fault Refusal := runOp (.prf o) 0x1C3 o (servePrf o) s

/-! ### Atomics and reductions (R271 to R273) -/

/-- An operand of an atomic: 32 or 64 bits; an immediate of 64 bits extends by SX, or is a widened float (R19, R271). -/
def atomSrc (e : Env) (o : Ops) (t : Thread) (g : Group) (x : Spec) : DWord :=
  let sub := (o.mod.extractLsb' 8 4).toNat
  if o.t.val == 5 then
    (match x with
     | .imm => if decide (10 ≤ sub) && decide (sub ≤ 12) then BitVec.ofNat 64 (toF f64 .rne (decodeF f32 o.imm.toNat))
               else if o.mod.getLsbD 0 then o.imm.signExtend 64 else o.imm.zeroExtend 64
     | x => rd64 e o t g x false)
  else
    (match x with
     | .imm => if sub == 13 || sub == 14 then BitVec.ofNat 64 (o.imm.toNat % 2 ^ 16 * (2 ^ 16 + 1)) else o.imm.zeroExtend 64
     | x => (rd32 e o t g x).zeroExtend 64)

/-- The new value of a word of n bits, none for a cswap that finds another value (R271). -/
def atomNew (op n : Nat) (w b c : Nat) : Option Nat :=
  let f := if n == 64 then f64 else f32
  let wi := sgn n w
  let bi := sgn n b
  match op with
  | 0 => some ((w + b) % 2 ^ n)
  | 1 => some (if bi < wi then b else w)
  | 2 => some (if wi < bi then b else w)
  | 3 => some (min w b)
  | 4 => some (max w b)
  | 5 => some (w &&& b)
  | 6 => some (w ||| b)
  | 7 => some (w ^^^ b)
  | 8 => some b
  | 9 => if w == b then some c else none
  | 10 => some (toF f .rne (xadd .rne (decodeF f w) (decodeF f b)))
  | 11 => some (minCode f w b)
  | 12 => some (maxCode f w b)
  | _ =>
    let h := if op == 13 then f16 else bf16
    let half := fun j => toF h .rne (xadd .rne (decodeF h (w / 2 ^ (16 * j) % 2 ^ 16)) (decodeF h (b / 2 ^ (16 * j) % 2 ^ 16)))
    some (half 0 + 2 ^ 16 * half 1)

/-- atom or red for one thread: the checks of R264, then the update on its way to its home (R272, R273). -/
def serveAtom (opc : Nat) (o : Ops) : Serve := fun i k s =>
  match s.slotThread i k with
  | none => .ok s
  | some (c, g, t) =>
    let e := Env.of s c g
    let w := widths opc o
    match operandHalt t g o w 1 2 2 with
    | some h => .error h
    | none =>
      let disp := memDisp o
      let sp := spOf o
      let base : Int := if sp < 2 then (rd64 e o t g o.a false).toNat else (rd32 e o t g o.a).toNat
      let ea := (wrapInt (if sp < 2 then 64 else 32) (base + disp.toInt)).toNat
      let n := memBytes o.t.val
      let op : AccOp := .update (o.mod.extractLsb' 8 4).toNat (atomSrc e o t g o.b) (atomSrc e o t g o.c) (opc == 0x1C5)
      match s.found i e t sp 2 ea n op with
      | .error h => .error h
      | .ok (s1, .parts ps) =>
        let also := s.others i t (opUniform opc o)
        let dests := if opc == 0x1C4 then longDests t o.d w.d else []
        if dests.isEmpty then .ok (s1.issueAccess i e o t also op (BitVec.ofNat 64 ea) ps n none false)
        else
          let (id, s2) := s1.startLong i t also dests none
          .ok (s2.issueAccess i e o t also op (BitVec.ofNat 64 ea) ps n (some id) false)
      | .ok (s1, .reg ..) => .ok s1

/-- atom (R272): long-latency when it writes a register. -/
def execAtom (o : Ops) (s : State) : Host.Outcome State Fault Refusal := runOp (.atom o) 0x1C4 o (serveAtom 0x1C4 o) s

/-- red (R273): not long-latency. -/
def execRed (o : Ops) (s : State) : Host.Outcome State Fault Refusal := runOp (.red o) 0x1C5 o (serveAtom 0x1C5 o) s

/-! ### Fences and cache control (R276 to R278) -/

/-- Add a fence of a thread, or of every thread of a front, to the accesses it orders. -/
def State.issueFence (s : State) (i : Issue) (e : Env) (o : Ops) (t : Thread) (also : List Nat) (range : Option (Space × Nat × Nat)) : State :=
  let op : AccOp := match range with
    | some (spc, lo, hi) => .fence (some spc) lo hi
    | none => .fence none 0 0
  s.issueAccess i e o t also op 0 [] 0 none false

/-- The range of a fence: `.sp` disregards the generation (R125). -/
def fenceRange (sp base len : Nat) : Nat × Nat :=
  let b := if sp == 1 then base - bits base 34 6 * 2 ^ 34 else base
  (b, min (b + len) (2 ^ 64))

/-- fence.r for one thread: a poisoned base or len widens it to every byte and logs a latent error (R276). -/
def serveFenceR (o : Ops) : Serve := fun i k s =>
  match s.slotThread i k with
  | none => .ok s
  | some (c, g, t) =>
    let e := Env.of s c g
    let w := widths 0x1C8 o
    let also := s.others i t (opUniform 0x1C8 o)
    let poison := match poisonOf t g o.a w.a 1 with
      | some x => some x
      | none => poisonOf t g o.b w.b 0
    match poison with
    | some x => .ok ((s.logLatent e.cl e.co e.ctx e.gs k x 0 t.path.encode).issueFence i e o t also none)
    | none =>
      let base := if spOf o < 2 then (rd64 e o t g o.a false).toNat else (rd32 e o t g o.a).toNat
      let (lo, hi) := fenceRange (spOf o) base (rd64 e o t g o.b false).toNat
      .ok (s.issueFence i e o t also (some (spaceOf (spOf o), lo, hi)))

/-- fence.r (R276). -/
def execFenceR (o : Ops) (s : State) : Host.Outcome State Fault Refusal := runOp (.fenceR o) 0x1C8 o (serveFenceR o) s

/-- fence (R277): every byte of every space. -/
def execFence (o : Ops) (s : State) : Host.Outcome State Fault Refusal :=
  runOp (.fence o) 0x1C9 o (fun i k s =>
    match s.slotThread i k with
    | none => .ok s
    | some (c, g, t) => .ok (s.issueFence i (Env.of s c g) o t (s.others i t (opUniform 0x1C9 o)) none)) s

/-- cctl (R278): no value changes; a poisoned operand logs a latent error. -/
def execCctl (o : Ops) (s : State) : Host.Outcome State Fault Refusal :=
  runOp (.cctl o) 0x1CA o (fun i k s =>
    match s.slotThread i k with
    | none => .ok s
    | some (c, g, t) =>
      let e := Env.of s c g
      match (match poisonOf t g o.a 2 1 with | some x => some x | none => poisonOf t g o.b 2 0) with
      | some x => .ok (s.logLatent e.cl e.co e.ctx e.gs k x 0 t.path.encode)
      | none => .ok s) s

end Sys2Proof.Machine
end

