-- ==== Sys2Proof/Machine/Control.lean ====
section
/-! DEFINITION. Clause-level controls, barriers, spawn, traps and the system instructions (R210 to R227). -/

namespace Sys2Proof.Machine

/-! ### Clause-level control (R214 to R218) -/

/-- The IMM field as a number. -/
def opImm (o : Ops) : Nat := o.imm.toNat

/-- nop (R218): no effect. -/
def execNop (o : Ops) (s : State) : Host.Outcome State Fault Refusal := runLane (.nop o) 0x000 o (fun _ t g => .ok (t, g)) s

/-- exit k (R214, R39): the thread leaves k exit scopes. -/
def execExit (o : Ops) (s : State) : Host.Outcome State Fault Refusal :=
  runLane (.exit o) 0x001 o (fun _ t g => .ok ({ t with act := .move (.exit (opImm o % 16)) }, g)) s

/-- next k (R214, R40): the current iteration of the k-th enclosing loop ends. -/
def execNext (o : Ops) (s : State) : Host.Outcome State Fault Refusal :=
  runLane (.next o) 0x002 o (fun _ t g => .ok ({ t with act := .move (.next (opImm o % 16)) }, g)) s

/-- ret (R215): a return is due; RETURN makes it. -/
def execRet (o : Ops) (s : State) : Host.Outcome State Fault Refusal :=
  runLane (.ret o) 0x003 o (fun _ t g => .ok ({ t with act := .ret }, g)) s

/-- quit (R216). -/
def execQuit (o : Ops) (s : State) : Host.Outcome State Fault Refusal :=
  runOp (.quit o) 0x004 o (fun i k s =>
    match s.slotThread i k with
    | none => .ok s
    | some (_, _, t) =>
      let s1 := if t.frame.isSome then s.audit i.cl i.co i.gs t 15 else s
      .ok (s1.endThread i.cl i.co t.tid)) s

/-- The slots of an issue whose guard is true: the active threads of its pass (R46), with those of a sharing front. -/
def activeSlots (o : Ops) (s : State) (i : Issue) : List Nat :=
  i.peers ++ i.done ++ i.threads.filter (fun k => match s.slotThread i k with | some (_, _, t) => (guardVal o t).val | none => false)

/-- The wait set of a yield (R67): the unended threads of the group that are neither demoted nor active in the pass. -/
def yieldSet (c : Core) (g : Group) (active : List Nat) : List Nat :=
  (g.members.filter (fun m => !active.contains m.1 && (match c.thread? m.2 with | some x => x.live && !x.demoted | none => false))).map Prod.fst

/-- yield (R217, R67): the thread is demoted until its wait set is empty. Members that stood in a blocked front already as the pass began
have not joined one since. -/
def execYield (o : Ops) (s : State) : Host.Outcome State Fault Refusal :=
  let active := match s.cur with | some i => activeSlots o s i | none => []
  let old := match s.cur with | some i => i.blocked | none => []
  runOp (.yield o) 0x005 o (fun i k s =>
    match s.slotThread i k with
    | none => .ok s
    | some (c, g, t) =>
      let w := yieldSet c g active
      .ok (s.onThread i.cl i.co t.tid (fun x => { x with demoted := !w.isEmpty, waitSet := w, waitOld := w.filter old.contains }))) s

/-! ### Barriers (R88, R89, R219) -/

/-- The class-3 cases of a barrier but for a second arrival (R88). -/
def barBad (l : Launch) (t : Thread) (lev : Nat) : Bool :=
  decide (l.levels.length ≤ lev) || t.detached ||
    (decide (l.blockLevel < lev) && !(match l.levels[lev]? with | some d => d.gang | none => false))

/-- The pending phase of a thread at a level. -/
def pendingAt (t : Thread) (lev : Nat) : Option Nat := (t.pending.find? (fun x => x.1 == lev)).map Prod.snd

/-- Arrive: the thread's pending phase, one more arrival, and perhaps the phase's completion, once the thread's accesses before it are
performed (R88, R219). -/
def State.arrive (s : State) (i : Issue) (t : Thread) (l : Launch) (lev : Nat) : State :=
  let u := l.unitOf lev t.linear
  let b := s.barrier i.cl i.co l lev u
  let s1 := s.onThread i.cl i.co t.tid (fun x => { x with pending := x.pending ++ [(lev, b.phase)] })
  ((s1.publish i t (.arrival l.id lev u)).setBarrier i.cl i.co l { b with arrived := b.arrived + 1 }).barrierCheck i.cl i.co l.id lev u

/-- The pending phase of a thread has completed, or it has none (R88). -/
def State.phaseDone (s : State) (cl co : Nat) (t : Thread) (lev : Nat) : Bool :=
  match pendingAt t lev, s.launch? t.launch with
  | some ph, some l => decide (ph < (s.barrier cl co l lev (l.unitOf lev t.linear)).phase)
  | _, _ => true

/-- A barrier for one thread: its faults, and its arrival. -/
def serveBar (arrive : Bool) (lev : Nat) : Serve := fun i k s =>
  match s.slotThread i k with
  | none => .ok s
  | some (_, _, t) =>
    match s.launch? t.launch with
    | none => .ok s
    | some l =>
      if barBad l t lev || (arrive && (pendingAt t lev).isSome) then .error (.trap 0x38 true 0)
      else if arrive then .ok (s.arrive i t l lev) else .ok s

/-- A completed wait clears the pending phases of the threads that executed it (R88). -/
def State.clearPending (s : State) (cl co gs : Nat) (lev : Nat) (who : List Nat) : State :=
  let c := s.core cl co
  match c.group? gs with
  | none => s
  | some g =>
    who.foldl (fun st k =>
      match g.tidAt k with
      | some t => st.onThread cl co t (fun x => { x with pending := x.pending.filter (fun p => p.1 != lev) })
      | none => st) s

/-- The wait of a barrier's pass: over at once when every phase has completed, else the front is blocked (R63, R219). -/
def barWaits (lev : Nat) (r : Host.Outcome State Fault Refusal) : Host.Outcome State Fault Refusal :=
  match r with
  | .next s =>
    (match s.cur with
     | none => .next s
     | some i =>
       let who := i.done
       let ready := who.all (fun k => match s.slotThread i k with | some (_, _, t) => s.phaseDone i.cl i.co t lev | none => true)
       if ready then .next (s.clearPending i.cl i.co i.gs lev who) else .next { s with cur := some { i with wait := some (.bar lev who) } })
  | r => r

/-- bar.arrive (R88). -/
def execBarArrive (o : Ops) (s : State) : Host.Outcome State Fault Refusal :=
  runOp (.barArrive o) 0x008 o (serveBar true (opImm o % 8)) s
/-- bar.wait (R88). -/
def execBarWait (o : Ops) (s : State) : Host.Outcome State Fault Refusal :=
  barWaits (opImm o % 8) (runOp (.barWait o) 0x009 o (serveBar false (opImm o % 8)) s)
/-- bar.sync (R88): an arrival, then the wait. -/
def execBarSync (o : Ops) (s : State) : Host.Outcome State Fault Refusal :=
  barWaits (opImm o % 8) (runOp (.barSync o) 0x00A o (serveBar true (opImm o % 8)) s)

/-! ### Spawn (R93 to R97, R220) -/

/-- The stack region of a stack number: sptr and slim (R75). -/
def stackRegion (l : Launch) (m : Nat) : DWord × DWord :=
  (BitVec.ofNat 64 (l.a.toNat + m * l.s), BitVec.ofNat 64 (l.a.toNat + (m + 1) * l.s - 32 * l.td))

/-- lidx0 to lidx7 of a child (R97): 0xFFFF below the block, the block's values at and above it. -/
def childLidx (l : Launch) (block : Nat) : List Nat :=
  (l.lidxOf (block * l.blockSize)).zipIdx.map (fun (x, i) => if i < l.blockLevel then 0xFFFF else x)

/-- A thread at the start of a procedure: window base 0, zeroed words, the root to enter (R70, R92). -/
def newThread (l : Launch) (tid block m proc : Nat) (words : List Word) : Thread :=
  let (sp, sl) := stackRegion l m
  { tid := tid, launch := l.id, block := block, stackNo := m, sptr := sp, slim := sl, p := l.p, td := l.td, image := l.image,
    stk := words.zipIdx.foldl (fun k (w, i) => assocSet ⟨0, false⟩ k i ⟨w, false⟩) [], path := ⟨proc, [], 0⟩ }

/-- A spawned child (R93, R97). -/
def childThread (l : Launch) (tid block child proc : Nat) (arg : DWord) : Thread :=
  { newThread l tid block (l.threads + child) proc [arg.extractLsb' 0 32, arg.extractLsb' 32 32, BitVec.ofNat 32 child] with
    detached := true, lidx := childLidx l block }

/-- Free thread slots of a core (R12). -/
def Core.freeSlots (c : Core) : Nat := Config.threadSlots - c.threads.length

/-- Put a child into a free slot of a core; it enters its procedure and is filed (R90, R94). -/
def State.placeChild (s : State) (cl co : Nat) (l : Launch) (child proc : Nat) (arg : DWord) : State :=
  let (id, s1) := s.freshId
  s1.onCore cl co (fun c => { c with threads := c.threads ++ [childThread l id ((c.block.map (fun b => b.index)).getD 0) child proc arg] })

/-- HEAD and TAIL of a launch's ring as a cluster keeps them (R95). -/
def Cluster.ring (c : Cluster) (launch : Nat) : Nat × Nat :=
  ((c.rings.find? (fun r => r.1 == launch)).map (fun r => r.2)).getD (0, 0)

/-- Set HEAD and TAIL of a launch's ring. -/
def Cluster.setRing (c : Cluster) (launch head tail : Nat) : Cluster :=
  { c with rings := (c.rings.filter (fun r => r.1 != launch)) ++ [(launch, head, tail)] }

/-- The address of ring record n of a cluster (R95). -/
def ringRecord (l : Launch) (cl n : Nat) : Nat := l.sra.toNat + 0x41000 * cl + 0x1000 + 64 * (n % 4096)

/-- The 64 bytes of a ring record (R95). -/
def ringBytes (child proc : Nat) (arg : DWord) : List Byte :=
  leBytes 64 (arg.toNat * 2 ^ 128 + child % 2 ^ 32 * 2 ^ 96 + proc % 2 ^ 16 * 2 ^ 80)

/-- Write the records of children from a number on (R94, R95). -/
def ringWrite (cl co : Nat) (c : Context) (l : Launch) (proc : Nat) (arg : DWord) : List (Nat × Nat) → State → State × Option PageFault
  | [], s => (s, none)
  | (child, pos) :: rest, s =>
    match s.gmWrite cl co c c.prot (ringRecord l cl pos) (ringBytes child proc arg) with
    | (s1, .error f) => (s1, some f)
    | (s1, .ok _) => ringWrite cl co c l proc arg rest s1

/-- Another pass has stalled in the middle of its spawn, so that the numbers that follow are its own (R93, R94): its thread still rests at
the spawn, or runs a handler there. -/
def State.spawnHeld (s : State) (l : Launch) (cl co gs : Nat) (front : List Nat) : Bool :=
  match l.spawner with
  | none => false
  | some (a, b, g, k) =>
    let c := s.core a b
    let stands := match (c.group? g).bind (fun x => c.threadAt x k) with | some t => t.launch == l.id && t.live | none => false
    stands && !(a == cl && b == co && g == gs && front.contains k)

/-- Create n children: first into free slots, the rest into the ring, together (R94, R95); a ring or slots without room
stall, a failed record write stops the thread. -/
def State.createChildren (s : State) (cl co : Nat) (l : Launch) (proc n : Nat) (arg : DWord) : Except Halt State :=
  let first := l.nextChild
  let slots := min n (s.core cl co).freeSlots
  let rest := n - slots
  let (head, tail) := (s.cluster cl).ring l.id
  let room := if l.sra == 0 then 0 else 4096 - (tail + 2 ^ 32 - head) % 2 ^ 32
  if rest > room then .error (.ring n)
  else
    let recs := (List.range rest).map (fun i => (first + slots + i, (tail + i) % 2 ^ 32))
    let c := s.ctxOf l.ctx
    match ringWrite cl co c l proc arg recs s with
    | (_, some (.unreachable va)) => .error (.away va)
    | (s1, some f) => .error (.seen s1 (pageHalt c 1 f))
    | (s1, none) =>
      let s2 := if rest = 0 then s1 else s1.setCluster ((s1.cluster cl).setRing l.id head ((tail + rest) % 2 ^ 32))
      let s3 := (List.range slots).foldl (fun st i => st.placeChild cl co l (first + i) proc arg) s2
      .ok (s3.onLaunch l.id (fun x => { x with nextChild := first + n }))

/-- spawn for one thread (R93, R220): the destination is written before the argument is read. -/
def serveSpawn (o : Ops) : Serve := fun i k s =>
  match s.slotThread i k with
  | none => .ok s
  | some (c, g, t) =>
    let e := Env.of s c g
    match operandHalt t g o (widths 0x00C o) 0 0 0 with
    | some h => .error h
    | none =>
      match s.launch? t.launch with
      | none => .ok s
      | some l =>
        let n := (rd32 e o t g o.a).toNat
        match t.overlay with
        | .save .. => .error (.trap 0xD8 true 0)
        | .restore .. => .error (.trap 0xDC true 0)
        | .none =>
          if n > 65536 then .error (.trap 0xD0 true 0)
          else if l.nextChild + n > l.m - l.threads then .error (.trap 0xD4 true 0)
          else
            let wr := fun (x : Thread) => (wrWord x g o.d 0 (BitVec.ofNat 32 l.nextChild)).1
            if s.spawnHeld l i.cl i.co i.gs (i.front ++ i.peers) then .error (.ring n)
            else
              match s.createChildren i.cl i.co l (opImm o % 2 ^ 16) n (rd64 e o (wr t) g o.b false) with
              | .error h => .error h
              | .ok s1 => .ok ((if n = 0 then s1 else s1.publish i t (.children l.id l.nextChild n)).onThread i.cl i.co t.tid wr)

/-- spawn (R220). -/
def execSpawn (o : Ops) (s : State) : Host.Outcome State Fault Refusal := runOp (.spawn o) 0x00C o (serveSpawn o) s

/-! ### Traps (R222 to R224) -/

/-- trap n (R222): class 0, detail n. -/
def execTrap (o : Ops) (s : State) : Host.Outcome State Fault Refusal :=
  runLane (.trap o) 0x010 o (fun _ _ _ => .error (.trap (opImm o % 16) false 0)) s

/-- tret a (R224): class 2 where the trap frame is not valid. -/
def execTret (o : Ops) (s : State) : Host.Outcome State Fault Refusal :=
  runOp (.tret o) 0x011 o (fun i k s =>
    match s.slotThread i k with
    | none => .ok s
    | some (_, _, t) =>
      match t.frame with
      | none => .error (.trap 0x20 true 0)
      | some fr =>
        let d := (match fr.level with | .user => 4 | .supervisor => 8) + opImm o % 4
        .ok ((s.audit i.cl i.co i.gs t d).trapReturn i.cl i.co t fr (tretAction (opImm o % 4) fr.cause))) s

/-- bkpt tag (R223): class 21 detail 0 with the tag, or nothing. -/
def execBkpt (o : Ops) (s : State) : Host.Outcome State Fault Refusal :=
  runOp (.bkpt o) 0x012 o (fun i _ s =>
    if (s.core i.cl i.co).bkpten then .error (.trap 0x150 false (BitVec.ofNat 64 (opImm o % 2 ^ 16))) else .ok s) s

/-! ### System values (R225, R226) -/

/-- One word that movs reads (R225). -/
def movsWord (t : Thread) (sel : Nat) : Nat :=
  let word := fun (p : Path) j => bits p.encode (32 * j) 32
  if sel < 4 then word t.path sel
  else
    match t.frame with
    | none => 0
    | some fr =>
      if sel < 8 then word fr.path (sel - 4)
      else
        match sel with
        | 8 => fr.cause % 512
        | 9 => fr.k
        | 10 => bits fr.addr.toNat 0 32
        | 11 => bits fr.addr.toNat 32 32
        | 12 => 1 + (match fr.level with | .user => 0 | .supervisor => 2)
        | _ => 0

/-- movs (R225). -/
def execMovs (o : Ops) (s : State) : Host.Outcome State Fault Refusal :=
  runLane (.movs o) 0x014 o (fun e t g =>
    let w := widths 0x014 o
    match operandHalt t g o w 0 0 0 with
    | some h => .error h
    | none =>
      let sel := (rd32 e o t g o.a).toNat
      if sel > 15 || (w.d = 2 && sel % 2 != 0) then .error (.trap 0x34 true 0)
      else .ok (wrN t g o.d w.d (BitVec.ofNat 64 (movsWord t sel + 2 ^ 32 * movsWord t (sel + 1))))) s

/-- A class-2 stop of a control register at user level, by register (R338). -/
def ctlLevel (t : Thread) (n : Nat) : Option Halt :=
  match t.level with
  | .supervisor => none
  | .user => if n ≤ 1 then some (.trap 0x24 true 0) else if n = 2 then some (.trap 0x28 true 0) else if n = 3 then some (.trap 0x2C true 0) else none

/-- ERRSUM (R226). -/
def errsum (c : Context) (g : Group) : Nat :=
  (match g.pend with | some x => x % 512 * 16 + 2 | none => 0) + (if c.ovf then 4 else 0) + (if c.latent then 1 else 0)

/-- The value of a control register, or why it stops (R226). -/
def ctlRead (s : State) (c : Core) (e : Env) (t : Thread) (g : Group) (n : Nat) : Except Halt Nat :=
  match ctlLevel t n with
  | some h => .error h
  | none =>
    let cx := s.ctxOf e.ctx
    if n = 0 then .ok (e.ctx % 2 ^ 16)
    else if n = 1 then .ok (if cx.trapMode then 1 else 0)
    else if n = 2 then .ok (errsum cx g)
    else if n = 3 then .ok (if c.bkpten then 1 else 0)
    else
      match t.frame with
      | none => .error (.trap 0x3C true 0)
      | some fr =>
        if n < 0x180 then
          if n - 0x100 ≥ fr.f then .error (.trap 0x3C true 0)
          else
            let x := assocGet ⟨0, false⟩ t.stk (fr.wb + (n - 0x100))
            if t.spilled.contains ((fr.wb + (n - 0x100)) / 8) then .error (.fill t.tid ((fr.wb + (n - 0x100)) / 8))
            else if x.poison then .error (.trap 0x178 false 0) else .ok x.val.toNat
        else if n = 0x180 then .ok 1
        else
          let x := assocGet ⟨false, false⟩ fr.preds (n - 0x180)
          if x.poison then .error (.trap 0x178 false 0) else .ok (if x.val then 1 else 0)

/-- ctlr (R226). -/
def execCtlr (o : Ops) (s : State) : Host.Outcome State Fault Refusal :=
  runOp (.ctlr o) 0x015 o (fun i k s =>
    match s.slotThread i k with
    | none => .ok s
    | some (c, g, t) =>
      match ctlRead s c (Env.of s c g) t g (opImm o % 512) with
      | .error h => .error h
      | .ok x => .ok (s.onThread i.cl i.co t.tid (fun t => (wrWord t g o.d 0 (BitVec.ofNat 32 x)).1))) s

/-- Write a control register (R226): read-only registers and fields ignore the write. -/
def ctlWrite (s : State) (i : Issue) (e : Env) (t : Thread) (n : Nat) (x : Word) : Except Halt State :=
  match ctlLevel t n with
  | some h => .error h
  | none =>
    if n ≤ 1 then .ok s
    else if n = 2 then
      let cx := s.ctxOf e.ctx
      let clears := (cx.ovf && x.getLsbD 2) || (cx.latent && x.getLsbD 0)
      let s1 := if clears then s.audit i.cl i.co i.gs t 14 else s
      .ok (s1.onCtx e.ctx (fun c => { c with ovf := c.ovf && !x.getLsbD 2, latent := c.latent && !x.getLsbD 0 }))
    else if n = 3 then
      .ok (((s.audit i.cl i.co i.gs t 3).onCtx e.ctx (fun c => { c with bkpten := x.getLsbD 0 })).onCore i.cl i.co (fun c => { c with bkpten := x.getLsbD 0 }))
    else
      match t.frame with
      | none => .error (.trap 0x3C true 0)
      | some fr =>
        if n < 0x180 then
          if n - 0x100 ≥ fr.f then .error (.trap 0x3C true 0)
          else if t.spilled.contains ((fr.wb + (n - 0x100)) / 8) then .error (.fill t.tid ((fr.wb + (n - 0x100)) / 8))
          else .ok ((s.audit i.cl i.co i.gs t 1).onThread i.cl i.co t.tid (fun t => t.setStk (fr.wb + (n - 0x100)) ⟨x, false⟩))
        else if n = 0x180 then .ok s
        else .ok ((s.audit i.cl i.co i.gs t 2).onThread i.cl i.co t.tid (fun t =>
          { t with frame := some { fr with preds := assocSet ⟨false, false⟩ fr.preds (n - 0x180) ⟨x.getLsbD 0, false⟩ } }))

/-- ctlw (R226). -/
def execCtlw (o : Ops) (s : State) : Host.Outcome State Fault Refusal :=
  runOp (.ctlw o) 0x016 o (fun i k s =>
    match s.slotThread i k with
    | none => .ok s
    | some (c, g, t) =>
      match operandHalt t g o (widths 0x016 o) 0 0 0 with
      | some h => .error h
      | none => let e := Env.of s c g; ctlWrite s i e t (opImm o % 512) (rd32 e o t g o.a)) s

end Sys2Proof.Machine
end

