-- ==== Sys2Proof/Machine/Cells.lean ====
section
/-! DEFINITION. Completion cells and the cell commands (R154 to R159, R281, R288). -/

namespace Sys2Proof.Machine

/-- A completion cell of a core. -/
def Core.cell (c : Core) (n : Nat) : CCell := assocGet {} c.cells n

/-- Change a completion cell of a core. -/
def Core.onCell (c : Core) (n : Nat) (f : CCell → CCell) : Core := { c with cells := assocSet {} c.cells n (f (c.cell n)) }

/-- PEND holds from −2^39 to 2^39 − 1 (R154). -/
def pendOk (x : Int) : Bool := decide (-(2 ^ 39) ≤ x) && decide (x ≤ 2 ^ 39 - 1)

/-- ERR takes a code if it is 0 (R154, R156). -/
def CCell.setErr (x : CCell) (e : Nat) : CCell := if x.err = 0 then { x with err := e } else x

/-- DONE counts one command, and stays at 65,535 with COUNT (R155). -/
def CCell.count (x : CCell) : CCell := if x.done ≥ 65535 then { x with done := 65535 }.setErr 0x0A else { x with done := x.done + 1 }

/-- The 64 bits that cread returns (R154). -/
def CCell.encode (x : CCell) : Nat := x.done % 2 ^ 16 * 2 ^ 48 + x.err % 256 * 2 ^ 40 + (x.pend % (2 ^ 40 : Int)).toNat

/-- Run an effect once a pass has served a thread and did not stop. -/
def afterPass (f : State → Issue → State) (r : Host.Outcome State Fault Refusal) : Host.Outcome State Fault Refusal :=
  match r with
  | .next s =>
    (match s.cur with
     | some i => if i.stop.isNone && i.wait.isNone && !i.done.isEmpty then .next (f s i) else .next s
     | none => .next s)
  | r => r

/-- The cell number of a cell command (R282). -/
def cellOf (o : Ops) : Nat := (o.mod.extractLsb' 0 6).toNat

/-- The operand n of cexp and cacq, read as z32. -/
def cellN (s : State) (i : Issue) (o : Ops) : Nat :=
  match o.a with
  | .imm => o.imm.toNat
  | .g n => (match (s.core i.cl i.co).group? i.gs with | some g => (g.gReg n.val).val.toNat | none => 0)
  | _ => 0

/-- A cell command touches no thread; its operand register is checked for poison. -/
def cellCheck (opc : Nat) (o : Ops) : LaneOp := fun _ t g =>
  match operandHalt t g o (widths opc o) 0 0 0 with
  | some h => .error h
  | none => .ok (t, g)

/-- Write qd := (ERR = 0) for a front (R158). -/
def Core.cwaitDone (c : Core) (gs q n : Nat) : Core := c.onGroup gs (fun g => g.setQ q (decide ((c.cell n).err = 0)))

/-- The index is still to do. -/
def hasIndex (k : Nat) (l : List (Nat × Nat)) : Bool := l.any (fun x => decide (x.1 ≤ k) && decide (k < x.2))

/-- Bytes that a cell has counted as delivered are still to be seen (R289): the count of the command on this core, or that of its part for it. -/
def State.earlyIn (s : State) (c : Core) (n : Nat) : Bool :=
  s.cmds.any (fun m => m.cell == some n && m.cl == c.cl &&
    ((m.co == c.co && m.epoch == (c.cell n).epoch) || m.dests.any (fun d => d.co == c.co && d.epoch == (c.cell n).epoch)) &&
    !m.early.isEmpty)

/-- A cell lets a wait for it go on (R131, R158): PEND is 0, and every byte that it counts can be seen. -/
def State.joined (s : State) (c : Core) (n : Nat) : Bool := decide ((c.cell n).pend = 0) && !s.earlyIn c n

/-- cwait (R158): over at once where PEND is 0, else the front is blocked until it is (CWAIT_RETURN). -/
def execCwait (o : Ops) (s : State) : Host.Outcome State Fault Refusal :=
  let n := cellOf o
  let q := match o.d with | .q k => k.val | _ => 0
  afterPass (fun s i =>
    if s.joined (s.core i.cl i.co) n then s.onCore i.cl i.co (fun c => c.cwaitDone i.gs q n)
    else { s with cur := some { i with wait := some (.cwait q n) } }) (runLane (.cwait o) 0x219 o (cellCheck 0x219 o) s)

/-- cacq (R158): n above 65,535 is DESC and reads as 65,535; the count is taken once DONE reaches n (CACQ_TAKE). -/
def execCacq (o : Ops) (s : State) : Host.Outcome State Fault Refusal :=
  let c := cellOf o
  afterPass (fun s i =>
    let m := cellN s i o
    let s1 := if m > 65535 then s.onCore i.cl i.co (fun k => k.onCell c (fun x => x.setErr 0x09)) else s
    let n := min m 65535
    if n = 0 then s1
    else if n ≤ ((s1.core i.cl i.co).cell c).done then s1.onCore i.cl i.co (fun k => k.onCell c (fun x => { x with done := x.done - n }))
    else { s1 with cur := some { i with wait := some (.cacq c n) } }) (runLane (.cacq o) 0x21A o (cellCheck 0x21A o) s)

/-- cexp (R158): PEND + n with n as s32, or COUNT. -/
def execCexp (o : Ops) (s : State) : Host.Outcome State Fault Refusal :=
  let c := cellOf o
  afterPass (fun s i =>
    let n := sgn 32 (cellN s i o)
    s.onCore i.cl i.co (fun k => k.onCell c (fun x => if pendOk (x.pend + n) then { x with pend := x.pend + n } else x.setErr 0x0A)))
    (runLane (.cexp o) 0x218 o (cellCheck 0x218 o) s)

/-- cread (R158): the pair takes the cell's value. -/
def execCread (o : Ops) (s : State) : Host.Outcome State Fault Refusal :=
  let c := cellOf o
  afterPass (fun s i =>
    s.onCore i.cl i.co (fun k =>
      let v := BitVec.ofNat 64 (k.cell c).encode
      match o.d with
      | .g n => k.onGroup i.gs (fun g => (g.setG n.val (v.extractLsb' 0 32)).setG (n.val + 1) (v.extractLsb' 32 32))
      | _ => k)) (runLane (.cread o) 0x21B o (cellCheck 0x21B o) s)

/-- creset (R158): the cell reads zero, and counts of commands issued before are discarded. -/
def execCreset (o : Ops) (s : State) : Host.Outcome State Fault Refusal :=
  let c := cellOf o
  afterPass (fun s i =>
    s.onCore i.cl i.co (fun k => k.onCell c (fun x => { done := 0, err := 0, pend := 0, epoch := x.epoch + 1 })))
    (runLane (.creset o) 0x21C o (cellCheck 0x21C o) s)

end Sys2Proof.Machine
end

