-- ==== Sys2Proof/Machine/EngineIssue.lean ====
section
/-! DEFINITION. Engine commands as a front issues them: operands read, slots checked, the command formed with the
accesses it must follow (R129, R157, R163, R178, R181, R279, R280, R282 to R287). -/

namespace Sys2Proof.Machine

/-- Form a command from a front (R279): it enters its queue by ENGINE_QUEUE_ENTRY. -/
def State.addCmd (s : State) (i : Issue) (e : Env) (t : Thread) (launch : Nat) (key : Nat) (kind : CmdKind) (eng : Engine) (cell : Option Nat) : State :=
  let c := s.core i.cl i.co
  let (id, s1) := s.freshId
  let tids := i.threads.filterMap (fun k => (s.slotThread i k).map (fun x => x.2.2.tid))
  let epoch := match cell with | some n => (c.cell n).epoch | none => 0
  { s1 with cmds := s1.cmds ++ [{ id := id, cl := i.cl, co := i.co, ctx := e.ctx, launch := launch, block := (c.block.map (fun b => b.index)).getD 0,
                                  gen := c.gen, key := key, gslot := i.gs, grp := ((c.group? i.gs).map (fun g => g.born)).getD 0, tslot := t.tslot, front := tids, path := t.path, kind := kind, engine := eng,
                                  cell := cell, epoch := epoch, after := forkAfter s.accs tids }] }

/-- Issue a command: its operand registers checked for poison at the front, then the command (R57, R280). -/
def serveCmd (opc : Nat) (o : Ops) (eng : Engine) (cell : Option Nat) (role : Nat) (f : Env → Group → Except Halt CmdKind) : Serve := fun i k s =>
  match s.slotThread i k with
  | none => .ok s
  | some (c, g, t) =>
    let e := Env.of s c g
    -- copy.fill names four registers from an even number, the fourth checked by its own role (R164, R340)
    let w := widths opc o
    match operandHalt t g o { w with a := if opc = 0x202 then 3 else w.a, d := if dIsSource opc then w.d else 0 } role role role with
    | some h => .error h
    | none =>
      match (if dIsSource opc then poisonOf t g o.d (widths opc o).d role else none) with
      | some p => .error (.trap p false 0)
      | none =>
        match f e g with
        | .error h => .error h
        | .ok kind => .ok (s.addCmd i e t g.launch (g.key.getD 0xFFFFFF) kind eng cell)

/-- The number of a g operand. -/
def gNum (x : Spec) : Nat := match x with | .g n => n.val | _ => 0
/-- The number of an a operand. -/
def aNum (x : Spec) : Nat := match x with | .a n => n.val | _ => 0
/-- A g register's value. -/
def gv (g : Group) (n : Nat) : Word := (g.gReg n).val
/-- A pair of g registers. -/
def gPair (g : Group) (n : Nat) : DWord := gv g (n + 1) ++ gv g n

/-! ### Copy, layout and bank commands (R284, R285, R287) -/

/-- copy.box (R161): the descriptor is read at queue entry. -/
def execCopyBox (o : Ops) (s : State) : Host.Outcome State Fault Refusal :=
  runOp (.copyBox o) 0x200 o (serveCmd 0x200 o .copy (some (cellOf o)) 0 (fun _ g =>
    let n := gNum o.a
    .ok (.box (gPair g n) (gPair g (n + 2)) (gv g (n + 4)) {}))) s

/-- The pairs of copy.t for the front's threads (R163), or the first poisoned thread. -/
def copyPairs (s : State) (i : Issue) (o : Ops) : List Nat → Except (Halt × Nat) (List (Nat × DWord × DWord))
  | [] => .ok []
  | k :: l =>
    match s.slotThread i k with
    | none => copyPairs s i o l
    | some (c, g, t) =>
      match operandHalt t g o (widths 0x201 o) 0 0 0 with
      | some h => .error (h, k)
      | none =>
        match copyPairs s i o l with
        | .error x => .error x
        | .ok r => let e := Env.of s c g; .ok ((k, rd64 e o t g o.a false, rd64 e o t g o.b false) :: r)

/-- copy.t (R163): one command for the front, each thread's pair read in pass order. -/
def serveCopyT (o : Ops) : Serve := fun i k s =>
  match s.slotThread i k with
  | none => .ok s
  | some (c, g, t) =>
    match copyPairs s i o i.threads with
    | .error (h, _) => .error h
    | .ok ps =>
      let size := (o.mod.extractLsb' 6 2).toNat
      .ok (s.addCmd i (Env.of s c g) t g.launch (g.key.getD 0xFFFFFF) (.copyT (if size == 0 then 4 else if size == 1 then 8 else 16) ps) .copy (some (cellOf o)))

/-- copy.t (R284): it takes one cycle per active thread. -/
def execCopyT (o : Ops) (s : State) : Host.Outcome State Fault Refusal := runOp (.copyT o) 0x201 o (serveCopyT o) s

/-- copy.fill (R164): a poisoned pattern register is copy data, role 2 (R340). -/
def serveFill (o : Ops) : Serve := fun i k s =>
  match s.slotThread i k with
  | none => .ok s
  | some (_, g, t) =>
    let n := gNum o.a
    match poisonOf t g o.a 3 0 with
    | some p => .error (.trap p false 0)
    | none =>
      if (g.gReg (n + 3)).poison then .error (.trap 0x136 false 0)
      else serveCmd 0x202 o .copy (some (cellOf o)) 0 (fun _ g => .ok (.fill (gPair g n) (gv g (n + 2)).toNat (gv g (n + 3)))) i k s

/-- copy.fill (R164). -/
def execCopyFill (o : Ops) (s : State) : Host.Outcome State Fault Refusal := runOp (.copyFill o) 0x202 o (serveFill o) s

/-- layout (R167): the shape table is read at queue entry. -/
def execLayout (o : Ops) (s : State) : Host.Outcome State Fault Refusal :=
  runOp (.layout o) 0x204 o (serveCmd 0x204 o .layout (some (cellOf o)) 0 (fun _ g =>
    let n := gNum o.a
    .ok (.layout (gPair g n) (gPair g (n + 2)) (gv g (n + 4)) (gv g (n + 7) ++ gPair g (n + 5)) { edge := false, wa := 1 }))) s

/-- The operation of bankop (R287). -/
def bankOpOf (n : Nat) : BankOp := match n with | 0 => .axpy | 1 => .scale | 2 => .add | 3 => .min | 4 => .max | _ => .rsum

/-- bankop (R165, R287). -/
def execBankop (o : Ops) (s : State) : Host.Outcome State Fault Refusal :=
  runOp (.bankop o) 0x210 o (serveCmd 0x210 o .bank (some (cellOf o)) 0 (fun _ g =>
    let n := gNum o.a
    .ok (.bankop (bankOpOf (o.mod.extractLsb' 8 4).toNat) o.t.val (o.mod.extractLsb' 6 2).toNat (gv g n) (gv g (n + 1)) (gv g (n + 2)).toNat (gv g (n + 3))))) s

/-! ### Matrix queue (R178, R181, R286) -/

/-- An operand map (R178), and whether a register has a bit of [31:20] set that must be zero. -/
def opMap (g : Group) (n : Nat) (isA : Bool) : OpMap × Bool :=
  (⟨bits (gv g n).toNat 0 20, bits (gv g (n + 1)).toNat 0 16, bits (gv g (n + 1)).toNat 16 16, bits (gv g (n + 2)).toNat 0 20,
    if isA then bits (gv g (n + 3)).toNat 0 20 else 0⟩,
   bits (gv g n).toNat 20 12 != 0 || bits (gv g (n + 2)).toNat 20 12 != 0 || bits (gv g (n + 3)).toNat 20 12 != 0)

/-- The slot rules of a matrix command (R147, R181, R338). -/
def matrixSlots (e : Env) (sa sb : Nat) : Option Halt :=
  let a := e.slot sa
  let b := e.slot sb
  if a.elem == .none || b.elem == .none then some (.trap 0x114 true 0)
  else if !matrixElem a.code || !matrixElem b.code then some (.trap 0x118 true 0)
  else if a.scaled && b.scaled && a.sblk != b.sblk then some (.trap 0x11C true 0)
  else none

/-- The cell of a matrix-queue command: none under NOCELL (R181). -/
def mCell (o : Ops) : Option Nat := if o.imm.getLsbD 6 then none else some (o.imm.extractLsb' 0 6).toNat

/-- A multiply command of a variant (R184 to R187). -/
def mmaKind (o : Ops) (v : MmaVar) (e : Env) (g : Group) : Except Halt CmdKind :=
  let sb := (o.mod.extractLsb' 0 3).toNat
  match matrixSlots e o.t.val sb with
  | some h => .error h
  | none =>
    let (a, x) := opMap g (gNum o.a) true
    let (b, y) := opMap g (gNum o.b) false
    .ok (.mma v (o.mod.extractLsb' 5 2).toNat o.t.val sb (aNum o.d) a b (x || y))

/-- mma (R184). -/
def execMma (o : Ops) (s : State) : Host.Outcome State Fault Refusal :=
  runOp (.mma o) 0x208 o (serveCmd 0x208 o .matrix (mCell o) 0 (mmaKind o .plain)) s
/-- mma.p (R185). -/
def execMmaP (o : Ops) (s : State) : Host.Outcome State Fault Refusal :=
  runOp (.mmaP o) 0x208 o (serveCmd 0x208 o .matrix (mCell o) 0 (mmaKind o .pair)) s
/-- mma.g (R186). -/
def execMmaG (o : Ops) (s : State) : Host.Outcome State Fault Refusal :=
  runOp (.mmaG o) 0x208 o (serveCmd 0x208 o .matrix (mCell o) 0 (mmaKind o .gather)) s
/-- mma.s (R187). -/
def execMmaS (o : Ops) (s : State) : Host.Outcome State Fault Refusal :=
  runOp (.mmaS o) 0x208 o (serveCmd 0x208 o .matrix (mCell o) 0 (mmaKind o .sparse)) s

/-- acc.clr (R188). -/
def execAccClr (o : Ops) (s : State) : Host.Outcome State Fault Refusal :=
  runOp (.accClr o) 0x20C o (serveCmd 0x20C o .matrix (mCell o) 0 (fun _ _ => .ok (.accClr (aNum o.d)))) s

/-- SP of an accumulator command (R181). -/
def accSp (o : Ops) : Nat := (o.mod.extractLsb' 7 2).toNat

/-- The base of an accumulator command: a pair for `.gm` and `.sp`, one word for `.bk` (R188). -/
def accBase (o : Ops) (g : Group) (x : Spec) : DWord := if accSp o < 2 then gPair g (gNum x) else (gv g (gNum x)).zeroExtend 64

/-- acc.ld (R188). -/
def execAccLd (o : Ops) (s : State) : Host.Outcome State Fault Refusal :=
  runOp (.accLd o) 0x20D o (serveCmd 0x20D o .matrix (mCell o) 0 (fun _ g =>
    .ok (.accLd (spaceOf (accSp o)) (accBase o g o.a) (aNum o.d)))) s

/-- acc.st (R188): an unbound slot is class 17. -/
def execAccSt (o : Ops) (s : State) : Host.Outcome State Fault Refusal :=
  runOp (.accSt o) 0x20E o (serveCmd 0x20E o .matrix (mCell o) 0 (fun e g =>
    if unbound e o.t.val then .error (.trap 0x114 true 0)
    else .ok (.accSt (spaceOf (accSp o)) (accBase o g o.d) (aNum o.a) o.t.val))) s

/-- acc.stx (R189): list and multiplier offsets from the pair gL. -/
def execAccStx (o : Ops) (s : State) : Host.Outcome State Fault Refusal :=
  runOp (.accStx o) 0x20F o (serveCmd 0x20F o .matrix (mCell o) 0 (fun _ g =>
    .ok (.accStx (spaceOf (accSp o)) (o.mod.getLsbD 9) (accBase o g o.d) (aNum o.a) (gv g (gNum o.b)).toNat (gv g (gNum o.b + 1)).toNat []))) s

end Sys2Proof.Machine
end

