-- ==== Sys2Proof/Machine/Lane.lean ====
section
/-! DEFINITION. Which front a lane issues, and what a pass leaves behind: tree order, blocked and eligible fronts,
sharing, ages and grants, splitting and merging, the drain of written words (R14, R46 to R49, R54, R59 to R69, R212, R299). -/

namespace Sys2Proof.Machine

/-! ### Tree order (R62) -/

/-- The last element of a position key (R62). -/
def posLast (s : State) (img : Option Image) (p : Path) : Int :=
  match img with
  | none => p.op
  | some i =>
    match s.nodeAt i p.proc p.digits with
    | .ok n => if n.hdr.kind == .clause then p.op else if p.op = 0 then -1 else 64
    | .error _ => if p.op = 0 then -1 else 64

/-- The position key of a path record. -/
def posKey (s : State) (img : Option Image) (p : Path) : List Int :=
  (p.proc : Int) :: p.digits.map Int.ofNat ++ [posLast s img p]

/-- The image of the i-th record of a path stack: those below a handler lie in the interrupted image. -/
def Thread.imageAt (t : Thread) (i : Nat) : Nat :=
  match t.frame with
  | some fr => if i ≤ fr.depth then fr.image else t.image
  | none => t.image

/-- A thread's path stack (R34). -/
def Thread.stack (t : Thread) : List Path := t.calls ++ [t.path]

/-- The position keys of a path stack, outermost first. -/
def stackKey (s : State) (t : Thread) : List (List Int) := t.stack.zipIdx.map (fun (p, i) => posKey s (s.codeOf t (t.imageAt i)) p)

/-- Lexicographic order of keys. -/
def keyLt : List Int → List Int → Bool
  | [], [] => false
  | [], _ :: _ => true
  | _ :: _, [] => false
  | x :: l, y :: m => if x = y then keyLt l m else decide (x < y)

/-- Lexicographic order of stacks of keys (R62). Two stacks of which one begins the other have no unequal record, and the spec gives them no
order: the shorter is the less: DESIGN CHOICE (log entry 86). -/
def keysLt : List (List Int) → List (List Int) → Bool
  | [], [] => false
  | [], _ :: _ => true
  | _ :: _, [] => false
  | x :: l, y :: m => if x = y then keysLt l m else keyLt x y

/-- The threads of a front. -/
def Core.frontThreads (c : Core) (g : Group) (f : Front) : List Thread := f.tslots.filterMap (c.threadAt g)

/-- f is less than h in tree order (R62). -/
def frontLt (s : State) (c : Core) (g : Group) (f h : Front) : Bool :=
  match c.frontThreads g f, c.frontThreads g h with
  | t :: _, u :: _ =>
    let a := stackKey s t
    let b := stackKey s u
    if a = b then decide (f.tslots.headD 0 < h.tslots.headD 0) else keysLt a b
  | _, _ => decide (f.tslots.headD 0 < h.tslots.headD 0)

/-! ### What a front would issue -/

/-- The next operation of a front, decoded, with its segment and the fields of its canonical word. -/
structure Next where
  dec : Decoded
  seg : Segment
  first : Nat
  opc : Nat
  ops : Ops
  uniform : Bool
deriving DecidableEq, Repr

/-- Fields of a word that is no instruction: only its guard can be read. -/
def guardOps (neg : Bool) (gp : Fin 8) : Ops := ⟨neg, gp, 0, .zero, .zero, .zero, .zero, 0, 0⟩

/-- The opcode and fields of an operation, a compact one expanded (R204). -/
def Instr.fields (i : Instr) : Option (Nat × Nat × Ops) :=
  match canonical i with
  | some x => some x
  | none => expand i

/-- What a thread at a clause operation would issue, or a fetch fault. A register at or above F makes the operation an illegal one, with detail
3: DESIGN CHOICE (R18, R208; log entry 38). -/
def State.nextOf (s : State) (t : Thread) : Except FetchFault Next :=
  let bad := fun c => Except.error { cause := c, digits := t.path.digits, op := t.path.op }
  match s.codeOf t t.image with
  | none => bad 0x1E
  | some i =>
    match s.fetchOp i t.path with
    | .error e => .error e
    | .ok (.op ins r, seg, first) =>
      (match Instr.fields ins with
       | some (opc, _, o) =>
         if opsFit (s.frameOf t) o then .ok ⟨.op ins r, seg, first, opc, o, opUniform opc o⟩
         else .ok ⟨.bad 3 o.neg o.gp (opUniform opc o) r, seg, first, 0, guardOps o.neg o.gp, opUniform opc o⟩
       | none => bad 0x1B)
    | .ok (.bad d neg gp u r, seg, first) => .ok ⟨.bad d neg gp u r, seg, first, 0, guardOps neg gp, u⟩
    | .ok (.short, _, _) => bad 0x1B

/-- A long operation that writes a register (R199, R298). -/
def isLong (opc : Nat) (o : Ops) : Bool :=
  o.d != .zero && (opc == 0x04D || opc == 0x04E || opc == 0x146 || (decide (0x180 ≤ opc) && decide (opc ≤ 0x188)) ||
    opc == 0x1C0 || opc == 0x1C2 || opc == 0x1C4)

/-- The completion flag of a long operation: the first of its segment takes SET0, the second SET1 (R203, R298). -/
def State.flagOf (s : State) (t : Thread) (n : Next) : Option Nat :=
  if !isLong n.opc n.ops then none
  else
    let before := (List.range' n.first (t.path.op - n.first)).filter (fun k =>
      match s.nextOf { t with path := { t.path with op := k } } with
      | .ok m => isLong m.opc m.ops
      | .error _ => false)
    match before.length with
    | 0 => n.seg.set0
    | 1 => n.seg.set1
    | _ => none

/-- The instructions that never share a pass (R49). -/
def Next.alone (n : Next) : Bool := n.uniform || (decide (0x100 ≤ n.opc) && decide (n.opc ≤ 0x109)) || (decide (0x008 ≤ n.opc) && decide (n.opc ≤ 0x00A))

/-- The engine of an opcode. -/
def engineOf (opc : Nat) : Option Engine :=
  if 0x200 ≤ opc && opc ≤ 0x202 then some .copy
  else if opc = 0x204 then some .layout
  else if 0x208 ≤ opc && opc ≤ 0x20F then some .matrix
  else if opc = 0x210 then some .bank
  else none

/-- Commands in an engine queue of a core (R13). -/
def State.queued (s : State) (cl co : Nat) (e : Engine) : Nat :=
  (s.cmds.filter (fun c => c.entered && c.cl == cl && c.engine == e && (c.co == co || (c.pair && c.co / 2 == co / 2)))).length

/-- The core whose matrix array pairs with a core's (R13). -/
def pairCore (co : Nat) : Nat := if co % 2 = 0 then co + 1 else co - 1

/-- Room in the queue that a command is to enter (R13). -/
def State.queueRoom (s : State) (m : Cmd) : Bool :=
  match m.engine with
  | .copy => decide (s.queued m.cl m.co .copy < 32)
  | .bank => decide (s.queued m.cl m.co .bank < 16)
  | .layout => decide (s.queued m.cl m.co .layout < 4) && decide ((s.cmds.filter (fun c => c.entered && c.cl == m.cl && c.engine == .layout)).length < 64)
  | .matrix => decide (s.queued m.cl m.co .matrix < 8) && (!m.pair || decide (s.queued m.cl (pairCore m.co) .matrix < 8))

/-- An engine command that the front has issued, with its operands read, has not yet entered its queue and posted its expectation (R279). -/
def State.awaited (s : State) (c : Core) (g : Group) (f : Front) : List Cmd :=
  s.cmds.filter (fun m => !m.entered && m.cl == c.cl && m.co == c.co && m.gslot == g.slot &&
    f.tslots.any (fun k => match g.tidAt k with | some t => m.front.contains t | none => false))

/-- The segment's wait mask names a set flag (R63, R65). A flag that a load has set stays set for the other fronts while the front it
stopped in is still to issue it (R54). -/
def Group.flagWait (g : Group) (f : Front) (sg : Segment) : Bool :=
  (List.range 12).any (fun n => sg.wait.getLsbD n && (assocGet 0 g.flags n != 0 ||
    g.fronts.any (fun h => h.tslots != f.tslots && (match h.flag with | some (m, _) => m == n | none => false))))

/-! ### Residency (R79) -/

/-- The chunks of a window of f words at a base. -/
def chunksOf (wb f : Nat) : List Nat := List.range' (wb / 8) (f / 8)

/-- A spill that has failed is to be tried again before the thread goes on, its trap being over (R81). -/
def Thread.respills (t : Thread) : Bool := t.respill.isSome && t.frame.isNone

/-- Every chunk of the thread's current window is resident, and so is a trip record that its tret is to reload (R78, R79). -/
def State.windowResident (s : State) (t : Thread) : Bool :=
  (chunksOf t.wb (s.frameOf t)).all (fun j => !t.spilled.contains j) && !t.tripSpilled.contains t.calls.length && !t.respills

/-! ### Long operations and drains a thread waits for (R48, R212, R299) -/

/-- The long operations of a thread that have not landed. -/
def State.longsOf (s : State) (tid : Nat) : List LongOp := s.longs.filter (fun l => l.tid == tid || l.also.contains tid)

/-- No written word among these is still within its drain. -/
def Group.drainOk (g : Group) (now : Nat) (w : List DrainWord) : Bool := !g.drain.any (fun x => decide (now < x.2) && w.contains x.1)

/-- A long operation of the thread writes one of the words. -/
def LongOp.hits (l : LongOp) (w : List DrainWord) : Bool :=
  l.dests.any (fun d => w.any (fun x => match d, x with
    | .v n, .v t m => (l.tid == t || l.also.contains t) && n == m
    | .g n, .g m => n == m
    | _, _ => false))

/-- Every word that a node move touches is free and in the register file (R79, R212). -/
def State.touchFree (s : State) (g : Group) (t : Thread) (w : Touched) : Bool :=
  g.drainOk s.now w && !(s.longsOf t.tid).any (fun l => l.hits w) &&
    w.all (fun x => match x with | .v _ n => !t.spilled.contains (n / 8) | _ => true)

/-- The group of a thread; an empty one for a thread that has none. -/
def Core.groupOf (c : Core) (t : Thread) : Group :=
  (t.gslot.bind c.group?).getD { slot := 64, launch := t.launch }

/-- The walk of a move that is due for a thread. -/
def State.walkOf (s : State) (c : Core) (t : Thread) (m : Move) : Option (Walk × Touched) :=
  (s.codeOf t t.image).map (fun i => s.walkMove i (c.groupOf t) t m)

/-- Threads in these states are made to move before anything else of their group (R35, R212); those of a stopped or waiting
front stay. -/
def Core.mayMove (c : Core) (t : Thread) : Bool :=
  match t.gslot.bind c.group? with
  | none => true
  | some g => g.fronts.all (fun f => !f.tslots.contains t.tslot || (f.stop.isNone && f.wait.isNone)) &&
      (match g.tretTo with | some (tid, late) => tid != t.tid || late | none => true)

/-- A save request stands for the core's block, and the thread is overlaid at the SAFE node where it rests (R38, R99). -/
def Core.overlays (c : Core) (t : Thread) : Bool := c.saving && t.act == .safe

/-! ### Calls, returns and saves that are due (R38, R71, R73, R99, R102, R215) -/

/-- What a return is (R215). -/
inductive Returns where
  | handler (fr : TrapFrame)
  | saved (sp : Nat) (rec : DWord)
  | restored (at_ : Path)
  | last
  | link
deriving DecidableEq, Repr

/-- Which return is due for a thread (R215). -/
def Thread.returns (t : Thread) : Returns :=
  let d := t.calls.length
  match t.overlay, t.frame with
  | .save sp n _ r, f => if d == n then .saved sp r else (match f with | some fr => if d == fr.depth + 1 then .handler fr else .link | none => .link)
  | .restore _ n p _, none => if d == n then .restored p else .link
  | _, some fr => if d == fr.depth + 1 then .handler fr else .link
  | .none, none => if t.wb = 0 then .last else .link

/-- The link's chunk and the caller's trip record are in the register file (R80). -/
def returnIn (t : Thread) : Bool := !t.spilled.contains ((t.wb - 4) / 8) && (t.calls.isEmpty || !t.tripSpilled.contains (t.depth - 1))

/-- No chunk of the thread is on its way to or from its image. -/
def Core.stillChunks (c : Core) (t : Thread) : Bool := !c.xfers.any (fun x => x.tid == t.tid)

/-- The core, thread and stack word of a register access (R113, R114). -/
def AccOp.reg : AccOp → Option (Nat × Nat × Nat × Nat)
  | .rgLoad cl co tid w => some (cl, co, tid, w)
  | .rgStore cl co tid w _ => some (cl, co, tid, w)
  | _ => none

/-- A register access that has not been performed names the thread. -/
def State.regAwaited (s : State) (cl co tid : Nat) : Bool :=
  s.accs.any (fun a => match a.op.reg with | some (x, y, t, _) => x == cl && y == co && t == tid | none => false)

/-- The thread has accesses that are not performed: a thread that parks waits for them (R102, R128). -/
def State.accAwaited (s : State) (tid : Nat) : Bool := s.accs.any (fun a => a.real && (a.tid == tid || a.also.contains tid))

/-- An address of the thread's context lies in memory that cannot be reached now (R369, R376). -/
def State.away (s : State) (c : Core) (t : Thread) (va : Nat) : Bool :=
  match (s.translate c.cl c.co (s.ctxOf (((s.launch? t.launch).map (fun l => l.ctx)).getD 0)) va false).2 with
  | .ok lf => s.stallsAt lf.phys
  | .error m => m == .wait

/-- Where a save of the thread writes: its record, and the images of its chunks (R82, R101). -/
def State.saveWrites (s : State) (t : Thread) : List Nat :=
  (((s.launch? t.launch).map (fun l => l.ra.toNat + 576 * t.stackNo)).toList) ++
    ((List.range (max (t.wb + s.frameOf t) (greatest t.tops) / 8)).filter (fun j => !t.spilled.contains j)).map (fun j => t.sptr.toNat + t.p + 32 * j)

/-- The stack words among those touched are in the register file (R79). -/
def Thread.touchIn (t : Thread) (ws : Touched) : Bool :=
  ws.all (fun w => match w with | .v u n => u != t.tid || !t.spilled.contains (n / 8) | _ => true)

/-- What a thread is to do between operations finds what it needs in the register file (R79, R80), the trip record that its tret is to reload is
there (R78, R224), a failed spill has been tried again (R81), and a save finds no chunk on its way and the thread's accesses performed, which its
writes of chunks follow as same-byte accesses (R50, R128); a call waits for the register accesses that have arrived at the thread's window (R114);
one that has a failed chunk move to report goes on to do so (R81). -/
def State.stopReady (s : State) (c : Core) (t : Thread) : Bool :=
  t.pagerFault.isSome ||
    (!t.tripSpilled.contains t.calls.length && !t.respills && match t.act with
     | .call => s.windowResident t && !s.regAwaited c.cl c.co t.tid
     | .ret => (match t.returns with
       | .link => returnIn t
       | .saved _ r => !s.accAwaited t.tid && !s.regAwaited c.cl c.co t.tid && !s.away c t r.toNat
       | _ => true)
     | .safe => !c.overlays t || (c.stillChunks t && !s.accAwaited t.tid && !(s.saveWrites t).any (s.away c t))
     | _ => true)

/-- A thread that waits for its long operations before a call, a return, a filing or an overlay (R299). -/
def State.heldBy (s : State) (c : Core) (t : Thread) : Bool :=
  match t.act with
  | .call | .ret | .reform => !(s.longsOf t.tid).isEmpty
  | .safe => c.overlays t && !(s.longsOf t.tid).isEmpty
  | .move .advance => false
  | .move m => (match s.walkOf c t m with | some (_, w) => (s.longsOf t.tid).any (fun l => l.hits w) | none => false)
  | _ => false

/-- The move waits for code that cannot be reached now (R369, R376). -/
def Walk.waits : Walk → Bool
  | .fetch _ e => e.wait
  | _ => false

/-- The operands of a node that a thread rests at are free: the words of its move, or the target register of a CALL.I (R48, R79, R212); and its
code can be reached. -/
def State.wordsFree (s : State) (c : Core) (t : Thread) : Bool :=
  t.pagerFault.isSome || match t.act with
  | .move m => (match s.walkOf c t m with | some (r, w) => !r.waits && t.touchIn w && s.touchFree (c.groupOf t) t w | none => false)
  | .call =>
    (match (s.codeOf t t.image).map (fun i => s.nodeAt i t.path.proc t.path.digits) with
     | some (.ok n) => (match n.hdr.kind with | .callI v _ _ => s.touchFree (c.groupOf t) t [.v t.tid (t.wb + v.val)] | _ => true)
     | some (.error e) => !e.wait
     | none => true)
  | .safe => !c.overlays t || (match s.restNode t with | .error e => !e.wait | .ok _ => true)
  | .ret => (match t.returns with | .link => (match s.linkNode t with | .error (.fetch _ e) => !e.wait | _ => true) | _ => true)
  | _ => true

/-- Nothing but the other threads of its front holds back what a thread is to do between operations (R48, R79, R212, R299). -/
def State.threadFree (s : State) (c : Core) (t : Thread) : Bool := !s.heldBy c t && s.wordsFree c t && s.stopReady c t

/-- The threads of a thread's front; the thread alone where no group holds it. -/
def Core.frontOf (c : Core) (t : Thread) : List Thread :=
  match t.gslot.bind c.group? with
  | none => [t]
  | some g =>
    match g.fronts.find? (fun f => f.tslots.contains t.tslot) with
    | some f => f.tslots.filterMap (c.threadAt g)
    | none => [t]

/-- A node move of the thread is due. -/
def Thread.moving (t : Thread) : Bool :=
  match t.act with
  | .move .advance => false
  | .move _ => true
  | _ => false

/-- A thread at a call, a return, a SAFE or a REFORM is about to go on (R35). -/
def Thread.atStop (t : Thread) : Bool :=
  match t.act with
  | .call | .ret | .safe | .reform => true
  | _ => false

/-- A thread has something to do between operations. -/
def Thread.due (t : Thread) : Bool := t.atStop || t.moving

/-- The threads of a front go on together: none moves, calls, returns or leaves before every one that stands with it may, and none goes
on from a node to which others of the front are still to move (R60, R299). -/
def State.frontFree (s : State) (c : Core) (t : Thread) : Bool :=
  c.mayMove t && (c.frontOf t).all (fun u => if sameSpot t u then s.threadFree c u else !(t.atStop && u.moving))

/-- The due node move of a thread may be made now. -/
def State.moveDue (s : State) (c : Core) (t : Thread) : Bool := t.moving && s.frontFree c t

/-! ### Blocked and eligible fronts (R63) -/

/-- The thread stands at a clause operation: it is to be issued, or has been by a pass that is not over. -/
def Thread.atOp (t : Thread) : Bool := t.act == .rest || t.act == .move .advance

/-- A wait that blocks its front (R63); a pass that has stalled does not (R94, R116). -/
def Wait.blocks : Wait → Bool
  | .bar .. | .cwait .. | .cacq .. => true
  | .spawnRing _ | .requests | .fill .. | .away _ => false

/-- A front is blocked (R63, R69, R299); so it is while a command that it has issued finds its queue full (R279). -/
def State.frontBlocked (s : State) (c : Core) (g : Group) (f : Front) : Bool :=
  if f.stop.isSome then true
  else
    match f.wait with
    | some w => w.blocks
    | none =>
      if (s.awaited c g f).any (fun m => !s.queueRoom m) then true
      else
        let ts := c.frontThreads g f
        match ts with
        | [] => true
        | t :: _ => if t.atOp then (match s.nextOf t with | .ok n => g.flagWait f n.seg | .error _ => false) else ts.any (s.heldBy c)

/-- The next operation of a front lies in the lane's instruction buffer. -/
def Core.buffered (c : Core) (g : Group) (t : Thread) (n : Next) : Bool := c.ibuf.contains (g.slot, { t.path with op := n.first })

/-- Thread k that xbcast and xpick read (R51). -/
def lookupThread (c : Core) (g : Group) (o : Ops) : Option Thread :=
  match o.b with
  | .imm => c.threadAt g o.imm.toNat
  | .g n => c.threadAt g (g.gReg n.val).val.toNat
  | _ => none

/-- What ctlr reads of an interrupted frame: a word of its window, or a predicate (R48, R226). -/
def frameWords (n : Next) (t : Thread) : List DrainWord :=
  let r := n.ops.imm.toNat % 512
  match t.frame with
  | some fr =>
    if n.opc != 0x015 || r < 0x100 then []
    else if r < 0x180 then [.v t.tid (fr.wb + (r - 0x100))] else [.p t.tid (r - 0x180)]
  | none => []

/-- The words that a pass would read: the guards of its threads, then the sources of those whose guard holds (R46, R48). -/
def State.drained (s : State) (c : Core) (g : Group) (ts : List Thread) (n : Next) : Bool :=
  let guards := if n.ops.gp.val = 0 then [] else ts.map (fun t => DrainWord.p t.tid n.ops.gp.val)
  g.drainOk s.now guards &&
    (match n.dec with
     | .op .. =>
       if n.opc = 0x103 || n.opc = 0x104 then
         g.drainOk s.now (ts.flatMap (fun t => fieldWords t n.ops.b 1)) &&
           (match lookupThread c g n.ops with
            | some k => g.drainOk s.now (fieldWords k n.ops.a (widths n.opc n.ops).a)
            | none => true)
       else g.drainOk s.now ((ts.filter (fun t => (guardVal n.ops t).val)).flatMap (fun t => readWords n.opc n.ops t ++ frameWords n t))
     | _ => true)

/-- What a front issues if it is eligible (R63): the rest of a pass that had stalled, or its next instruction, no earlier than the posting
of its last command (R94, R116, R279). -/
def State.eligible (s : State) (c : Core) (g : Group) (f : Front) : Option Next :=
  if f.stop.isSome || f.wait.isSome || !(s.awaited c g f).isEmpty then none
  else
    let ts := c.frontThreads g f
    match ts with
    | [] => none
    | t :: _ =>
      if !(ts.all Thread.atOp && ts.any (fun t => t.act == .rest)) then none
      else
        match s.nextOf t with
        | .error _ => none
        | .ok n =>
          if !g.flagWait f n.seg && c.buffered g t n && ts.all (fun t => s.windowResident t || t.pagerFault.isSome) && s.drained c g (ts.filter (fun t => t.act == .rest)) n
          then some n else none

/-! ### Choosing what issues (R14, R64, R66) -/

/-- A front is demoted while all of its threads are (R67). -/
def Core.frontDemoted (c : Core) (g : Group) (f : Front) : Bool := (c.frontThreads g f).all (fun t => t.demoted)

/-- f ranks before h among eligible fronts (R64). -/
def ranksBefore (s : State) (c : Core) (g : Group) (f h : Front) : Bool :=
  if f.granted != h.granted then f.granted
  else if c.frontDemoted g f != c.frontDemoted g h then c.frontDemoted g h
  else frontLt s c g f h

/-- Insert a front in rank order. -/
def rankInsert (s : State) (c : Core) (g : Group) (x : Front × Next) : List (Front × Next) → List (Front × Next)
  | [] => [x]
  | y :: l => if ranksBefore s c g x.1 y.1 then x :: y :: l else y :: rankInsert s c g x l

/-- The length of the longest common beginning of two digit lists. -/
def commonDigits : List Nat → List Nat → List Nat
  | x :: l, y :: m => if x = y then x :: commonDigits l m else []
  | _, _ => []

/-- The node at a path is of a kind that a test picks. -/
def State.nodeIs (s : State) (t : Thread) (img : Nat) (proc : Nat) (digits : List Nat) (p : NodeKind → Bool) : Bool :=
  match s.codeOf t img with
  | none => false
  | some i => (match s.nodeAt i proc digits with | .ok n => p n.hdr.kind | .error _ => false)

/-- SEL and CASE. -/
def NodeKind.choice : NodeKind → Bool
  | .sel _ | .case _ => true
  | _ => false

/-- CALL.I. -/
def NodeKind.indirect : NodeKind → Bool
  | .callI .. => true
  | _ => false

/-- The condition of R64 on the first unequal records of two stacks; `prev` is the last equal record. -/
def stacksShare (s : State) (t : Thread) : Nat → Option Path → List Path → List Path → Bool
  | _, _, [], [] => true
  | i, prev, p :: l, q :: m =>
    if p = q then stacksShare s t (i + 1) (some p) l m
    else if p.proc = q.proc then s.nodeIs t (t.imageAt i) p.proc (commonDigits p.digits q.digits) NodeKind.choice
    else (match prev with
      | some k => k.op == 1 && s.nodeIs t (t.imageAt (i - 1)) k.proc k.digits NodeKind.indirect
      | none => false)
  | _, _, _, _ => false

/-- Two fronts may share a pass (R49, R64). -/
def canShare (s : State) (c : Core) (g : Group) (x y : Front × Next) : Bool :=
  !x.2.alone && !y.2.alone &&
    (match c.frontThreads g x.1, c.frontThreads g y.1 with
     | t :: _, u :: _ => stacksShare s t 0 none t.stack u.stack
     | _, _ => false)

/-- An instruction that reads or writes an f64 value (R243, R247, R256, R271). -/
def isF64 (n : Next) : Bool :=
  let sub := (n.ops.mod.extractLsb' 4 4).toNat
  let op := (n.ops.mod.extractLsb' 8 4).toNat
  (decide (0x140 ≤ n.opc) && decide (n.opc ≤ 0x188) && n.ops.t.val == 3) ||
    (decide (0x100 ≤ n.opc) && decide (n.opc ≤ 0x106) && n.ops.t.val == 7) ||
    ((n.opc == 0x1C4 || n.opc == 0x1C5) && n.ops.t.val == 5 && decide (10 ≤ op) && decide (op ≤ 12)) ||
    (n.opc == 0x190 && (sub == 4 || sub == 5 || sub == 10 || sub == 11 || sub == 12 || sub == 13))

/-- A pass to issue: its group, its front or two fronts, whether it opens a grant or goes on with one, and the eligible fronts. -/
structure Plan where
  gs : Nat
  grant : Bool
  goesOn : Bool
  one : Front × Next
  two : Option (Front × Next)
  el : List Front
deriving DecidableEq, Repr

/-- The starving front that is granted: the earliest, then the least in tree order (R66). -/
def pickStarving (s : State) (c : Core) (g : Group) : List (Front × Next) → Option (Front × Next)
  | [] => none
  | x :: l =>
    match pickStarving s c g l with
    | none => if x.1.starved.isSome then some x else none
    | some y =>
      match x.1.starved, y.1.starved with
      | some a, some b => if a < b || (a == b && frontLt s c g x.1 y.1) then some x else some y
      | some _, none => some x
      | _, _ => some y

/-- A front is stopped, or waits. -/
def Front.held (f : Front) : Bool := f.stop.isSome || f.wait.isSome

/-- The threads of some front of the group are to go on between operations now (R35, R212). -/
def State.movesDue (s : State) (c : Core) (g : Group) : Bool :=
  g.fronts.any (fun f => !f.held && (c.frontThreads g f).any (fun t => t.due && s.frontFree c t))

/-- Something of the group comes before its next pass: an error to deliver, a chunk boundary (R346, R382). -/
def Group.busy (g : Group) : Bool := (g.pend.isSome && g.handler.isNone) || !g.bounds.isEmpty || !g.unhashed.isEmpty

/-- The front is to go on with a pass that has stalled (R94, R116). -/
def Front.resumes (f : Front) : Bool := f.mid.any (fun m => m.stalled)

/-- The plan of a front chosen among the eligible ones in rank order: a pass that had stalled goes on, with the other front that shares it, in
the turn that it began (R66, R94, R116); any other begins. -/
def Plan.of (gs : Nat) (share : Front × Next → Front × Next → Bool) (el : List Front) (x : Front × Next) (l : List (Front × Next)) : Plan :=
  if x.1.resumes then ⟨gs, false, true, x, l.find? (fun y => y.1.mid == x.1.mid && y.1.tslots != x.1.tslots), el⟩
  else ⟨gs, false, false, x, l.head?.filter (fun y => !y.1.resumes && share x y), el⟩

/-- What a group would issue now, if it is ready (R14 step 4 and 5, R64, R66). -/
def State.groupPlan (s : State) (c : Core) (g : Group) : Option Plan :=
  if g.busy then none
  else
    match g.fronts.find? (fun f => f.granted && !s.frontBlocked c g f) with
    | some f => (s.eligible c g f).map (fun n => ⟨g.slot, false, true, (f, n), none, [f]⟩)
    | none =>
      let el := g.fronts.filterMap (fun f => (s.eligible c g f).map (fun n => ({ f with granted := false }, n)))
      match pickStarving s c g el with
      | some x => some (if x.1.resumes then Plan.of g.slot (canShare s c g) (el.map Prod.fst) x el else ⟨g.slot, true, false, x, none, el.map Prod.fst⟩)
      | none =>
        match el.foldr (rankInsert s c g) [] with
        | [] => none
        | x :: l => some (Plan.of g.slot (canShare s c g) (el.map Prod.fst) x l)

/-- The lane's groups in round-robin order after the group it issued last (R10, R14). -/
def laneSlots (lane : Nat) (last : Option Nat) : List Nat :=
  let all := [lane, lane + 16, lane + 32, lane + 48]
  match last with
  | none => all
  | some k => all.filter (fun x => decide (k < x)) ++ all.filter (fun x => decide (x ≤ k))

/-- A core issues: it is in service and its cluster is not being cleared (R312, R374). -/
def State.coreRuns (s : State) (c : Core) : Bool := !c.svc.fenced && !c.svc.testing && !(s.cluster c.cl).clearing

/-- What a lane issues in the current cycle. -/
def State.lanePlan (s : State) (c : Core) (lane : Nat) : Option Plan :=
  let l := assocGet {} c.lanes lane
  if s.now < l.freeAt || !s.coreRuns c then none
  else (laneSlots lane l.last).findSome? (fun gs => match c.group? gs with | some g => s.groupPlan c g | none => none)

/-! ### Opening a pass -/

/-- Ages at a turn (R66). -/
def ageFront (turn : Nat) (issues eligible : Bool) (f : Front) : Front :=
  if issues then { f with age := 0, starved := none }
  else if eligible then
    let a := min 16 (f.age + 1)
    { f with age := a, starved := if a = 16 && f.starved.isNone then some turn else f.starved }
  else f

/-- The fronts of a group as a pass begins: ages, the new grant, no grant for a front that is blocked. Of the passes of a granted clause,
which make one turn, the first is where the other fronts' eligibility is judged: DESIGN CHOICE of the model (log entry 78). -/
def Plan.fronts (p : Plan) (turn : Nat) (blocked : Front → Bool) (fs : List Front) : List Front :=
  let one := p.one.1.tslots
  let two := match p.two with | some x => x.1.tslots | none => []
  fs.map (fun f =>
    let issues := f.tslots == one || f.tslots == two
    let f1 := if p.goesOn then f else ageFront turn issues ((p.el.map Front.tslots).contains f.tslots) f
    { f1 with granted := if p.grant && f.tslots == one then true else f.granted && !blocked f })

/-- The threads of a pass in increasing index. -/
def Plan.slots (p : Plan) : List Nat := (p.one.1.tslots ++ (match p.two with | some x => x.1.tslots | none => [])).foldl setInsert []

/-- The issue of one front of a pass; it has the numbers of the pass that the front goes on with, before its own (R6, R50). -/
def Plan.issue (p : Plan) (cl co pass : Nat) (flag : Option Nat) (x : Front × Next) (threads blocked : List Nat) : Issue :=
  { cl := cl, co := co, gs := p.gs, front := x.1.tslots, threads := threads, shared := p.two.isSome, first := threads.length == x.1.tslots.length,
    passes := ((x.1.mid.map (fun m => m.passes)).getD []) ++ [pass], feed := if isF64 x.2 then 4 else 1, flag := flag, blocked := blocked }

/-- Open a pass: a turn begins, the lane is taken (R14, R66). -/
def State.openPass (s : State) (cl co lane : Nat) (p : Plan) : State :=
  let c := s.core cl co
  match c.group? p.gs with
  | none => s
  | some g =>
    let turn := if p.goesOn then g.turn else g.turn + 1
    let fs := p.fronts turn (s.frontBlocked c g) g.fronts
    let c1 := c.onGroup p.gs (fun g => { g with fronts := fs, turn := turn, drain := g.drain.filter (fun x => decide (s.now < x.2)) })
    s.setCore { c1 with lanes := assocSet {} c1.lanes lane ⟨s.now + 1, some p.gs⟩, passAt := s.now + 1,
                        bins := c1.bins.map Bin.older }

/-! ### Faults that a thread takes when it issues (R76, R81) -/

/-- The class-10 stop of a thread that is about to issue: an entry frame that does not fit, or a failed chunk move (R76,
R81); the cause takes the position qualifier or not (R339). -/
def State.preStop (s : State) (t : Thread) : Option Halt :=
  let d := match t.overlay with | .restore _ d _ _ => d | _ => 0
  let entry := t.tops.getD d (t.wb + s.frameOf t)
  let top := t.sptr.toNat + t.p + 4 * entry
  if !t.begun && t.frame.isNone && decide (t.slim.toNat < top) then some (.trap 0xA4 true (BitVec.ofNat 64 top))
  else t.pagerFault.map (fun x => .trap x.1 false x.2)

/-! ### Closing a pass -/

/-- The thread moves on to the next operation of its clause, or has completed it (R31, R35); where the clause cannot be read, that is a node move
still to make (R209). -/
def State.advanced (s : State) (t : Thread) : Thread :=
  match t.act with
  | .move .advance =>
    (match s.codeOf t t.image with
     | some i =>
       (match s.opCount i t.path with
        | .error _ => { t with act := .move .again }
        | .ok n => if t.path.op + 1 < n then { t with path := { t.path with op := t.path.op + 1 }, act := .rest } else { t with act := .move .complete })
     | none => t)
  | _ => t



/-- The parts of a list of slots by the place of their threads, in order of their first thread. -/
def partBySpot (c : Core) (g : Group) : List Nat → List (List Nat)
  | [] => []
  | k :: l =>
    match partBySpot c g l with
    | [] => [[k]]
    | ps =>
      let rec put : List (List Nat) → Option (List (List Nat))
        | [] => none
        | p :: r =>
          match c.threadAt g k, p.head?.bind (c.threadAt g) with
          | some t, some u => if sameSpot t u then some ((k :: p) :: r) else (put r).map (p :: ·)
          | _, _ => (put r).map (p :: ·)
      match put ps with
      | some q => q
      | none => [k] :: ps

/-- A thread of the front, or the one that its handler interrupted, still rests at the load that holds a flag (R54). -/
def Front.holdsFlag (c : Core) (g : Group) (f : Front) : Front :=
  { f with flag := f.flag.filter (fun x => (c.frontThreads g f).any (fun t =>
      (t.act == .rest && t.path == x.2) || (match t.frame with | some fr => fr.act == .rest && fr.rest == x.2 | none => false))) }

/-- Split a front where its threads part (R60): a grant stays with the part that goes on in the clause. A pass that has stalled does not
part its front (R94, R116), nor do node moves until all of its threads that were to move have (R212); the pass that issued to it does, where it
leaves its threads with different moves to make. `passed` are the slots of the fronts of a pass. -/
def splitFront (c : Core) (g : Group) (passed : List Nat) (f0 : Front) : List Front :=
  let f := f0.holdsFlag c g
  if f.held || (c.frontThreads g f).any (fun t => t.act == .move .advance || (!f.tslots.all passed.contains && t.moving)) then [f]
  else
    match partBySpot c g f.tslots with
    | [] => []
    | ps => ps.map (fun p => { f with tslots := p, granted := f.granted && (match p.head?.bind (c.threadAt g) with | some t => t.act == .rest | none => false) })

/-- Two fronts at this place merge: a node position, or the first operation of a segment (R59, R61). Fronts whose clauses are complete merge at the node
move, call, return or SAFE that is due for them, before the next segment begins: DESIGN CHOICE where R61 names only the segment's start (log entry
96). -/
def State.mergesHere (s : State) (t : Thread) : Bool :=
  match t.act with
  | .rest =>
    (match s.codeOf t t.image with
     | some i => (match s.opAt i t.path with | .ok o => o.first == t.path.op | .error _ => true)
     | none => true)
  | _ => true

/-- Merge two fronts (R61). A front that comes to where another stands stopped, or in a pass that has stalled, joins it. -/
def mergeFronts (f h : Front) : Front :=
  { tslots := (f.tslots ++ h.tslots).foldl setInsert [], age := max f.age h.age,
    starved := (match f.starved, h.starved with | some a, some b => some (min a b) | some a, none => some a | none, x => x),
    granted := f.granted || h.granted, wait := f.wait.or h.wait, stop := f.stop.or h.stop, flag := f.flag.or h.flag,
    mid := match f.mid, h.mid with
      | some a, some b => some ⟨(a.passes ++ b.passes).eraseDups, a.stalled || b.stalled⟩
      | x, y => x.or y }

/-- Add a front to a list, merged with one at the same place; of two that are both stopped or waiting each goes on by itself first, and so does
one of two whose pass has stalled (log entry 79). -/
def State.addFront (s : State) (c : Core) (g : Group) (f : Front) : List Front → List Front
  | [] => [f]
  | h :: l =>
    if (f.held && h.held) || (f.mid.isSome && h.mid.isSome && (f.resumes || h.resumes)) then h :: State.addFront s c g f l
    else
      match f.tslots.head?.bind (c.threadAt g), h.tslots.head?.bind (c.threadAt g) with
      | some t, some u => if sameSpot t u && s.mergesHere t then mergeFronts h f :: l else h :: State.addFront s c g f l
      | _, _ => h :: State.addFront s c g f l

/-- The fronts of a group split and merged (R59 to R61). -/
def State.normalFronts (s : State) (c : Core) (g : Group) (passed : List Nat) : List Front :=
  (g.fronts.flatMap (splitFront c g passed)).foldl (fun l f => s.addFront c g f l) []

/-- The threads of a front that have retired stay at its operation while they wait at it, and while its pass, which has stalled, is still to
reach others (R60, R63, R94, R116). -/
def Front.stays (c : Core) (g : Group) (f : Front) : Bool := f.wait.isSome || (f.resumes && (c.frontThreads g f).any (fun t => t.act == .rest))

/-- Advance the threads of fronts that do not stay. -/
def State.advanceGroup (s : State) (c : Core) (g : Group) : Core :=
  let waiting := (g.fronts.filter (Front.stays c g)).flatMap (fun f => f.tslots)
  { c with threads := c.threads.map (fun t => if t.gslot == some g.slot && !waiting.contains t.tslot then s.advanced t else t) }

/-- A thread that has completed its clause by some route (R67). -/
def Thread.leftClause (t : Thread) : Bool :=
  match t.act with
  | .move .complete | .move (.exit _) | .move (.next _) | .ret | .ended | .parked => true
  | _ => false

/-- The drain words of a pass's front: what its served threads wrote, unless a flag covers it; xred and vote write their register with no
thread active too (R48, R51). -/
def passWrites (c : Core) (g : Group) (n : Next) (i : Issue) : List DrainWord :=
  let done := if i.uniform then i.done.take 1 else if i.done.isEmpty && i.stop.isNone && (n.opc == 0x102 || n.opc == 0x107) then i.skipped.take 1 else i.done
  match n.dec with
  | .op .. => if isLong n.opc n.ops then [] else (done.filterMap (c.threadAt g)).flatMap (writeWords n.opc n.ops)
  | _ => []

/-- The issue cycles that served threads of a front take (R46, R47, R163, R247). -/
def passCycles (n : Next) (uniform : Bool) (done front : Nat) : Nat :=
  let one := if isF64 n then 4 else 1
  if n.opc = 0x201 then front else if uniform then one else one * done

/-- A front whose pass has stopped parts into the threads that have retired and those that rest at the operation still (R54, R69): the
first part takes `goes`, the second `stays`. -/
def partFront (c : Core) (g : Group) (goes stays : Front → Front) (f : Front) : List Front :=
  let rest := f.tslots.filter (fun k => match c.threadAt g k with | some t => t.act == .rest | none => false)
  let gone := f.tslots.filter (fun k => !rest.contains k)
  (if gone.isEmpty then [] else [goes { f with tslots := gone }]) ++ (if rest.isEmpty then [] else [stays { f with tslots := rest, granted := false }])

/-- The flag that a load holds for the threads it is still to issue for (R54): set once a thread below has issued it. -/
def Issue.holds (i : Issue) (c : Core) (g : Group) : Option (Nat × Path) :=
  if i.done.isEmpty then none
  else
    let rest := i.front.filterMap (fun k => (c.threadAt g k).filter (fun t => t.act == .rest))
    match i.flag, rest with
    | some n, t :: _ => some (n, t.path)
    | _, _ => none

/-- The fault's thread lies in the front. -/
def stopsIn (st : Stop) (front : List Nat) (f : Front) : Bool :=
  match st with
  | .trap _ k _ _ => f.tslots.contains k
  | _ => f.tslots == front

/-- A stopped front goes to the end of the list: fronts are stopped in the order of their faults (R212, R344). -/
def stoppedLast (fs : List Front) : List Front := fs.filter (fun f => f.stop.isNone) ++ fs.filter (fun f => f.stop.isSome)

/-- What a front's part of a pass leaves: stopped, waiting, or going on. The threads that executed a barrier wait for their phase, also
where the pass stopped above them (R54, R219). Where the pass is not over, what is left of the front is still to issue in it: `mid`. -/
def Issue.fronts (i : Issue) (c : Core) (g : Group) (mid : Option MidPass) (fs : List Front) : List Front :=
  let flag := i.holds c g
  let waits := fun (w : Option Wait) (f : Front) => match w with
    | some x => { f with wait := some x, granted := f.granted && !x.blocks, flag := if x.blocks then f.flag else flag.or f.flag }
    | none => f
  match i.stop, i.wait with
  | some st, w => stoppedLast (fs.flatMap (fun f =>
      if stopsIn st i.front f then
        partFront c g (fun f => waits w { f with mid := none }) (fun f => { f with stop := some st, flag := flag.or f.flag, mid := mid }) f
      else [f]))
  | none, some w => fs.map (fun f => if f.tslots == i.front then waits (some w) { f with mid := if w.blocks then none else mid } else f)
  | none, none => fs.flatMap (fun f =>
      if f.tslots == i.front then partFront c g (fun f => { f with mid := none }) (fun f => { f with mid := mid }) f else [f])

/-- A pass that stalls in one of its two fronts stalls in the other too (R94, R116). -/
def sharedStall (c : Core) (g : Group) (parts : List (Next × Issue)) : List (Next × Issue) :=
  match (parts.filterMap (fun (x : Next × Issue) => x.2.wait.filter (fun w => !w.blocks))).head? with
  | none => parts
  | some w => parts.map (fun (n, i) =>
      let half := i.front.any (fun k => match c.threadAt g k with | some t => t.act == .rest | none => false)
      (n, if half && i.stop.isNone && i.wait.isNone then { i with wait := some w } else i))

/-- What is left of a pass that has stalled or stopped (R54, R94, R116). -/
def passLeft (parts : List (Next × Issue)) : Option MidPass :=
  let stops := parts.any (fun (_, i) => i.stop.isSome)
  let stalls := parts.any (fun (_, i) => i.wait.any (fun w => !w.blocks))
  if stops || stalls then some ⟨(parts.flatMap (fun (_, i) => i.passes)).eraseDups, !stops⟩ else none

/-- A thread that a trap is to be delivered to counts for no wait set by that (R67). -/
def Front.trapping (f : Front) (handler : Option Nat) (k : Nat) : Bool :=
  match f.stop with
  | some (.trap _ x _ _) => x == k && handler.isNone
  | _ => false

/-- Wait sets and grants of a group (R66, R67): threads that have joined a blocked or demoted front since the yield are met, and a
blocked front loses its grant. -/
def State.settleGroup (s : State) (c : Core) (g : Group) : Core :=
  let c1 := c.setGroup { g with fronts := g.fronts.map (fun f => { f with granted := f.granted && !s.frontBlocked c g f }) }
  if !c.threads.any (fun t => t.gslot == some g.slot && t.demoted) then c1
  else
    let blocked := (g.fronts.filter (s.frontBlocked c g)).flatMap (fun f => f.tslots.filter (fun k => !f.trapping g.handler k))
    let demoted := (g.fronts.filter (c.frontDemoted g)).flatMap (fun f => f.tslots)
    { c1 with threads := c1.threads.map (fun t =>
        if t.gslot == some g.slot && t.demoted then
          let old := t.waitOld.filter blocked.contains
          let w := t.waitSet.filter (fun k => !demoted.contains k && (!blocked.contains k || old.contains k))
          { t with waitSet := w, waitOld := old, demoted := !w.isEmpty }
        else t) }

/-- The launch whose spawn a pass has begun and left unfinished, with the thread it goes on at, or one whose spawn it has finished (R93, R94);
`begun` says that the pass has numbered children, in either of its fronts. A pass that stops at an unmapped page of the ring keeps no numbers:
DESIGN CHOICE (log entry 91). -/
def State.noteSpawn (s : State) (c : Core) (g : Group) (begun : Bool) (i : Issue) : State :=
  let mine := fun (x : Option (Nat × Nat × Nat × Nat)) => match x with | some (a, b, n, k) => a == i.cl && b == i.co && n == i.gs && i.front.contains k | none => false
  let first := (i.front.filterMap (fun k => (c.threadAt g k).filter (fun t => t.act == .rest))).head?
  match i.wait, first with
  | some (.spawnRing _), some t =>
    s.onLaunch g.launch (fun l => { l with spawner := if mine l.spawner || (l.spawner.isNone && begun) then some (i.cl, i.co, i.gs, t.tslot) else l.spawner })
  | _, _ => s.onLaunch g.launch (fun l => { l with spawner := if mine l.spawner then none else l.spawner })

/-- Close a pass (R46, R48, R54, R60, R66, R69): the lane is taken for its cycles, words written drain, threads move on,
fronts part and merge. `parts` are the fronts' issues with what they issued. -/
def State.closePass (s : State) (cl co lane gs : Nat) (parts : List (Next × Issue)) : State :=
  let c := s.core cl co
  let cycles := max 1 ((parts.map (fun (n, i) => passCycles n i.uniform i.done.length (i.done.length + i.skipped.length) + i.cycles)).foldl (· + ·) 0)
  let c0 := { c with lanes := assocSet {} c.lanes lane ⟨s.now + cycles, some gs⟩ }
  match c0.group? gs with
  | none => { s with cur := none }.setCore c0
  | some g =>
    let parts := sharedStall c0 g parts
    let mid := passLeft parts
    let fs := parts.foldl (fun fs (_, i) => i.fronts c0 g mid fs) g.fronts
    let drain := parts.flatMap (fun (n, i) => (passWrites c0 g n i).map (fun w => (w, s.now + cycles + 8)))
    let begun := parts.any (fun (n, i) => n.opc == 0x00C && !i.done.isEmpty)
    let s := parts.foldl (fun st (_, i) => st.noteSpawn c0 g begun i) s
    let g1 := { g with fronts := fs, drain := g.drain ++ drain }
    let c1 := s.advanceGroup (c0.setGroup g1) g1
    let slots := parts.flatMap (fun (_, i) => i.front)
    let left := slots.filter (fun k => match c1.threadAt g1 k with | some t => t.leftClause | none => false)
    let c2 := left.foldl (fun k x => k.waitMet gs x) c1
    let c3 := c2.setGroup { g1 with fronts := s.normalFronts c2 g1 slots }
    let c4 := match c3.group? gs with | some g => s.settleGroup c3 g | none => c3
    { s with cur := none }.setCore c4

/-! ### Fronts between passes -/

/-- A wait that is over lets its front go on (R63, R88, R94, R116): a barrier's phase, room in the spawn ring, a request entry, a chunk,
memory that can be reached again (R369, R376). -/
def State.waitOver (s : State) (cl co gs : Nat) (f : Front) : Bool :=
  let c := s.core cl co
  match f.wait, c.group? gs with
  | some (.bar lev who), some g => who.all (fun k => match c.threadAt g k with | some t => s.phaseDone cl co t lev | none => true)
  | some (.spawnRing n), some g =>
    (match s.launch? g.launch with
     | some l =>
       let (head, tail) := (s.cluster cl).ring l.id
       let room := if l.sra == 0 then 0 else 4096 - (tail + 2 ^ 32 - head) % 2 ^ 32
       decide (n ≤ c.freeSlots + room) && !s.spawnHeld l cl co gs ((g.fronts.filter (fun h => h.mid == f.mid)).flatMap (fun h => h.tslots))
     | none => true)
  | some .requests, some _ => decide (s.outstanding c + 1 ≤ Config.requestCount)
  | some (.away va), some g =>
    (match (s.translate cl co (s.ctxOf (((s.launch? g.launch).map (fun l => l.ctx)).getD 0)) va false).2 with
     | .ok lf => !s.stallsAt lf.phys
     | .error m => m != .wait)
  | some (.fill tid j), some _ => (match c.thread? tid with | some t => !t.spilled.contains j | none => true)
  | _, _ => false

/-- End a front's wait: its threads go on from the operation (R63). -/
def State.endWait (s : State) (cl co gs : Nat) (f : Front) : State :=
  let s1 := match f.wait with
    | some (.bar lev who) => s.clearPending cl co gs lev who
    | _ => s
  let c := s1.core cl co
  match c.group? gs with
  | none => s1
  | some g =>
    let g1 := { g with fronts := g.fronts.map (fun h => if h.tslots == f.tslots then { h with wait := none } else h) }
    let c1 := s1.advanceGroup (c.setGroup g1) g1
    let left := f.tslots.filter (fun k => match c1.threadAt g1 k with | some t => t.leftClause | none => false)
    s1.setCore (left.foldl (fun k x => k.waitMet gs x) c1)

/-- Bring the fronts of one group up to date after a step: waits that are over, splits and merges, wait sets. -/
def State.settleOne (s : State) (cl co gs : Nat) : State :=
  let c := s.core cl co
  match c.group? gs with
  | none => s
  | some g =>
    let s1 := g.fronts.foldl (fun st f => if st.waitOver cl co gs f then st.endWait cl co gs f else st) s
    let c0 := s1.core cl co
    let c1 := match c0.group? gs with | some g0 => s1.advanceGroup c0 g0 | none => c0
    match c1.group? gs with
    | none => s1
    | some g1 =>
      let c2 := c1.setGroup { g1 with fronts := s1.normalFronts c1 g1 [] }
      match c2.group? gs with
      | none => s1.setCore c2
      | some g2 => s1.setCore (s1.settleGroup c2 g2)

/-- Bring every group up to date. -/
def State.settle (s : State) : State :=
  s.cores.foldl (fun st c => c.groups.foldl (fun st g => st.settleOne c.cl c.co g.slot) st) s

end Sys2Proof.Machine
end

