-- ==== Sys2Proof/Machine/Access.lean ====
section
/-! DEFINITION. Performing what threads have issued: accesses at memory or at another thread's register, atomics at their
home, long operations landing (R58, R65, R111, R114, R119 to R126, R272 to R274, R379 to R383). -/

namespace Sys2Proof.Machine

/-! ### Local order (R50, R119, R122, R125, R126) -/

/-- Two parts share a byte. -/
def Part.meets (p q : Part) : Bool := decide (p.addr < q.addr + q.len) && decide (q.addr < p.addr + p.len)

/-- Two register accesses meet in a word. -/
def Access.meetsReg (a b : Access) : Bool :=
  match a.op.reg, b.op.reg with
  | some (c1, k1, t1, n), some (c2, k2, t2, m) =>
    c1 == c2 && k1 == k2 && t1 == t2 && decide (n < m + b.width / 4) && decide (m < n + a.width / 4)
  | _, _ => false

/-- Two accesses are of one pass, also where it has stalled or stopped between them (R6, R50). -/
def Access.samePass (a b : Access) : Bool := a.passes.any b.passes.contains

/-- An earlier access holds back a part of a later one (R50, R122); `mid` are the accesses between them. A register access
has no part. -/
def Access.holds (a : Access) (mid : List Access) (b : Access) (p : Option Part) : Bool :=
  let same := match p with
    | some q => a.parts.any (fun x => x.meets q)
    | none => a.meetsReg b
  if !a.real then false
  else if a.samePass b && a.cl == b.cl && a.co == b.co && a.gslot == b.gslot && same then true
  else if !a.sharesOwner b then false
  else
    let bNonUo := match p with | some q => q.kind != .uo | none => true
    let so := match p with | some q => q.kind == .so && a.parts.any (fun x => x.kind == .so) | none => false
    same || (a.ord == .acq && a.nonUo && bNonUo) || (b.ord == .rel && bNonUo && a.nonUo) || so ||
      mid.any (fun f => f.sharesOwner a && f.sharesOwner b && f.between a b)

/-- No earlier access of the list holds back a part. -/
def freeOf (b : Access) (p : Option Part) : List Access → Bool
  | [] => true
  | a :: l => !a.holds l b p && freeOf b p l

/-- The accesses before an access in program order. -/
def accsBefore (id : Nat) (l : List Access) : List Access := l.takeWhile (fun a => a.id != id)

/-- A pager move of a thread's chunk or trip record and an access of the thread share a byte, and so keep their order (R128). -/
def Transfer.meets (x : Transfer) (a : Access) : Bool :=
  (x.tid == a.tid || a.also.contains x.tid) && a.real && a.space == .gm &&
    decide (a.ea.toNat < x.va.toNat + 32) && decide (x.va.toNat < a.ea.toNat + a.width)

/-- A pager move that began before the access holds it back (R128). -/
def State.movedBefore (s : State) (a : Access) : Bool := (s.core a.cl a.co).xfers.any (fun x => decide (x.id < a.id) && x.meets a)

/-- The parts of an access that may be performed next; one to a peer that cannot be reached, or to a quiesced channel, waits
(R369, R376). -/
def State.partsReady (s : State) (a : Access) : List Part :=
  let pre := accsBefore a.id s.accs
  if s.movedBefore a then [] else a.parts.filter (fun p => freeOf a (some p) pre && !s.stallsAt p.addr)

/-- The chunks of words are resident (R114). -/
def chunkIn (t : Thread) (w words : Nat) : Bool := (List.range words).all (fun j => !t.spilled.contains ((w + j) / 8))

/-! ### Scopes (R118, R123) -/

/-- An acquire may be performed itself: nothing before it holds it. -/
def Access.clear (a : Access) (pre : List Access) : Bool :=
  if a.op.reg.isSome then freeOf a none pre else !a.parts.isEmpty && a.parts.all (fun x => freeOf a (some x) pre)

/-- An acquire and a part of a later access, or a later register access, share nothing that orders them beside the annotation: no byte, and not
two SO pages (R119, R122, R124). -/
def Access.apart (a b : Access) (p : Option Part) : Bool :=
  match p with
  | some q => a.parts.all (fun x => !x.meets q && !(x.kind == .so && q.kind == .so))
  | none => !a.meetsReg b

/-- Only acquires that may be performed themselves hold back a part of an access: nothing before them, and no shared byte, holds it; `ok` is asked
of each. `pre` are the accesses already passed. -/
def onlyAcquires (ok : Access → Bool) (b : Access) (p : Option Part) : List Access → List Access → Bool
  | _, [] => true
  | pre, a :: l =>
    (!a.holds l b p || (a.acquires l b (fun _ => true) && !a.samePass b && a.clear pre && a.apart b p && ok a)) &&
      onlyAcquires ok b p (pre ++ [a]) l

/-- The words of a register access are held in the register file, or belong to an ended thread whose fill has failed, of which a read gives poison
(R114; log entry 18). -/
def State.regHeld (s : State) (a : Access) : Bool :=
  match a.op.reg with
  | some (cl, co, tid, w) => (match s.thread? cl co tid with | some t => chunkIn t w (a.width / 4) || (!t.live && t.pagerFault.isSome) | none => true)
  | none => false

/-- A register access as one part. -/
def Access.regPart (a : Access) : Part := { addr := 0, len := a.width }

/-- The parts of a load, or a register load, that may be read before an earlier acquire is performed: what is read so counts only while the acquire
may not synchronise (R118, R123; log entry 90). Logged accesses are read in order. -/
def State.partsAhead (s : State) (a : Access) : List Part :=
  if a.held || s.movedBefore a then []
  else
    let pre := accsBefore a.id s.accs
    match a.op with
    | .load =>
      a.parts.filter (fun p => !s.stallsAt p.addr && !a.looked.any (fun x => x.1 == p) && !freeOf a (some p) pre && onlyAcquires (fun _ => true) a (some p) [] pre)
    | .rgLoad .. =>
      if s.regHeld a && a.looked.isEmpty && !freeOf a none pre && onlyAcquires (fun _ => true) a none [] pre then [a.regPart] else []
    | _ => []

/-- An acquire that a later write may pass: a load whose value can be settled as the write passes it. -/
def State.passable (s : State) (a : Access) : Bool :=
  !a.held && (match a.op with | .load => a.parts.all (fun p => !s.stallsAt p.addr) | .rgLoad .. => s.regHeld a | _ => false)

/-- The parts of a store, an atomic or a register store that may be performed before an earlier acquire, which then may not synchronise any more
(R118, R123; log entry 90). A release waits for every acquire before it (R122). -/
def State.partsPast (s : State) (b : Access) : List Part :=
  if b.held || b.ord != .none || s.movedBefore b then []
  else
    let pre := accsBefore b.id s.accs
    match b.op with
    | .store _ | .update .. => b.parts.filter (fun p => !s.stallsAt p.addr && !freeOf b (some p) pre && onlyAcquires s.passable b (some p) [] pre)
    | .rgStore .. => if s.regHeld b && !freeOf b none pre && onlyAcquires s.passable b none [] pre then [b.regPart] else []
    | _ => []

/-- A write that a load has missed is not before a release of the same thread for the load's thread: it is on a UO page, and no release fence whose
scope includes both threads covers it (R122, R123, R125). -/
def Missed.free (m : Missed) (w b : Access) : Bool := (w.tid == m.tid || w.also.contains m.tid) && !m.scopes.any (fun sc => includes sc w.agent b.agent)

/-- What a load has read of a part may stand though a release synchronises with an acquire before it: where a byte differs from what is there now, it
is for writes only that are not before the release (R123). -/
def State.mayKeep (s : State) (w b : Access) (x : Part × List (Nat × Byte × Bool)) : Bool :=
  !b.missed.isEmpty &&
    ((s.readPart (s.ctxOf b.ctx) x.1).2.zip x.2).all (fun (now, old) =>
      let at_ := x.1.addr + (now.1 - x.1.off)
      let mine := b.missed.filter (fun m => decide (m.addr ≤ at_) && decide (at_ < m.addr + m.data.length))
      now.2 == old.2 || (!mine.isEmpty && mine.all (fun m => m.free w b) && mine.any (fun m => m.data[at_ - m.addr]? == some now.2.1)))

/-- A release reaches bytes of an acquire. -/
def Access.meetsAt (w : Access) (p : Option Part) (a : Access) : Bool :=
  match p with
  | some q => a.parts.any (fun x => x.meets q)
  | none => a.meetsReg w

/-- A release is performed: it may synchronise with an acquire of its bytes where both their scopes include both agents, and loads behind
that acquire read anew (R123). -/
def State.releases (s : State) (w : Access) (p : Option Part) : State :=
  if w.ord != .rel then s
  else
    let meets := fun (a : Access) => w.meetsAt p a && includes w.scope w.agent a.agent && includes a.scope w.agent a.agent
    { s with accs := fixWhere meets (forgetWhere (fun a mid b => meets a && a.acquires mid b (fun sc => includes sc w.agent a.agent)) (s.mayKeep w) [] s.accs) }

/-- A write on a UO page is noted by the loads of other threads that have read its bytes ahead (R123). -/
def State.noteMissed (s : State) (a : Access) (p : Part) : State :=
  if p.kind != .uo || p.prot then s
  else
    let m : Missed := { tid := a.tid, space := a.space, ea := a.ea, width := a.width, addr := p.addr, data := s.mem.readBytes p.addr p.len }
    { s with accs := s.accs.map (fun b => if b.looked.any (fun x => x.1.meets p) && !a.sharesOwner b then { b with missed := b.missed ++ [m] } else b) }

/-! ### After an access (R65, R116) -/

/-- Give a long operation its words. -/
def State.longData (s : State) (long : Option Nat) (data : List PWord) : State :=
  match long with
  | none => s
  | some id => s.onLong id (fun l => { l with data := some (data.take l.dests.length) })

/-- A fence is kept while an earlier access of one of its owners is still to perform. -/
def dropFences : List Access → List Access → List Access
  | _, [] => []
  | pre, a :: l =>
    if a.isFence && !pre.any (fun x => x.real && x.sharesOwner a) then dropFences pre l
    else a :: dropFences (pre ++ [a]) l

/-- An access is over. -/
def State.accDone (s : State) (id : Nat) : State := { s with accs := dropFences [] (s.accs.filter (fun a => a.id != id)) }

/-- Replace an access. -/
def State.setAcc (s : State) (a : Access) : State := { s with accs := mapIf (fun x => x.id == a.id) (fun _ => a) s.accs }

/-- The target's generation has changed since the access left its core (R111). -/
def State.stale (s : State) (p : Part) : Bool :=
  match p.gen with
  | none => false
  | some (g, cl, co) => (s.core cl co).gen != g

/-- The latent error of an access, in its context's record. -/
def State.accLatent (s : State) (a : Access) (cause addr : Nat) : State := s.logLatent a.cl a.co a.ctx a.gslot a.tslot cause addr 0

/-- The flat address of a poisoned word as an engine-style address in the access (R340). -/
def Access.wordEa (a : Access) (p : Part) (w : Nat) : Nat := a.ea.toNat + p.off + 4 * w - p.addr

/-! ### Loads and stores (R119, R120, R126, R368) -/

/-- Read a part for a load: its bytes with their poison; every byte poisoned when the arrival is stale (R111). -/
def State.loadPart (s : State) (a : Access) (p : Part) : State × List (Nat × Byte × Bool) :=
  if s.stale p then (s, (List.range p.len).map (fun k => (p.off + k, 0, true)))
  else s.readPart (s.ctxOf a.ctx) p

/-- The whole of a word lies among the bytes of an access that a page holds: `p` is one of its parts there. -/
def Access.coversWord (a : Access) (p : Part) (w : Nat) : Bool := decide (p.addr ≤ 4 * w + p.off) && decide (4 * w + 4 + p.off ≤ p.addr + a.width)

/-- Write a part of a store: discarded when stale (R111). A poisoned word that the store covers only in part stays poisoned; one that it covers
loses its poison with the last of its bytes (R340, R368). -/
def State.storePart (s : State) (a : Access) (p : Part) (data : List Byte) : State :=
  if s.stale p then s.accLatent a 0x085 a.ea.toNat
  else
    let bad := s.partlyPoisoned p
    let s1 := s.writePart (s.ctxOf a.ctx) p data
    bad.foldl (fun st w =>
      if !a.coversWord p w then st.accLatent a 0x13A (a.wordEa p w)
      else if a.parts.any (fun x => x != p && x.meets { p with addr := 4 * w, len := 4 }) then st
      else { st with poison := st.poison.filter (· != w) }) s1

/-- A part is performed: it leaves the access, which is over when none is left. -/
def State.partDone (s : State) (a : Access) (p : Part) (got : List (Nat × Byte × Bool)) : State :=
  let a' := { a with parts := a.parts.filter (· != p), got := a.got ++ got }
  if a'.parts.isEmpty then
    match a.op with
    | .load => (s.longData a.long (loadWords a.sext a.width a'.got)).accDone a.id
    | _ => s.accDone a.id
  else s.setAcc a'

/-! ### The register aperture (R113, R114) -/

/-- A register access may be performed: nothing earlier holds it, and its words are held. -/
def State.regReady (s : State) (a : Access) : Bool := freeOf a none (accsBefore a.id s.accs) && s.regHeld a

/-- The words that a register access reads. -/
def State.regWords (s : State) (a : Access) : List PWord :=
  match a.op with
  | .rgLoad cl co tid w =>
    (match s.thread? cl co tid with
     | some t => (List.range (a.width / 4)).map (fun j => if t.spilled.contains ((w + j) / 8) then ⟨0, true⟩ else assocGet ⟨0, false⟩ t.stk (w + j))
     | none => List.replicate (a.width / 4) ⟨0, true⟩)
  | _ => []

/-- Words as the bytes of a part. -/
def wordBytes (l : List PWord) : List (Nat × Byte × Bool) :=
  (l.flatMap (fun x => (leBytes 4 x.val.toNat).map (fun b => (b, x.poison)))).zipIdx.map (fun (x, k) => (k, x.1, x.2))

/-- Read a part, or the words of a register load, as they are now. -/
def State.lookPart (s : State) (a : Access) (p : Part) : State × List (Nat × Byte × Bool) :=
  if a.op.reg.isSome then (s, wordBytes (s.regWords a)) else s.loadPart a p

/-- A load takes a part: what is settled for it since a later access has passed it, what it has read before an acquire that did not synchronise,
or the bytes as they are now. -/
def State.takePart (s : State) (a : Access) (p : Part) : State × List (Nat × Byte × Bool) :=
  match (if a.fixed then a.passed else a.looked).find? (fun x => x.1 == p) with
  | some (_, got) => (s, got)
  | none => s.lookPart a p

/-- Perform a register access at the stack word that it arrived at (R114); its thread keeps its slot until then (log entry 18). -/
def State.regAccess (s : State) (a : Access) : State :=
  match a.op with
  | .rgLoad .. => let (s1, got) := s.takePart a a.regPart; (s1.longData a.long (loadWords false a.width got)).accDone a.id
  | .rgStore cl co tid w data =>
    (((s.onThread cl co tid (fun x => data.zipIdx.foldl (fun x (d, j) => x.setStk (w + j) ⟨d, false⟩) x)).releases a none).longData a.long []).accDone a.id
  | _ => s

/-! ### Replay at a home (R379 to R383) -/

/-- Parts that are performed at once: one that is not logged, or those of a home that logs them, each once (R379, R380). -/
abbrev PerformUnit : Type := List Part × Option (Nat × Nat × Nat)

/-- All parts of an access at a home that logs it may be performed next. -/
def State.homeReady (s : State) (a : Access) (h : Nat × Nat × Nat) : Bool := (a.partsAt h).all (s.partsReady a).contains

/-- What of an access may be performed next. At a home that logs it, it waits in record mode for room in the ring (R381); in replay mode its gate
performs it (R383). -/
def State.unitsReady (s : State) (a : Access) : List PerformUnit :=
  ((s.partsReady a).filter (fun p => !a.gated p)).map (fun p => ([p], none)) ++
    (a.homes.filter (fun h => s.homeReady a h && (match s.session? a.ctx with | none => true | some x => x.record && (x.truncated || x.room)))).map
      (fun h => (a.partsAt h, some h))

/-! ### ACCESS_PERFORM (R120) -/

/-- An access that ACCESS_PERFORM may perform now. -/
def State.accReady (s : State) (a : Access) : Bool :=
  match a.op with
  | .load | .store _ => !((s.unitsReady a).isEmpty && (s.partsAhead a).isEmpty && (s.partsPast a).isEmpty)
  | .rgLoad .. | .rgStore .. => s.regReady a || !((s.partsAhead a).isEmpty && (s.partsPast a).isEmpty)
  | .prefetch => true
  | .publish _ after => !s.accs.any (fun x => after.contains x.id)
  | _ => false

/-- A barrier arrival or a spawn has become known: the arrival may complete its phase, the children may be filed (R88, R93, R219). -/
def State.published (s : State) (a : Access) (w : Published) : State :=
  let s1 := s.accDone a.id
  match w with
  | .arrival launch lev unit => s1.barrierCheck a.cl a.co launch lev unit
  | .children .. => s1

/-- One of a list, by an open choice. -/
def State.pick {α : Type} (s : State) (l : List α) : Option α × State :=
  match l with
  | [] => (none, s)
  | [x] => (some x, s)
  | l => let (n, s1) := s.choose; (l[n % l.length]?, s1)

/-- A load reads a part before an earlier acquire. -/
def State.lookAhead (s : State) (a : Access) (p : Part) : State :=
  let (s1, got) := s.lookPart a p
  s1.setAcc { a with looked := a.looked ++ [(p, got)] }

/-- An acquire is passed by a later access: what it would read now is kept, for the case that it could synchronise before it is performed. -/
def State.passAcquire (s : State) (a : Access) : State :=
  if !a.passed.isEmpty then s
  else
    let (s1, l) := (if a.op.reg.isSome then [a.regPart] else a.parts).foldl (fun (acc : State × List (Part × List (Nat × Byte × Bool))) p =>
      let (st, got) := acc.1.lookPart a p
      (st, acc.2 ++ [(p, got)])) (s, [])
    s1.setAcc { a with passed := l }

/-- The earlier accesses of a list that hold back a part. -/
def holders (b : Access) (p : Option Part) : List Access → List Access
  | [] => []
  | a :: l => if a.holds l b p then a :: holders b p l else holders b p l

/-- A store, an atomic or a register store passes the acquires that hold it. -/
def State.passAll (s : State) (b : Access) (p : Option Part) : State := (holders b p (accsBefore b.id s.accs)).foldl State.passAcquire s

/-- Perform one part of a load or store. -/
def State.performPart (s : State) (id : Nat) (p : Part) : State :=
  match s.acc? id with
  | none => s
  | some a =>
    match a.op with
    | .store data => ((((s.storePart a p data).noteMissed a p).releases a (some p))).partDone a p []
    | .load => let (s1, got) := s.takePart a p; s1.partDone a p got
    | _ => s

/-- Perform the parts of a unit; a home that logs the access logs it once (R379, R380). -/
def State.performUnit (s : State) (a : Access) (u : PerformUnit) : State :=
  u.1.foldl (fun st p => st.performPart a.id p) (match u.2 with | some h => s.logAt a.ctx h a.key a.who | none => s)

/-- ACCESS_PERFORM: one part of a load or store, what a home logs of it, or a register access, is performed (R114, R119, R120, R126), or a part of
a load is read ahead of an acquire, or a part of a store performed ahead of one (R123); a line that a prefetch asked for arrives (R116, R270); what
the accesses before it published becomes known. -/
def execAccessPerform (id : Nat) (s : State) : Host.Outcome State Fault Refusal :=
  match s.acc? id with
  | none => .refused .notEnabled
  | some a =>
    if !s.accReady a then .refused .notEnabled
    else
      match a.op with
      | .prefetch => .next (s.accDone a.id)
      | .publish w _ => .next (s.published a w)
      | .rgLoad .. => .next (if s.regReady a then s.regAccess a else s.lookAhead a a.regPart)
      | .rgStore .. => .next (if s.regReady a then s.regAccess a else (s.passAll a none).regAccess a)
      | _ =>
        match s.pick (s.unitsReady a) with
        | (some u, s1) => .next (s1.performUnit a u)
        | (none, _) =>
          match s.pick (s.partsAhead a), s.pick (s.partsPast a) with
          | (some p, s1), _ => .next (s1.lookAhead a p)
          | _, (some p, s1) => .next ((s1.passAll a (some p)).performUnit a ([p], none))
          | _, _ => .refused .notEnabled

/-! ### HOME_ATOMIC_PERFORM (R272 to R274) -/

/-- The old value's words, or poisoned ones. -/
def oldWords (width old : Nat) (poison : Bool) : List PWord :=
  (List.range (width / 4)).map (fun j => ⟨BitVec.ofNat 32 (old / 2 ^ (32 * j)), poison⟩)

/-- Perform an update at the home of its word: a stale arrival or a poisoned word is not updated (R111, R272, R273, R274). A reduction that finds a
poisoned word logs a latent error; an atomic gives it to its destination, where it has one (R272, R273, R340, R368). -/
def State.homeAtomic (s : State) (a : Access) (p : Part) (op : Nat) (b c : DWord) (red : Bool) : State :=
  if s.stale p then ((s.longData a.long (oldWords a.width 0 true)).accLatent a 0x086 a.ea.toNat).hashSettled a false
  else if s.poisoned p.addr p.len then
    (match red, (wordsOf p.addr p.len).find? s.poison.contains with
     | true, some w => s.accLatent a 0x139 (a.wordEa p w)
     | _, _ => s.longData a.long (oldWords a.width (s.mem.readLe p.addr p.len) true)).hashSettled a false
  else
    let old := s.mem.readLe p.addr p.len
    let s1 := s.longData a.long (oldWords a.width old false)
    match atomNew op (8 * p.len) old b.toNat c.toNat with
    | none => s1.hashSettled a false
    | some x => ((s1.storeLe p.addr p.len x).noteMissed a p).hashSettled a true

/-- What of an update may be performed at its home, and whether it passes acquires. -/
def State.updateReady (s : State) (a : Access) : Option (PerformUnit × Bool) :=
  match a.op with
  | .update .. =>
    (match s.unitsReady a, s.partsPast a with
     | u :: _, _ => some (u, false)
     | [], p :: _ => some (([p], none), true)
     | _, _ => none)
  | _ => none

/-- An update that HOME_ATOMIC_PERFORM may perform now. -/
def State.atomReady (s : State) (a : Access) : Bool := (s.updateReady a).isSome

/-- Perform an update at its word's home. -/
def State.performUpdate (s : State) (a : Access) (p : Part) : State :=
  match a.op with
  | .update op b c red => ((s.homeAtomic a p op b c red).releases a (some p)).accDone a.id
  | _ => s

/-- HOME_ATOMIC_PERFORM: one atomic or reduction at its word's home (R274). -/
def execHomeAtomicPerform (id : Nat) (s : State) : Host.Outcome State Fault Refusal :=
  match s.acc? id with
  | none => .refused .notEnabled
  | some a =>
    match s.updateReady a, a.parts with
    | some (u, past), p :: _ =>
      let s1 := if past then s.passAll a (some p) else s
      .next ((match u.2 with | some h => s1.logAt a.ctx h a.key a.who | none => s1).performUpdate a p)
    | _, _ => .refused .notEnabled

/-! ### LONG_OP_LANDS (R65, R216) -/

/-- Write one landed word: a stack word of the thread, or a group register. -/
def landWord (c : Core) (l : LongOp) (d : Dest) (x : PWord) : Core :=
  match d with
  | .v w => c.onThread l.tid (fun t => t.setStk w x)
  | .g n => c.onGroup l.gslot (fun g => g.setGP n x)

/-- A completion flag counts one operation fewer. -/
def Group.clearFlag (g : Group) (f : Option Nat) : Group :=
  match f with
  | none => g
  | some k => { g with flags := assocSet 0 g.flags k (assocGet 0 g.flags k - 1) }

/-- A long operation lands: its words are written, its flag is counted down (R65); nothing is kept of a thread that has ended. -/
def State.landLong (s : State) (l : LongOp) (data : List PWord) : State :=
  let c := s.core l.cl l.co
  let c1 := (l.dests.zip data).foldl (fun k (d, x) => landWord k l d x) c
  { (s.setCore (c1.onGroup l.gslot (fun g => g.clearFlag l.flag))) with longs := s.longs.filter (fun x => x.id != l.id) }

/-- A long operation may land: its data is there, and the threads of a front that are to go on together see one value of the group's
registers (R35, R60). -/
def State.mayLandLong (s : State) (l : LongOp) : Bool :=
  l.data.isSome &&
    (!l.dests.any (fun d => match d with | .g _ => true | .v _ => false) ||
      (let c := s.core l.cl l.co
       match c.group? l.gslot with | some g => !s.movesDue c g | none => true))

/-- LONG_OP_LANDS (R65). -/
def execLongOpLands (id : Nat) (s : State) : Host.Outcome State Fault Refusal :=
  match s.long? id with
  | none => .refused .notEnabled
  | some l =>
    match l.data with
    | none => .refused .notEnabled
    | some data => if s.mayLandLong l then .next (s.landLong l data) else .refused .notEnabled

/-- The access steps that may be taken. -/
def State.accessSteps (s : State) : List Instr :=
  (s.accs.filter s.accReady).map (fun a => .accessPerform a.id) ++
    (s.accs.filter s.atomReady).map (fun a => .homeAtomicPerform a.id) ++
    (s.longs.filter s.mayLandLong).map (fun l => .longOpLands l.id)

end Sys2Proof.Machine
end

