-- ==== Sys2Proof/Machine/Pager.lean ====
section
/-! DEFINITION. The window pager: chunks and trip records between the register file and a thread's stack region
(R75, R78 to R82, R359). -/

namespace Sys2Proof.Machine

/-! ### Chunks (R75, R79) -/

/-- The word above a thread's current window (R70). -/
def State.topOf (s : State) (t : Thread) : Nat := t.wb + s.frameOf t

/-- The word above every frame of a thread: a callee's frame may end below its caller's (R70). -/
def State.heldTop (s : State) (t : Thread) : Nat := max (s.topOf t) (greatest t.tops)

/-- Chunks of a thread that the register file holds; a thread that no group has held yet holds none (R79). -/
def State.chunksHeld (s : State) (t : Thread) : Nat :=
  if t.fresh then 0 else s.heldTop t / 8 - (t.spilled.filter (fun j => decide (8 * j < s.heldTop t))).length

/-- Free chunks of a core's register file (R79). -/
def State.freeChunks (s : State) (c : Core) : Nat := Config.chunkCount - (c.threads.map s.chunksHeld).foldl (· + ·) 0

/-- The address of a chunk's image, or of a trip record (R75, R78). -/
def itemVa (t : Thread) : PagerItem → Nat
  | .chunk j => t.sptr.toNat + t.p + 32 * j
  | .trip j => t.slim.toNat + 32 * j

/-- The words of a chunk. -/
def chunkWords (t : Thread) (j : Nat) : List PWord := (List.range 8).map (fun i => assocGet ⟨0, false⟩ t.stk (8 * j + i))

/-- A trip record as eight words: the counter of the i-th loop at bit 17 i (R78). -/
def tripWords (l : List Nat) : List PWord :=
  let n := (l.zipIdx.map (fun (x, i) => x % 2 ^ 17 * 2 ^ (17 * i))).foldl (· + ·) 0
  (List.range 8).map (fun i => ⟨BitVec.ofNat 32 (n / 2 ^ (32 * i)), false⟩)

/-- What an item holds as words. -/
def itemWords (t : Thread) : PagerItem → List PWord
  | .chunk j => chunkWords t j
  | .trip j => tripWords (assocGet [] t.tripRecs j)

/-- The item is not in the register file. -/
def itemOut (t : Thread) : PagerItem → Bool
  | .chunk j => t.spilled.contains j
  | .trip j => t.tripSpilled.contains j

/-- Mark an item as out of the register file, or as held in it. -/
def markOut (t : Thread) (x : PagerItem) (out : Bool) : Thread :=
  match x with
  | .chunk j => { t with spilled := if out then setInsert t.spilled j else t.spilled.filter (· != j) }
  | .trip j => { t with tripSpilled := if out then setInsert t.tripSpilled j else t.tripSpilled.filter (· != j) }

/-! ### Words with poison between registers and memory (R58, R80) -/

/-- Write words to an item's address; a poisoned word becomes a poisoned memory word (R80). -/
def State.itemWrite (s : State) (cl co : Nat) (c : Context) (va : Nat) (l : List PWord) : State × Except PageFault Unit :=
  match s.checkGm cl co c ⟨1, false, true, c.prot⟩ va (4 * l.length) with
  | (s1, .error f) => (s1, .error f)
  | (s1, .ok ps) =>
    if ps.any (fun p => s1.stallsAt p.addr) then (s1, .error (.unreachable va)) else
    let data := l.flatMap (fun x => leBytes 4 x.val.toNat)
    let s2 := ps.foldl (fun st p => st.writePart c p data) s1
    let bad := l.zipIdx.filter (fun x => x.1.poison)
    (ps.foldl (fun st p => bad.foldl (fun st (_, i) =>
      if p.off ≤ 4 * i && 4 * i < p.off + p.len then st.poisonBytes (p.addr + 4 * i - p.off) 4 else st) st) s2, .ok ())

/-- The words of bytes with their poison. -/
def wordsWithPoison : List (Byte × Bool) → List PWord
  | a :: b :: c :: d :: l =>
    ⟨BitVec.ofNat 32 (leNat [a.1, b.1, c.1, d.1]), a.2 || b.2 || c.2 || d.2⟩ :: wordsWithPoison l
  | _ => []

/-- Read an item's eight words; a poisoned memory word, or a tag mismatch, gives poisoned words (R80, R359). -/
def State.itemRead (s : State) (cl co : Nat) (c : Context) (va : Nat) : State × Except PageFault (List PWord) :=
  match s.checkGm cl co c ⟨0, true, false, c.prot⟩ va 32 with
  | (s1, .error f) => (s1, .error f)
  | (s1, .ok ps) =>
    if ps.any (fun p => s1.stallsAt p.addr) then (s1, .error (.unreachable va)) else
    let (s2, l) := ps.foldl (fun (acc : State × List (Byte × Bool)) p =>
      let (st, x) := acc.1.readPart c p
      (st, acc.2 ++ x.map (fun y => (y.2.1, y.2.2)))) (s1, [])
    (s2, .ok (wordsWithPoison l))

/-- Put the words of a chunk into the register file. -/
def putChunk (t : Thread) (j : Nat) (l : List PWord) : Thread := l.zipIdx.foldl (fun u (x, i) => u.setStk (8 * j + i) x) t

/-- The counters of a trip record's words (R78): 0 for a counter of which a poisoned word holds a bit. -/
def tripsOfWords (count : Nat) (l : List PWord) : List Nat :=
  let n := (l.zipIdx.map (fun (x, i) => x.val.toNat * 2 ^ (32 * i))).foldl (· + ·) 0
  let lost := fun i => [17 * i / 32, (17 * i + 16) / 32].any (fun w => (l[w]?.map (fun x => x.poison)).getD false)
  (List.range count).map (fun i => if lost i then 0 else bits n (17 * i) 17)

/-- Bring an item into the register file. The record that a tret is to reload gives the thread's own counters (R78, R224). -/
def putItem (t : Thread) (x : PagerItem) (l : List PWord) : Thread :=
  match x with
  | .chunk j => markOut (putChunk t j l) x false
  | .trip j =>
    if j = t.calls.length then
      let counts := tripsOfWords t.trips.length l
      markOut { t with trips := t.trips.zipIdx.map (fun (y, i) => (y.1, counts.getD i 0)), tripRecs := assocSet [] t.tripRecs j [] } x false
    else markOut { t with tripRecs := assocSet [] t.tripRecs j (tripsOfWords (assocGet [] t.tripRecs j).length l) } x false

/-- The words of a chunk leave the register file. -/
def dropItem (t : Thread) : PagerItem → Thread
  | .chunk j => putChunk t j (List.replicate 8 ⟨0, false⟩)
  | .trip _ => t

/-! ### Victims and needs (R80) -/

/-- No transfer of the item is under way. -/
def Core.idleItem (c : Core) (tid : Nat) (x : PagerItem) : Bool := !c.xfers.any (fun y => y.tid == tid && y.item == x)

/-- A long operation will write a word of the chunk. -/
def State.chunkAwaited (s : State) (tid j : Nat) : Bool :=
  (s.longsOf tid).any (fun l => l.dests.any (fun d => match d with | .v w => w / 8 == j | .g _ => false))

/-- A word of the thread that a pass wrote is still within its drain, so that it takes part in a pass (R48, R80). -/
def Core.inPass (c : Core) (now : Nat) (t : Thread) : Bool :=
  match t.gslot.bind c.group? with
  | none => false
  | some g => g.drain.any (fun x => decide (now < x.2) && (match x.1 with | .v u _ => u == t.tid | .p u _ => u == t.tid | _ => false))

/-- The chunks from lo to below hi of a thread that may be spilled. -/
def State.spillable (s : State) (c : Core) (t : Thread) (lo hi : Nat) : List (Nat × PagerItem) :=
  ((List.range' lo (hi - lo)).filter (fun j => !t.spilled.contains j && c.idleItem t.tid (.chunk j) && !s.chunkAwaited t.tid j)).map
    (fun j => (t.tid, PagerItem.chunk j))

/-- The trip records of a thread that may be spilled. -/
def Core.spillableTrips (c : Core) (t : Thread) : List (Nat × PagerItem) :=
  ((t.tripRecs.map Prod.fst).filter (fun j => !t.tripSpilled.contains j && c.idleItem t.tid (.trip j))).map (fun j => (t.tid, PagerItem.trip j))

/-- The threads whose chunks may be spilled: those that hold chunks, with no failed move to report, and not in a pass. -/
def State.spillThreads (s : State) (c : Core) : List Thread :=
  c.threads.filter (fun t => !t.fresh && t.live && t.pagerFault.isNone && !c.inPass s.now t)

/-- The threads of fronts that are blocked, or of those that are not. -/
def State.threadsOfFronts (s : State) (c : Core) (blocked : Bool) : List Thread :=
  (s.spillThreads c).filter (fun t =>
    match t.gslot.bind c.group? with
    | none => false
    | some g => g.fronts.any (fun f => f.tslots.contains t.tslot && s.frontBlocked c g f == blocked))

/-- What the pager may spill: the first group of R80 that has a victim. -/
def State.victims (s : State) (c : Core) : List (Nat × PagerItem) :=
  if Config.spillLevel ≤ s.freeChunks c then []
  else
    let one := (s.spillThreads c).flatMap (fun t => s.spillable c t 0 (t.wb / 8) ++ s.spillable c t (s.topOf t / 8) (s.heldTop t / 8) ++ c.spillableTrips t)
    if !one.isEmpty then one
    else
      let two := (s.threadsOfFronts c true).flatMap (fun t => s.spillable c t (t.wb / 8) (s.topOf t / 8))
      if !two.isEmpty then two
      else (s.threadsOfFronts c false).flatMap (fun t => s.spillable c t (t.wb / 8) (s.topOf t / 8))

/-- The chunks that register accesses of other threads wait for (R114), and those that passes have stalled for. -/
def State.soughtChunks (s : State) (c : Core) : List (Nat × Nat) :=
  s.accs.flatMap (fun a =>
    match a.op.reg with
    | some (cl, co, tid, w) => if cl == c.cl && co == c.co then (List.range (a.width / 4)).map (fun i => (tid, (w + i) / 8)) else []
    | none => [])

/-- The items a thread needs in the register file: its window, the trip record that its tret reloads, and what its return reads (R78 to R80). -/
def State.neededItems (s : State) (t : Thread) : List PagerItem :=
  let link := if t.act == .ret && t.wb != 0 then [(t.wb - 4) / 8] else []
  let trip := if t.act == .ret && !t.calls.isEmpty then [PagerItem.trip (t.calls.length - 1)] else []
  (chunksOf t.wb (s.frameOf t) ++ link).map PagerItem.chunk ++ trip ++ [PagerItem.trip t.calls.length]

/-- The chunk that a front's pass has stalled for. -/
def Front.fillOf (f : Front) : Option (Nat × Nat) := match f.wait with | some (.fill tid j) => some (tid, j) | _ => none

/-- The fills that are needed now. -/
def State.needs (s : State) (c : Core) : List (Nat × PagerItem) :=
  let own := (c.threads.filter (fun t => !t.fresh && t.live && (t.gslot.isSome || t.due) && t.pagerFault.isNone)).flatMap
    (fun t => ((s.neededItems t).filter (fun x => itemOut t x && c.idleItem t.tid x)).map (fun x => (t.tid, x)))
  let stalled := c.groups.flatMap (fun g => g.fronts.filterMap Front.fillOf)
  let sought := (s.soughtChunks c ++ stalled).filterMap (fun (tid, j) =>
    match c.thread? tid with
    | some t => if t.spilled.contains j && c.idleItem tid (.chunk j) && t.pagerFault.isNone then some (tid, PagerItem.chunk j) else none
    | none => none)
  (own ++ sought).eraseDups

/-! ### CHUNK_SPILL, CHUNK_FILL, CHUNK_TRANSFER_DONE -/

/-- Start a transfer of an item. -/
def State.startXfer (s : State) (cl co : Nat) (t : Thread) (x : PagerItem) (fill : Bool) : State :=
  let (id, s1) := s.freshId
  s1.onCore cl co (fun c =>
    let c1 : Core := { c with xfers := c.xfers ++ [{ id := id, tid := t.tid, item := x, fill := fill, va := BitVec.ofNat 64 (itemVa t x) }] }
    if fill then { c1 with wants := c1.wants.filter (· != (t.tid, x)) }
    else c1.onThread t.tid (fun u => ({ markOut u x true with respill := if u.respill == some x then none else u.respill } : Thread)))

/-- CHUNK_SPILL: the pager begins to write a victim to its image, or a chunk whose spill has failed (R80, R81). -/
def execChunkSpill (cl co t : Nat) (x : PagerItem) (s : State) : Host.Outcome State Fault Refusal :=
  let c := s.core cl co
  match c.thread? t with
  | none => .refused .notEnabled
  | some th => if ((s.victims c).contains (t, x) || (th.respills && th.respill == some x && c.idleItem t x)) && decide (s.outstanding c < Config.requestCount) then .next (s.startXfer cl co th x false) else .refused .notEnabled

/-- The item may be filled: it is out, no transfer of it is under way, a chunk is free for it, and no fill was asked for before it (R80); of a
thread that has ended, what a register access that had arrived at it waits for (R114). -/
def State.fillReady (s : State) (c : Core) (t : Thread) (x : PagerItem) : Bool :=
  (match c.wants.head? with | some y => y == (t.tid, x) | none => true) && itemOut t x && c.idleItem t.tid x && !t.fresh && (t.live || (match x with | .chunk j => (s.soughtChunks c).contains (t.tid, j) | .trip _ => false)) &&
    decide (0 < s.freeChunks c) && decide (s.outstanding c < Config.requestCount)

/-- CHUNK_FILL: the pager begins to read an item from its image (R80). -/
def execChunkFill (cl co t : Nat) (x : PagerItem) (s : State) : Host.Outcome State Fault Refusal :=
  let c := s.core cl co
  match c.thread? t with
  | none => .refused .notEnabled
  | some th => if s.fillReady c th x then .next (s.startXfer cl co th x true) else .refused .notEnabled

/-- The class-10 cause of a failed move (R81, R339). -/
def xferCause (fill : Bool) (f : PageFault) : Nat :=
  (if fill then 0xAC else 0xA8) + (match f with | .translation true _ => 0 | .permission _ => 1 | .protection _ | .unreachable _ => 2 | .translation false _ => 3)

/-- A move that met a fault (R81): it stalls on an unmapped page in resolve mode, and while a peer cannot be reached;
else the thread traps when it next issues. -/
def State.xferFault (s : State) (cl co : Nat) (x : Transfer) (c : Context) (f : PageFault) : State :=
  match f, c.trapMode with
  | .unreachable _, _ => s
  | .translation true va, false =>
    let (id, s1) := s.freshId
    { s1 with stalls := s1.stalls ++ [{ id := id, part := s1.partOfCluster cl, cl := cl, ctx := c.ctx, va := va, src := 2,
                                        acc := if x.fill then .read else .write, who := some (co, x.tid, x.id) }] }
  | f, _ =>
    s.onCore cl co (fun k =>
      { k with xfers := k.xfers.filter (fun y => y.id != x.id) }.onThread x.tid (fun t =>
        { (if x.fill then t else { (markOut t x.item false : Thread) with respill := some x.item }) with pagerFault := some (xferCause x.fill f, x.va) }))

/-- The transfer is not stalled on a page, and no access of its thread that began before it shares a byte with it (R128). -/
def State.xferFree (s : State) (x : Transfer) : Bool :=
  !s.accs.any (fun a => decide (a.id < x.id) && x.meets a) && !s.stalls.any (fun y => y.src == 2 && !y.saving && (match y.who with | some (_, _, i) => i == x.id | none => false))

/-- A filled trip record that is poisoned restarts its counters and logs a latent error (R78). R340 has no place for such a record: the
model logs 0x133, a v word with the role of a node operand: DESIGN CHOICE (log entry 80). -/
def State.tripLatent (s : State) (cl co : Nat) (t : Thread) (ctx : Nat) (x : Transfer) (l : List PWord) : State :=
  match x.item with
  | .trip _ => if l.any (fun w => w.poison) then s.logLatent cl co ctx (t.gslot.getD 0) t.tslot 0x133 x.va.toNat t.path.encode else s
  | .chunk _ => s

/-- A poisoned word that a spill finds is read by no thread: it logs a latent error, as a v word with role 0, at its image address (R58; log
entry 80). -/
def State.spillLatent (s : State) (cl co : Nat) (t : Thread) (ctx va : Nat) (l : List PWord) : State :=
  (l.zipIdx.filter (fun y => y.1.poison)).foldl (fun st y =>
    st.logLatent cl co ctx (t.gslot.getD 0) t.tslot 0x130 (va + 4 * y.2) t.path.encode) s

/-- CHUNK_TRANSFER_DONE: the words arrive in memory or in the register file (R58, R80, R81). A move whose chunk the thread has
given up meanwhile has no effect. -/
def execChunkTransferDone (id : Nat) (s : State) : Host.Outcome State Fault Refusal :=
  match s.cores.find? (fun c => c.xfers.any (fun x => x.id == id)) with
  | none => .refused .notEnabled
  | some c =>
    match c.xfers.find? (fun x => x.id == id) with
    | none => .refused .notEnabled
    | some x =>
      if !s.xferFree x then .refused .notEnabled
      else
        let s0 := s.onCore c.cl c.co (fun k => { k with xfers := k.xfers.filter (fun y => y.id != id) })
        match c.thread? x.tid with
        | none => .next s0
        | some t =>
          if !itemOut t x.item then .next s0
          else
            let ctx := (s.launch? t.launch).map (fun l => l.ctx)
            let cx := s.ctxOf (ctx.getD 0)
            if x.fill then
              match s.itemRead c.cl c.co cx x.va.toNat with
              | (s1, .error f) => .next (s1.xferFault c.cl c.co x cx f)
              | (s1, .ok l) =>
                .next (((s1.tripLatent c.cl c.co t cx.ctx x l).onCore c.cl c.co (fun k => { k with xfers := k.xfers.filter (fun y => y.id != id) })).onThread
                  c.cl c.co x.tid (fun u => putItem u x.item l))
            else
              match s.itemWrite c.cl c.co cx x.va.toNat (itemWords t x.item) with
              | (s1, .error f) => .next (s1.xferFault c.cl c.co x cx f)
              | (s1, .ok _) =>
                .next (((s1.spillLatent c.cl c.co t cx.ctx x.va.toNat (itemWords t x.item)).onCore c.cl c.co (fun k => { k with xfers := k.xfers.filter (fun y => y.id != id) })).onThread
                  c.cl c.co x.tid (fun u => dropItem u x.item))

/-- The fills that are needed keep the order in which they were first asked for (R80). -/
def State.askFills (s : State) : State :=
  { s with cores := s.cores.map (fun c =>
      let l := s.needs c
      if l.isEmpty && c.wants.isEmpty then c else { c with wants := c.wants.filter l.contains ++ l.filter (fun x => !c.wants.contains x) }) }

/-- The steps of the pager that may be taken. -/
def State.pagerSteps (s : State) : List Instr :=
  s.cores.flatMap (fun c =>
    (s.victims c).map (fun (t, x) => .chunkSpill c.cl c.co t x) ++
    (c.threads.filter (fun t => t.respills && (match t.respill with | some x => c.idleItem t.tid x | none => false))).flatMap (fun t =>
      (t.respill.map (fun x => Instr.chunkSpill c.cl c.co t.tid x)).toList) ++
    ((s.needs c).filter (fun (t, x) => match c.thread? t with | some th => s.fillReady c th x | none => false)).map (fun (t, x) => .chunkFill c.cl c.co t x) ++
    (c.xfers.filter s.xferFree).map (fun x => .chunkTransferDone x.id))

end Sys2Proof.Machine
end

