-- ==== Sys2Proof/Machine/Moves.lean ====
section
/-! DEFINITION. What threads do between operations: node moves, calls and returns, REFORM and safe points, the fetch of a
segment, and the delivery of traps (R34 to R44, R71 to R74, R78, R99 to R102, R209, R212, R215, R221, R299, R343 to R346). -/

namespace Sys2Proof.Machine

/-! ### Stopping at a node (R43, R69, R212) -/

/-- The thread joins the first stopped front that stands at its place; none when there is none. -/
def joinStopped (c : Core) (g : Group) (t : Thread) : List Front → Option (List Front)
  | [] => none
  | f :: l =>
    let here := f.stop.isSome && (match f.tslots.head?.bind (c.threadAt g) with | some u => sameSpot t u | none => false)
    if here then some ({ f with tslots := setInsert f.tslots t.tslot } :: l) else (joinStopped c g t l).map (f :: ·)

/-- A thread of a group stops at a position: it leaves its front for the one stopped there, or for a front of its own. -/
def Core.stopThread (c : Core) (t : Thread) (st : Stop) : Core :=
  match t.gslot with
  | none => c.setThread { t with fileAct := t.act, act := .file }
  | some gs =>
    let c1 := c.setThread t
    c1.onGroup gs (fun g =>
      let fs := dropSlot t.tslot g.fronts
      { g with fronts := (joinStopped c1 g t fs).getD (fs ++ [({ tslots := [t.tslot], stop := some st } : Front)]) })

/-- Stop a thread with a cause at its position; position qualifier 0 (R212). -/
def Core.trapThread (c : Core) (t : Thread) (cause : Nat) (addr : DWord) : Core := c.stopThread t (.trap cause t.tslot addr t.path)

/-- Stop a thread on a page fault of a write made on its behalf (R101): stalled in resolve mode, with the SRC of R334, else class 4, 5
or 6; a write to a peer that cannot be reached is made again (R376). -/
def State.stopOnPage (s : State) (cl co src : Nat) (c : Context) (t : Thread) (f : PageFault) : State :=
  match pageHalt c 1 f with
  | .trap base _ addr => s.setCore ((s.core cl co).trapThread t base addr)
  | .page va acc =>
    let (id, s1) := s.freshId
    let st : Stall := { id := id, part := s1.partOfCluster cl, cl := cl, ctx := c.ctx, va := va, src := src, acc := acc, who := some (co, t.gslot.getD 64, t.tslot), saving := src == 2 }
    let s2 : State := { s1 with stalls := s1.stalls ++ [st] }
    s2.setCore ((s2.core cl co).stopThread t (.stall id))
  | .ring _ | .room | .fill .. | .away _ | .seen .. => s

/-- How a thread stops for a fetch fault at an item of a procedure (R209, R334): a stall of SRC 1 where an answer may resolve it, else its
cause, which is reported at the item. -/
def State.fetchStop (s : State) (cl co : Nat) (t : Thread) (proc : Nat) (e : FetchFault) : State × Stop :=
  let item : Path := ⟨proc, e.digits, e.op⟩
  let ctx := ((s.launch? t.launch).map (fun l => l.ctx)).getD 0
  if e.resolve && !(s.ctxOf ctx).trapMode then
    let (id, s1) := s.freshId
    let st : Stall :=
      { id := id, part := s1.partOfCluster cl, cl := cl, ctx := ctx, va := e.addr, src := 1, acc := .fetch, who := some (co, t.gslot.getD 64, t.tslot), item := some item }
    ({ s1 with stalls := s1.stalls ++ [st] }, .stall id)
  else (s, .trap e.cause t.tslot (BitVec.ofNat 64 e.addr) item)

/-- Stop a thread at a fetch fault; one that no group holds meets it again once it is in a group. -/
def State.stopFetch (s : State) (cl co : Nat) (t : Thread) (proc : Nat) (e : FetchFault) : State :=
  if t.gslot.isNone then s.setCore ((s.core cl co).setThread { t with fileAct := t.act, act := .file })
  else
    let (s1, st) := s.fetchStop cl co t proc e
    s1.setCore ((s1.core cl co).stopThread t st)

/-- A thread reports the failed chunk move of its window, at the position it rests at (R81); one that no group holds, once it is in a
group. -/
def State.reportMove (s : State) (c : Core) (t : Thread) (x : Nat × DWord) : State :=
  s.setCore (if t.gslot.isSome then c.trapThread { t with pagerFault := none } x.1 x.2 else c.stopThread t (.trap x.1 t.tslot x.2 t.path))

/-! ### NODE_MOVE (R35, R36, R212) -/

/-- A thread that no group holds goes on to be filed once it would rest (R90, R92). -/
def Thread.unfiled (t : Thread) : Thread :=
  if t.gslot.isSome then t
  else
    match t.act with
    | .rest | .call | .safe | .ret => { t with fileAct := t.act, act := .file }
    | .reform => { t with act := .move .complete }
    | _ => t

/-- The code that a thread stands in is in use (R331). -/
def State.codeUsed (s : State) (t : Thread) : State := match s.codeOf t t.image with | some i => s.useCode i t.path.proc | none => s

/-- Make the move that is due: the thread rests, or stops where it then stands (R35, R43, R209). -/
def State.makeMove (s : State) (c : Core) (t : Thread) (m : Move) : State :=
  match s.walkOf c t m with
  | some (.done t', _) => (s.codeUsed t').setCore (c.setThread t'.unfiled)
  | some (.stop t' cause, _) => (s.codeUsed t').setCore (c.trapThread t' cause 0)
  | some (.fetch t' e, _) => s.stopFetch c.cl c.co t' t'.path.proc e
  | _ => s

/-- The move that is due for one thread of those that move in one step, or the chunk move that failed for it (R81). -/
def State.moveThread (s : State) (cl co : Nat) (m : Move) (t : Thread) : State :=
  let c := s.core cl co
  match t.pagerFault with
  | some x => s.reportMove c t x
  | none => s.makeMove c t m

/-- A move that touches these words reads a register of the group. -/
def uniformIn (w : Touched) : Bool := w.any (fun x => match x with | .g _ | .q _ => true | _ => false)

/-- The threads that move in one step with a thread: a node whose operand is uniform decides once for the front, so its threads at that place
move together (R35, R212). -/
def State.moversWith (s : State) (c : Core) (t : Thread) (m : Move) : List Thread :=
  match s.walkOf c t m with
  | some (_, w) => if uniformIn w then (c.frontOf t).filter (fun u => u.act == t.act && sameSpot t u) else [t]
  | none => [t]

/-- NODE_MOVE: a thread makes its node move, as one indivisible step (R35); the rest of its front with it where the node decides for all. -/
def execNodeMove (cl co t : Nat) (s : State) : Host.Outcome State Fault Refusal :=
  let c := s.core cl co
  match c.thread? t with
  | none => .refused .notEnabled
  | some th =>
    match th.act with
    | .move m =>
      if !s.moveDue c th then .refused .notEnabled
      else .next ((s.moversWith c th m).foldl (fun st u => st.moveThread cl co m u) s)
    | _ => .refused .notEnabled

/-! ### CALL (R71, R74, R78) -/

/-- A thread of a group may make a call, a return, a safe arrival or a REFORM: nothing holds it or its front (R79, R299). -/
def State.freeToGo (s : State) (c : Core) (t : Thread) (a : Act) : Bool :=
  t.act == a && t.gslot.isSome && s.frontFree c t

/-- The procedure that a call node calls, and its offset; class 11 or 19 at the node (R38, R71, R213). -/
def State.callee (s : State) (t : Thread) (k : NodeKind) : Except Nat (Nat × Nat) :=
  let known := fun p off => if (s.proc? t.image p).isSome then Except.ok (p, off) else .error 0xB4
  match k with
  | .call p off => known p off
  | .callI v off ts =>
    if (t.v v.val).poison then .error 0x133
    else if !ts.contains (t.v v.val).val.toNat then .error 0xB0
    else known (t.v v.val).val.toNat off
  | _ => .error 0xB0

/-- The four words of a call link: the record of the call node with OP = 1 (R71, R72). -/
def linkWords (p : Path) : List PWord :=
  let n := { p with op := 1 }.encode
  (List.range 4).map (fun i => ⟨BitVec.ofNat 32 (n / 2 ^ (32 * i)), false⟩)

/-- What a call does to the thread (R71): the link, the trip record, zeroed fresh words, the window, the callee's root. -/
def callThread (t : Thread) (p off f fc : Nat) (trips : List (Nat × Nat)) : Thread :=
  let told := t.wb + f
  let fresh := fun k => decide (told ≤ 8 * k) && decide (8 * k < t.wb + off + fc)
  let tnew := t.wb + off + fc
  let t1 := (linkWords t.path).zipIdx.foldl (fun u (x, i) => u.setStk (t.wb + off - 4 + i) x) t
  let t2 := (List.range' told (tnew - told)).foldl (fun u w => u.setStk w ⟨0, false⟩) t1
  { t2 with tripRecs := if trips.isEmpty then t.tripRecs else assocSet [] t.tripRecs t.depth (trips.map Prod.snd), trips := [],
            tripSpilled := t.tripSpilled.filter (· != t.depth), spilled := t.spilled.filter (fun k => !fresh k),
            calls := t.calls ++ [{ t.path with op := 1 }], tops := t.tops ++ [told], wb := t.wb + off, path := ⟨p, [], 0⟩, act := .move .enter }

/-- The checks of a call and its outcome: the thread after it, or the cause and address of its trap (R71, R78). -/
def State.callResult (s : State) (t : Thread) (k : NodeKind) : Except (Nat × DWord) Thread :=
  match s.callee t k with
  | .error c => .error (c, 0)
  | .ok (p, off) =>
    let fc := s.frameSize t.image p
    let top := t.sptr.toNat + t.p + 4 * (t.wb + off + fc)
    let trips := tripsAt t.trips t.path
    if t.slim.toNat < top then .error (0xA0, BitVec.ofNat 64 top)
    else if !trips.isEmpty && decide (t.td ≤ t.depth) then .error (0xA0, BitVec.ofNat 64 (t.slim.toNat + 32 * t.depth))
    else .ok (callThread t p off (s.frameOf t) fc trips)

/-- The thread may make its call now: also chunks are free for the fresh words (R79, R80). -/
def State.callReady (s : State) (c : Core) (t : Thread) : Bool := s.freeToGo c t .call && decide (16 ≤ s.freeChunks c)

/-- Make the call that is due, or trap at N:0 (R71). -/
def State.makeCall (s : State) (c : Core) (t : Thread) : State :=
  match s.restNode t with
  | .error e => s.stopFetch c.cl c.co t t.path.proc e
  | .ok k =>
    match s.callResult t k with
    | .ok t' => s.setCore (c.setThread t')
    | .error (cause, addr) => s.setCore (c.trapThread t cause addr)

/-- CALL: one indivisible step; a trap leaves nothing pushed and nothing written (R71). -/
def execCall (cl co t : Nat) (s : State) : Host.Outcome State Fault Refusal :=
  let c := s.core cl co
  match c.thread? t with
  | none => .refused .notEnabled
  | some th =>
    if !s.callReady c th then .refused .notEnabled
    else .next (match th.pagerFault with | some x => s.reportMove c th x | none => s.makeCall c th)

/-! ### RETURN (R73, R78, R102, R104, R215) -/

/-- What a return by link does to the thread (R73): the caller's window and counters; the chunks above every frame that goes on are
released, and no other (R72, R80). -/
def returnThread (t : Thread) (p : Path) (off fcaller : Nat) (loops : List Nat) : Thread :=
  let wb := t.wb - off
  let j := t.depth - 1
  let top := max (wb + fcaller) (greatest t.tops.dropLast)
  let counts := assocGet [] t.tripRecs j
  { t with wb := wb, stk := t.stk.filter (fun x => decide (x.1 < top)), spilled := t.spilled.filter (fun k => decide (8 * k < top)),
           trips := loops.zipIdx.map (fun (d, i) => (d, counts.getD i 0)), tripRecs := assocSet [] t.tripRecs j [],
           tripSpilled := t.tripSpilled.filter (· != j),
           calls := t.calls.dropLast, tops := t.tops.dropLast, path := p, act := .move .complete }

/-- The returning operation as the position of a trap: the last operation retired in this procedure (R73). -/
def Thread.returning (t : Thread) : Thread :=
  if t.opAt.proc == t.path.proc && t.begun then { t with path := t.opAt, act := .rest } else t

/-- The keep ranges of a safe point of the thread's image. -/
def State.keepOf (s : State) (img sp : Nat) (proc : Nat) : List (Nat × Nat) :=
  match s.image? img with
  | none => []
  | some i =>
    match i.proc? proc with
    | none => []
    | some p => (((i.safes.drop p.spIdx).take p.spCnt).filter (fun e => e.k == sp)).flatMap (fun e => e.keep)

/-- The barriers above the block keep the pending phases of a thread that parks (R89). -/
def Launch.holdPhases (l : Launch) (t : Thread) : List Barrier :=
  let bs := l.barriers.map (fun b => { b with held := b.held.filter (fun x => x.1 != t.stackNo) })
  (t.pending.filter (fun x => decide (l.blockLevel < x.1))).foldl (fun bs x =>
    let b := barrierOf bs x.1 (l.unitOf x.1 t.linear)
    putBarrier { b with held := b.held ++ [(t.stackNo, x.2)] } bs) bs

/-- A thread parks (R102): it leaves its group, its slot and chunks are free, its keep ranges are noted; it still counts for
the barriers of its unit unless it is detached. A handler that it ran ends with it (R344). -/
def State.parkThread (s : State) (cl co : Nat) (t : Thread) (keep : List (Nat × Nat)) : State :=
  let c := ((s.core cl co).freeHandler (t.gslot.getD 64) t.tid).leaveGroup t
  let c1 := { c with threads := c.threads.filter (fun x => x.tid != t.tid), block := c.block.map (fun b => { b with keep := b.keep ++ keep, parked := true }) }
  let s1 := (s.setCore c1).onLaunch t.launch (fun l =>
    { l with barriers := l.holdPhases t, blocks := mapIf (fun b => b.index == t.block) (fun b => { b with parked := if t.detached then b.parked else b.parked ++ [t.linear], saved := b.saved ++ [t.crec] }) l.blocks })
  s1.groupGone cl co (t.gslot.getD 64)

/-- FLAGS of a continuation record (R100). -/
def flagsByte (t : Thread) (valid : Bool) : Byte := BitVec.ofNat 8 ((if valid then 1 else 0) + (if t.detached then 2 else 0))

/-- The return from a save procedure's root sets VALID and parks the thread (R102); a failed write stops it at the
returning operation, as the header's write does (R101). -/
def State.returnSaved (s : State) (cl co : Nat) (t : Thread) (sp : Nat) (rec : DWord) (proc : Nat) : State :=
  let c := s.ctxOf (((s.launch? t.launch).map (fun l => l.ctx)).getD 0)
  match s.gmWrite cl co c c.prot (rec.toNat + 46) [flagsByte t true] with
  | (s1, .error f) => s1.stopOnPage cl co 0 c t.returning f
  | (s1, .ok _) => s1.parkThread cl co t (s.keepOf t.image sp proc)

/-- The procedure that a save procedure overlays. -/
def Thread.overlaid (t : Thread) : Nat := match t.overlay with | .save _ _ p _ | .restore _ _ p _ => p.proc | .none => t.path.proc

/-- The end of a handler by its return (R215, R224): as `tret 0`; a thread that skips goes on past its operation at once. -/
def State.returnHandler (s : State) (c : Core) (t : Thread) (fr : TrapFrame) : State :=
  let s1 := (s.audit c.cl c.co (t.gslot.getD 64) t (match fr.level with | .user => 4 | .supervisor => 8)).trapReturn c.cl c.co t fr (tretAction 0 fr.cause)
  s1.onThread c.cl c.co t.tid s1.advanced

/-- Make the return that is due (R73, R215). -/
def State.makeReturn (s : State) (c : Core) (t : Thread) : State :=
  match t.returns with
  | .handler fr => s.returnHandler c t fr
  | .saved sp r => s.returnSaved c.cl c.co t sp r t.overlaid
  | .restored p => s.setCore (c.setThread { t with path := p, overlay := .none, trips := s.zeroTrips t.image p, act := .move .complete })
  | .last => s.endThread c.cl c.co t.tid
  | .link =>
    match s.linkNode t with
    | .error (.link cause) => s.setCore (c.trapThread t.returning cause 0)
    | .error (.fetch proc e) => s.stopFetch c.cl c.co t proc e
    | .ok (p, off) =>
      let loops := match s.codeOf t t.image with | some i => s.boundedAt i p | none => []
      s.setCore (c.setThread (returnThread t p off (s.frameSize t.image p.proc) loops))

/-- The thread may return now. -/
def State.returnReady (s : State) (c : Core) (t : Thread) : Bool := s.freeToGo c t .ret

/-- RETURN (R73, R215). -/
def execReturnFrame (cl co t : Nat) (s : State) : Host.Outcome State Fault Refusal :=
  let c := s.core cl co
  match c.thread? t with
  | none => .refused .notEnabled
  | some th =>
    if !s.returnReady c th then .refused .notEnabled
    else .next (match th.pagerFault with | some x => s.reportMove c th x | none => s.makeReturn c th)

/-! ### REFORM (R38, R90) -/

/-- REFORM: the thread leaves its group and goes on to be filed by the position that follows (R38). -/
def execReform (cl co t : Nat) (s : State) : Host.Outcome State Fault Refusal :=
  let c := s.core cl co
  match c.thread? t with
  | none => .refused .notEnabled
  | some th =>
    if s.freeToGo c th .reform then
      let c1 := c.leaveGroup th
      let c2 := { c1 with threads := c1.threads.filter (fun x => x.tid != t) ++
        [{ th with gslot := none, demoted := false, waitSet := [], act := .move .complete }] }
      .next ((s.setCore c2).groupGone cl co (th.gslot.getD 64))
    else .refused .notEnabled

/-! ### SAFE_ARRIVAL (R82, R99 to R101) -/

/-- The safe point of a SAFE node of a thread's procedure (R293). -/
def State.safeEntry (s : State) (t : Thread) (n : Nat) : Option SafePoint :=
  (s.codeOf t t.image).bind (fun i => (i.proc? t.path.proc).bind (fun p => ((i.safes.drop p.spIdx).take p.spCnt).find? (fun e => e.k == n)))

/-- The safe point of the SAFE node that a thread rests at, or the fetch fault of its header (R43, R209). -/
def State.safeNode (s : State) (t : Thread) : Except FetchFault (Option SafePoint) :=
  (s.restNode t).map (fun k => match k with | .safe n => s.safeEntry t n | _ => none)

/-- The bits of a mask that are set. -/
def popMask (m : BitVec 128) : Nat := ((List.range 128).filter (fun i => m.getLsbD i)).length

/-- The 64-byte record header (R100), VALID clear. -/
def recordHeader (t : Thread) (f : Nat) (e : SafePoint) : List Byte :=
  leBytes 64 ({ t.path with op := 1 }.encode
    + (t.lidx.zipIdx.map (fun (x, i) => x % 2 ^ 16 * 2 ^ (128 + 16 * i))).foldl (· + ·) 0
    + t.stackNo % 2 ^ 32 * 2 ^ 256 + t.block % 2 ^ 32 * 2 ^ 288 + t.wb % 2 ^ 32 * 2 ^ 320 + f % 256 * 2 ^ 352
    + popMask e.mask * 2 ^ 360 + (flagsByte t false).toNat * 2 ^ 368)

/-- The chunks of a thread's callers that the register file holds (R82): those below its window, and those of an outer caller that lie
above it. -/
def State.callerChunks (s : State) (t : Thread) : List Nat :=
  (List.range (s.heldTop t / 8)).filter (fun j => !t.spilled.contains j && !(chunksOf t.wb (s.frameOf t)).contains j)

/-- Write caller chunks to their images (R82); the fault of the first that fails, with its image address. A poisoned word that is written so is
read by no thread: a latent error (R58). -/
def State.writeChunks (s : State) (cl co : Nat) (c : Context) (t : Thread) : List Nat → State × Thread × Option (PageFault × DWord)
  | [] => (s, t, none)
  | j :: l =>
    match s.itemWrite cl co c (itemVa t (.chunk j)) (chunkWords t j) with
    | (s1, .error f) => (s1, t, some (f, BitVec.ofNat 64 (itemVa t (.chunk j))))
    | (s1, .ok _) =>
      State.writeChunks (s1.spillLatent cl co t c.ctx (itemVa t (.chunk j)) (chunkWords t j)) cl co c (dropItem (markOut t (.chunk j) true) (.chunk j)) l

/-- The overlay of a thread by the save procedure of its safe point (R99). -/
def overlayThread (t : Thread) (e : SafePoint) (rec : DWord) : Thread :=
  { t with overlay := .save e.k t.depth { t.path with op := 1 } rec, path := ⟨e.save, [], 0⟩, trips := [], act := .move .enter }

/-- A thread at a SAFE node while a save request stands: chunk writes, header, overlay (R82, R99, R101). -/
def State.saveThread (s : State) (cl co : Nat) (l : Launch) (t : Thread) (e : SafePoint) : State :=
  let c := s.ctxOf l.ctx
  let rec_ : DWord := BitVec.ofNat 64 (l.ra.toNat + 576 * t.stackNo)
  match s.writeChunks cl co c t (s.callerChunks t) with
  | (s1, t1, some (f, va)) =>
    (match f, c.trapMode with
     | .translation true _, false | .unreachable _, _ => s1.stopOnPage cl co 2 c t1 f
     | _, _ => s1.setCore ((s1.core cl co).trapThread t1 (xferCause false f) va))
  | (s1, t1, none) =>
    match s1.gmWrite cl co c c.prot rec_.toNat (recordHeader t1 (s.frameOf t) e) with
    | (s2, .error f) => s2.stopOnPage cl co 0 c t1 f
    | (s2, .ok _) => s2.setCore ((s2.core cl co).setThread (overlayThread t1 e rec_))

/-- SAFE_ARRIVAL: the thread passes on, or is overlaid by the save procedure (R38, R99). -/
def execSafeArrival (cl co t : Nat) (s : State) : Host.Outcome State Fault Refusal :=
  let c := s.core cl co
  match c.thread? t with
  | none => .refused .notEnabled
  | some th =>
    if !s.freeToGo c th .safe then .refused .notEnabled
    else
      match th.pagerFault with
      | some x => .next (s.reportMove c th x)
      | none =>
        if !c.overlays th then .next (s.setCore (c.setThread { th with act := .move .complete }))
        else
          match s.safeNode th, s.launch? th.launch with
          | .error e, _ => .next (s.stopFetch cl co th th.path.proc e)
          | .ok (some e), some l => .next (s.saveThread cl co l th e)
          | .ok _, _ => .next (s.setCore (c.setThread { th with act := .move .complete }))

/-! ### INSTRUCTION_FETCH (R63, R209) -/

/-- A front that is not blocked and needs an item that is not in the buffer. -/
def State.needsFetch (s : State) (c : Core) (g : Group) (f : Front) : Bool :=
  !s.frontBlocked c g f &&
    (match c.frontThreads g f with
     | [] => false
     | t :: l => (t :: l).all (fun x => x.act == .rest) && (match s.nextOf t with | .ok n => !c.buffered g t n | .error e => !e.wait))

/-- The least front that needs a fetch: its index (R63). -/
def State.leastFetch (s : State) (c : Core) (g : Group) : Option Nat :=
  ((g.fronts.zipIdx.filter (fun x => s.needsFetch c g x.1)).foldl (fun (best : Option (Front × Nat)) x =>
    match best with
    | none => some x
    | some b => if frontLt s c g x.1 b.1 then some x else some b) none).map Prod.snd

/-- The lane fetches a front's segment, or stops the front at the item that fails (R209). -/
def State.fetchFor (s : State) (c : Core) (g : Group) (f : Front) : State :=
  match c.frontThreads g f with
  | [] => s
  | t :: _ =>
    match s.nextOf t with
    | .ok n => (s.codeUsed t).setCore { c with ibuf := c.ibuf ++ [(g.slot, { t.path with op := n.first })] }
    | .error e =>
      let (s1, st) := s.fetchStop c.cl c.co t t.path.proc e
      s1.setCore (c.onGroup g.slot (fun g => { g with fronts := stoppedLast (g.fronts.map (fun h =>
        if h.tslots == f.tslots then { h with granted := false, stop := some st } else h)) }))

/-- INSTRUCTION_FETCH (R63, R209). -/
def execInstructionFetch (cl co gs fi : Nat) (s : State) : Host.Outcome State Fault Refusal :=
  let c := s.core cl co
  match c.group? gs with
  | none => .refused .notEnabled
  | some g =>
    match g.fronts[fi]? with
    | none => .refused .notEnabled
    | some f => if s.leastFetch c g == some fi then .next (s.fetchFor c g f) else .refused .notEnabled

/-! ### TRAP_DELIVER (R221, R344) -/

/-- A cause may be delivered to a thread: its long operations have landed (R299), chunks are free for a handler's window, and where the
delivery kills the group the long operations of all its threads have landed (R348). -/
def State.mayDeliver (s : State) (c : Core) (g : Group) (t : Thread) (cause : Nat) : Bool :=
  (s.longsOf t.tid).isEmpty && decide (16 ≤ s.freeChunks c) &&
    (match s.trapOutcome t c.saving cause t.path with
     | .ok _ => true
     | .error _ => g.members.all (fun m => (s.longsOf m.2).isEmpty))

/-- A front whose stop may be delivered: no handler runs, or the fault is that of the handler's own thread (R344). -/
def State.deliverable (s : State) (c : Core) (g : Group) (f : Front) : Bool :=
  match f.stop with
  | some (.trap cause k _ _) =>
    (match c.threadAt g k with
     | some t => (match g.handler with | none => true | some h => h == t.tid) && s.mayDeliver c g t cause
     | none => false)
  | _ => false

/-- The stopped front parts: its trapped thread runs the handler in a front of its own, the others wait for it (R221). Both keep the age
of the front (R66). -/
def handlerFronts (k tid : Nat) (slots : List Nat) (fs : List Front) : List Front :=
  fs.flatMap (fun f =>
    if f.tslots == slots then
      let part := { f with granted := false, wait := none, stop := none, mid := none }
      let rest := f.tslots.filter (· != k)
      { part with tslots := [k] } :: (if rest.isEmpty then [] else [{ part with tslots := rest, stop := some (.handler tid), mid := f.mid }])
    else [f])

/-- Deliver a cause to a thread of a front (R221). -/
def State.deliver (s : State) (cl co : Nat) (gs : Nat) (f : Front) (t : Thread) (cause : Nat) (addr : DWord) (path : Path) : State :=
  let s1 := s.takeTrap cl co t.tid cause t.tslot addr path t.path t.act
  if (s1.thread? cl co t.tid).any (fun x => x.frame.isSome && x.live) then
    (s1.onThread cl co t.tid (fun x => { x with frame := x.frame.map (fun fr => { fr with mid := f.mid }) })).onGroup cl co gs
      (fun g => { g with fronts := handlerFronts t.tslot t.tid f.tslots g.fronts })
  else s1

/-- TRAP_DELIVER: the first fault that may be delivered in a group (R221, R227, R343, R344). -/
def execTrapDeliver (cl co gs : Nat) (s : State) : Host.Outcome State Fault Refusal :=
  let c := s.core cl co
  match c.group? gs with
  | none => .refused .notEnabled
  | some g =>
    match g.fronts.find? (s.deliverable c g) with
    | none => .refused .notEnabled
    | some f =>
      match f.stop with
      | some (.trap cause k addr path) =>
        (match c.threadAt g k with
         | some t => .next (s.deliver cl co gs f t cause addr path)
         | none => .refused .notEnabled)
      | _ => .refused .notEnabled

/-! ### ASYNC_ERROR_DELIVER (R345, R346) -/

/-- Who takes the pending error now, and in which front: the thread that executed tret once its resume position is decided, or
else the first thread of the eligible front that ranks first (R346). -/
def State.asyncTarget (s : State) (c : Core) (g : Group) : Option (Front × Thread) :=
  if g.pend.isNone || g.handler.isSome then none
  else
    match g.tretTo.bind (fun x => (g.members.find? (fun m => m.2 == x.1)).bind (fun m => c.threadAt g m.1)) with
    | some t =>
      if (match t.act with | .move _ => (match g.tretTo with | some (_, late) => late | none => false) | _ => false) then none
      else (g.fronts.find? (fun f => f.tslots.contains t.tslot)).map (fun f => (f, t))
    | none =>
      match (g.fronts.filterMap (fun f => (s.eligible c g f).map (fun n => (f, n)))).foldr (rankInsert s c g) [] with
      | [] => none
      | (f, _) :: _ => ((f.tslots.filterMap (c.threadAt g)).find? (fun t => t.act == .rest)).map (fun t => (f, t))

/-- The delivery waits for the thread's long operations and for chunks, as any does (R299). -/
def State.asyncReady (s : State) (c : Core) (g : Group) : Option (Front × Thread) :=
  (s.asyncTarget c g).filter (fun x => match g.pend with | some cause => s.mayDeliver c g x.2 cause | none => false)

/-- ASYNC_ERROR_DELIVER (R346): the pending slot is emptied, and the thread takes its cause at its position, address 0. -/
def execAsyncErrorDeliver (cl co gs : Nat) (s : State) : Host.Outcome State Fault Refusal :=
  let c := s.core cl co
  match c.group? gs with
  | none => .refused .notEnabled
  | some g =>
    match s.asyncReady c g, g.pend with
    | some (f, t), some cause =>
      .next ((s.onGroup cl co gs (fun g => { g with pend := none, tretTo := none })).deliver cl co gs f t cause 0 t.path)
    | _, _ => .refused .notEnabled

/-! ### What may be taken -/

/-- The thread of lowest slot of a group that a test picks: stops after one pass are raised in increasing index (R212). -/
def Core.firstOf (c : Core) (g : Group) (p : Thread → Bool) : Option Thread :=
  (g.members.filterMap (fun m => c.thread? m.2)).foldl (fun (best : Option Thread) t =>
    if !p t then best else match best with | some b => if t.tslot < b.tslot then some t else some b | none => some t) none

/-- The step that a thread would make between operations. -/
def State.threadStep (s : State) (c : Core) (t : Thread) : Option Instr :=
  match t.act with
  | .move _ => if s.moveDue c t then some (.nodeMove c.cl c.co t.tid) else none
  | .call => if s.callReady c t then some (.call c.cl c.co t.tid) else none
  | .ret => if s.returnReady c t then some (.returnFrame c.cl c.co t.tid) else none
  | .reform => if s.freeToGo c t .reform then some (.reform c.cl c.co t.tid) else none
  | .safe => if s.freeToGo c t .safe then some (.safeArrival c.cl c.co t.tid) else none
  | _ => none

/-- The steps of a group's threads and fronts that may be taken. -/
def State.groupSteps (s : State) (c : Core) (g : Group) : List Instr :=
  (match c.firstOf g (fun t => (s.threadStep c t).isSome) with
   | some t => (s.threadStep c t).toList
   | none => []) ++
  (match s.leastFetch c g with | some fi => [.instructionFetch c.cl c.co g.slot fi] | none => []) ++
  (if g.fronts.any (s.deliverable c g) then [.trapDeliver c.cl c.co g.slot] else []) ++
  (if (s.asyncReady c g).isSome then [.asyncErrorDeliver c.cl c.co g.slot] else [])

/-- The steps between operations that may be taken; a core that is fenced or under test takes none (R371, R374). -/
def State.moveSteps (s : State) : List Instr :=
  s.cores.flatMap (fun c =>
    if !s.coreRuns c then []
    else c.groups.flatMap (s.groupSteps c) ++ ((c.threads.filter (fun t => t.gslot.isNone)).filterMap (s.threadStep c)))

end Sys2Proof.Machine
end

