-- ==== Sys2Proof/Machine/Bins.lean ====
section
/-! DEFINITION. Bins and the groups they release, slots that become free, and children taken from a spawn ring
(R10, R14, R45, R79, R90 to R97, R216, R379). -/

namespace Sys2Proof.Machine

/-! ### Whose turn it is to be filed (R91) -/

/-- A fresh launch thread of a launch whose level 0 is bound to GROUP: it is filed by its unit; a relaunched thread is not (R91). -/
def Launch.byUnit (l : Launch) (t : Thread) : Bool :=
  t.fresh && !t.detached && !t.relaunched && (match l.levels.head? with | some d => d.domain == 0 | none => false)

/-- Threads of one level-0 unit (R83). -/
def Launch.unitExtent (l : Launch) : Nat := (l.levels.head?.map (fun d => d.extent)).getD 1

/-- The thread is still to be filed. -/
def Thread.unfiledYet (t : Thread) : Bool :=
  t.gslot.isNone && (match t.act with | .binned | .ended | .parked => false | _ => true)

/-- The spawn that created a child, by its number, is still to become known (R93). -/
def State.childPends (s : State) (launch child : Nat) : Bool :=
  s.accs.any (fun a => match a.op with | .publish (.children l first n) _ => l == launch && decide (first ≤ child) && decide (child < first + n) | _ => false)

/-- A fresh child waits for its spawn, or for that of a child before it: children are filed in order of their numbers (R91, R93). -/
def State.childHeld (s : State) (c : Core) (t : Thread) : Bool :=
  t.fresh && t.detached &&
    (match s.launch? t.launch with
     | some l => c.threads.any (fun u => u.fresh && u.detached && u.launch == t.launch && decide (u.stackNo ≤ t.stackNo) && decide (l.threads ≤ u.stackNo) &&
         s.childPends u.launch (u.stackNo - l.threads))
     | none => false)

/-- The threads filed next: the first fresh thread of a unit, and the first of the others (R91). -/
def State.nextToFile (s : State) (c : Core) : List Thread :=
  let l := c.threads.filter Thread.unfiledYet
  let unit := fun (t : Thread) => match s.launch? t.launch with | some x => x.byUnit t | none => false
  ((l.find? unit).toList ++ (l.find? (fun t => !unit t && !s.childHeld c t)).toList).filter (fun t => t.act == .file)

/-! ### Releasing a bin (R10, R14, R79, R90 to R92) -/

/-- A group slot is free: no group has it, and no long operation of an earlier one is still to land in it. -/
def State.slotFree (s : State) (c : Core) (gs : Nat) : Bool :=
  (c.group? gs).isNone && !s.longs.any (fun l => l.cl == c.cl && l.co == c.co && l.gslot == gs)

/-- The lowest free group slot (R14). -/
def State.lowestSlot (s : State) (c : Core) : Option Nat := (List.range Config.groupSlots).find? (s.slotFree c)

/-- The threads a bin releases: the whole unit, or the first 32 (R14, R91). -/
def Bin.leaving (b : Bin) : List Nat := match b.unit with | some n => b.threads.take n | none => b.threads.take 32

/-- Chunks that the windows of threads still need (R79). -/
def State.chunksNeeded (s : State) (c : Core) (ts : List Nat) : Nat :=
  ((ts.filterMap c.thread?).map (fun t =>
    if t.fresh then (chunksOf t.wb (s.frameOf t)).length else ((chunksOf t.wb (s.frameOf t)).filter t.spilled.contains).length)).foldl (· + ·) 0

/-- A bin's conditions for release hold (R14, R90, R91, R99). A bin that collects a level-0 unit waits for the whole unit while a save request
stands too: DESIGN CHOICE between R99's "every bin" and R91's one group for each unit (log entry 94). -/
def Bin.due (b : Bin) (limit : Nat) (saving : Bool) : Bool :=
  match b.unit with
  | some n => decide (n ≤ b.threads.length)
  | none => decide (32 ≤ b.threads.length) || decide (limit ≤ b.age) || saving

/-- A bin can release now: a group slot and chunks are free. -/
def State.canRelease (s : State) (c : Core) (b : Bin) : Bool :=
  (s.lowestSlot c).isSome && decide (s.chunksNeeded c b.leaving ≤ s.freeChunks c)

/-- The key of a group (R379): the level-0 unit that holds all of its threads. -/
def groupKey (l : Launch) (ts : List Thread) : Option Nat :=
  match ts with
  | [] => none
  | t :: r =>
    let u := fun (x : Thread) => x.linear / l.unitExtent
    if (match l.levels.head? with | some d => d.domain == 0 | none => false) && !(t :: r).any (fun x => x.detached) && r.all (fun x => u x == u t) && decide (u t < 0xFFFFFF)
    then some (u t) else none

/-- Form a group of threads in a slot (R45, R59, R91, R92). -/
def State.formGroup (s0 : State) (cl co gs : Nat) (tids : List Nat) : State :=
  let (born, s) := s0.freshId
  let c := s.core cl co
  let members : List (Nat × Nat) := tids.zipIdx.map (fun (t, i) => (i, t))
  let c1 : Core := { c with threads := c.threads.map (fun (t : Thread) =>
    match members.find? (fun (m : Nat × Nat) => m.2 == t.tid) with
    | some m => { t with gslot := some gs, tslot := m.1, act := t.fileAct, fresh := false, writes := 0, demoted := false, waitSet := [], waitOld := [] }
    | none => t) }
  let ts : List Thread := tids.filterMap c1.thread?
  let launch := (ts.head?.map (fun t => t.launch)).getD 0
  let g : Group := { slot := gs, launch := launch, born := born, members := members, fronts := [{ tslots := members.map Prod.fst }],
                     key := (s.launch? launch).bind (fun l => groupKey l ts) }
  let c2 := { c1 with groups := c1.groups ++ [g] }
  s.setCore (c2.setGroup { g with fronts := s.normalFronts c2 g (members.map Prod.fst) })

/-- BIN_RELEASE: the bin's threads become a group in the lowest free slot; the rest of an overfull bin stays (R14, R90). -/
def State.releaseBin (s : State) (cl co bi : Nat) : State :=
  let c := s.core cl co
  match c.bins[bi]?, s.lowestSlot c with
  | some b, some gs =>
    let rest := b.threads.filter (fun t => !b.leaving.contains t)
    let bins := if rest.isEmpty then c.bins.eraseIdx bi else c.bins.set bi { b with threads := rest, ages := b.ages.drop b.leaving.length }
    (s.setCore { c with bins := bins }).formGroup cl co gs b.leaving
  | _, _ => s

/-- The age limit of the launch of a core's block (R90). -/
def State.ageLimit (s : State) (c : Core) : Nat := ((c.block.bind (fun b => s.launch? b.launch)).map (fun l => l.age)).getD 65535

/-- The first bin that is due and can release: the oldest one first, ties by place. -/
def State.dueBin (s : State) (c : Core) : Option Nat :=
  ((c.bins.zipIdx.filter (fun (b, _) => b.due (s.ageLimit c) c.saving && s.canRelease c b)).foldl (fun (best : Option (Bin × Nat)) x =>
    match best with | some y => if y.1.age < x.1.age then some x else some y | none => some x) none).map Prod.snd

/-- Release a bin that is due, if one can (R14, R90). -/
def State.releaseDue (s : State) (cl co : Nat) : State :=
  match s.dueBin (s.core cl co) with
  | some bi => s.releaseBin cl co bi
  | none => s

/-- BIN_AGE_LIMIT: a bin that is due releases its threads as a group (R14, R90). -/
def execBinAgeLimit (cl co b : Nat) (s : State) : Host.Outcome State Fault Refusal :=
  let c := s.core cl co
  match c.bins[b]? with
  | none => .refused .notEnabled
  | some x => if x.due (s.ageLimit c) c.saving && s.canRelease c x then .next (s.releaseBin cl co b) else .refused .notEnabled

/-! ### BIN_FILE (R90, R91) -/

/-- Where a thread is filed. -/
inductive Filing where
  | into (bi : Nat)
  | open_ (unit : Option Nat)
  | force (bi : Nat)
  | wait
deriving DecidableEq, Repr

/-- The oldest bin that collects no unit (R90). -/
def oldestBin (bins : List Bin) : Option Nat :=
  ((bins.zipIdx.filter (fun x => x.1.unit.isNone)).foldl (fun (best : Option (Bin × Nat)) x =>
    match best with | some y => if y.1.age < x.1.age then some x else some y | none => some x) none).map Prod.snd

/-- The place of a thread: its unit's own bin, the bin of its key, a free bin, or the place of the oldest bin (R90, R91). -/
def State.filing (s : State) (c : Core) (t : Thread) : Filing :=
  let byUnit := (s.launch? t.launch).filter (fun l => l.byUnit t)
  match byUnit with
  | some l =>
    (match c.bins.findIdx? (fun b => b.unit.isSome) with
     | some bi =>
       (match c.bins[bi]? with
        | some b => if b.threads.length < l.unitExtent then .into bi else .wait
        | none => .wait)
     | none => if c.bins.length < Config.binCount then .open_ (some l.unitExtent) else .wait)
  | none =>
    match c.bins.findIdx? (fun b => b.unit.isNone && b.image == t.image && b.key == t.path) with
    | some bi => .into bi
    | none =>
      if c.bins.length < Config.binCount then .open_ none
      else
        match oldestBin c.bins with
        | some bi => (match c.bins[bi]? with | some b => if s.canRelease c b then .force bi else .wait | none => .wait)
        | none => .wait

/-- Put a thread into a bin. -/
def Core.binThread (c : Core) (t : Thread) (f : Filing) : Core :=
  let c1 := c.onThread t.tid (fun x => { x with act := .binned })
  match f with
  | .into bi => { c1 with bins := c1.bins.modify bi (fun b => { b with threads := b.threads ++ [t.tid], ages := b.ages ++ [0] }) }
  | .open_ u => { c1 with bins := c1.bins ++ [{ image := t.image, key := t.path, threads := [t.tid], ages := [0], unit := u }] }
  | _ => c

/-- BIN_FILE: a thread is filed by its position; a bin that it fills, or the oldest bin where all are in use, releases (R90). -/
def execBinFile (cl co t : Nat) (s : State) : Host.Outcome State Fault Refusal :=
  let c := s.core cl co
  match (s.nextToFile c).find? (fun x => x.tid == t) with
  | none => .refused .notEnabled
  | some th =>
    match s.filing c th with
    | .wait => .refused .notEnabled
    | .force bi =>
      let s1 := s.releaseBin cl co bi
      .next (s1.setCore ((s1.core cl co).binThread th (s1.filing (s1.core cl co) th)))
    | f => .next ((s.setCore (c.binThread th f)).releaseDue cl co)

/-! ### THREAD_SLOT_FREE (R216) -/

/-- An ended thread's slot is free once its long operations have landed, and the register accesses that arrived at it are performed (R113,
R216); a bin may now release. -/
def State.slotFrees (s : State) (c : Core) (t : Thread) : Bool := t.act == .ended && (s.longsOf t.tid).isEmpty && !s.regAwaited c.cl c.co t.tid

/-- THREAD_SLOT_FREE: the slot and the chunks of an ended thread are free (R216). -/
def execThreadSlotFree (cl co t : Nat) (s : State) : Host.Outcome State Fault Refusal :=
  let c := s.core cl co
  match c.thread? t with
  | none => .refused .notEnabled
  | some th =>
    if s.slotFrees c th then .next ((s.setCore { c with threads := c.threads.filter (fun x => x.tid != t) }).releaseDue cl co)
    else .refused .notEnabled

/-! ### SPAWN_RING_TAKE (R94, R95) -/

/-- What a core finds at the head of its launch's ring. -/
inductive RingHead where
  | none
  | record (l : Launch) (c : Context)
deriving DecidableEq, Repr

/-- Children of the launch wait in the cluster's ring and no other core would take them (R94, R95): the block does not end (R323). -/
def State.ringHolds (s : State) (c : Core) (b : Block) : Bool :=
  let (head, tail) := (s.cluster c.cl).ring b.launch
  (s.launch? b.launch).any (fun l => l.sra != 0) && head != tail &&
    !s.cores.any (fun k => k.cl == c.cl && k.co != c.co && k.block.any (fun x => x.launch == b.launch && !x.isOver))

/-- A core's block takes children: it is not over, and one whose save is asked for takes them only where it has no thread to save and nobody
else would take them (R94, R99). -/
def State.takesChildren (s : State) (c : Core) (b : Block) : Bool :=
  !b.isOver && (b.save.isNone || (c.threads.isEmpty && !b.parked && s.ringHolds c b))

/-- A core with a block, a free slot and a record waiting in its launch's ring. -/
def State.ringHead (s : State) (c : Core) : RingHead :=
  match (c.block.filter (s.takesChildren c)).bind (fun b => s.launch? b.launch) with
  | none => .none
  | some l =>
    let (head, tail) := (s.cluster c.cl).ring l.id
    if l.sra == 0 || head == tail || c.freeSlots == 0 || !s.coreRuns c then .none else .record l (s.ctxOf l.ctx)

/-- A stall already stands for a page of a context. -/
def State.stalledOn (s : State) (ctx va : Nat) : Bool := s.stalls.any (fun x => x.ctx == ctx && x.va / 4096 == va / 4096)

/-- The fields of a ring record (R95): child number, procedure, argument. -/
def ringFields (l : List Byte) : Nat × Nat × DWord :=
  let n := leNat l
  (bits n 96 32, bits n 80 16, BitVec.ofNat 64 (bits n 128 64))

/-- The head of a launch's ring has been read in vain: noted once, so that one attempt is made on each record. -/
def State.ringUnread (s : State) (cl launch head : Nat) : Option State :=
  let k := s.cluster cl
  if k.unread.contains (launch, head) then none else some (s.setCluster { k with unread := k.unread ++ [(launch, head)] })

/-- What taking a record comes to: the state after it; a record that cannot be read stays, after one attempt that leaves what the reading of it
leaves (R95, R359). -/
def State.ringTake (s : State) (c : Core) : Option State :=
  match s.ringHead c with
  | .none => none
  | .record l x =>
    let (head, tail) := (s.cluster c.cl).ring l.id
    let va := ringRecord l c.cl head
    match s.gmRead c.cl c.co x x.prot va 64 with
    | (s1, .ok (bytes, false)) =>
      let (child, proc, arg) := ringFields bytes
      let s2 := s1.placeChild c.cl c.co l child proc arg
      let k := (s2.cluster c.cl).setRing l.id ((head + 1) % 2 ^ 32) tail
      some (s2.setCluster { k with unread := k.unread.filter (fun x => x.1 != l.id) })
    | (s1, .error (.translation true a)) =>
      if x.trapMode then s1.ringUnread c.cl l.id head
      else if s.stalledOn x.ctx a then none
      else
        let (id, s2) := s1.freshId
        some { s2 with stalls := s2.stalls ++ [{ id := id, part := x.part, cl := c.cl, ctx := x.ctx, va := a, src := 0, acc := .read }] }
    | (_, .error (.unreachable _)) => none
    | (s1, _) => s1.ringUnread c.cl l.id head

/-- SPAWN_RING_TAKE: the core takes the oldest record of its launch's ring into a free slot; an unmapped page stalls it; a
record that cannot be read stays (R94, R95). -/
def execSpawnRingTake (cl co : Nat) (s : State) : Host.Outcome State Fault Refusal :=
  match s.ringTake (s.core cl co) with
  | some s1 => .next s1
  | none => .refused .notEnabled

/-- The steps of bins, slots and rings that may be taken. -/
def State.binSteps (s : State) : List Instr :=
  s.cores.flatMap (fun c =>
    if !s.coreRuns c then []
    else
      ((s.nextToFile c).filter (fun t => s.filing c t != .wait)).map (fun t => .binFile c.cl c.co t.tid) ++
      (match s.dueBin c with | some b => [.binAgeLimit c.cl c.co b] | none => []) ++
      (c.threads.filter (s.slotFrees c)).map (fun t => .threadSlotFree c.cl c.co t.tid) ++
      (if (s.ringTake c).isSome then [.spawnRingTake c.cl c.co] else []))

end Sys2Proof.Machine
end

