-- ==== Sys2Proof/Machine/EngineMem.lean ====
section
/-! DEFINITION. What the engines share: engine addresses and accesses, what a command counts in its cells, and the ends of a
command (R108 to R112, R129, R154 to R161, R174, R175, R279, R334, R341). -/

namespace Sys2Proof.Machine

/-! ### Codes of an engine (R156, R341) -/

/-- The cell code of a page fault of an engine (R156). -/
def faultCode : PageFault → Nat
  | .translation .. => 0x02
  | .permission _ => 0x03
  | .protection _ | .unreachable _ => 0x04

/-- An entry for an engine error that no cell reports (R341). -/
def State.logEngine (s : State) (cl co ctx cause code addr : Nat) : State :=
  s.logCtx cl co ctx { kind := 3, cause := cause, code := code, addr := addr, cluster := cl, core := co }

/-- The family of an engine code (R341). -/
def codeFamily (code : Nat) : Nat :=
  if code == 2 || code == 3 || code == 5 || code == 6 || code == 7 then 0
  else if code == 8 || code == 0xB then 1
  else if code == 1 || code == 4 then 2
  else 3

/-! ### Engine addresses (R160) -/

/-- Why an engine's access cannot be made: a cell code with the address, a page to wait for (R156, R334), or a peer that
cannot be reached (R376). -/
inductive EngErr where
  | code (c addr : Nat)
  | stall (va : Nat) (acc : AccessKind)
  | held (va : Nat)
deriving DecidableEq, Repr

/-- The space of an engine address; none for a code that is DESC (R160). -/
def engSpace (a : DWord) : Option Space :=
  match a.toNat / 2 ^ 60 with
  | 0 => some .gm
  | 1 => some .sp
  | 2 => some .bk
  | _ => none

/-- Bits [59:0] of an engine address moved by an offset. A sum outside them is in no space's format: it is given with bit 60 set (R160, R173). -/
def engOff (a : DWord) (d : Int) : Nat :=
  let x : Int := ((a.toNat % 2 ^ 60 : Nat) : Int) + d
  if 0 ≤ x && x < 2 ^ 60 then x.toNat else 2 ^ 60 + (x.emod (2 ^ 60)).toNat

/-- An address of a space as an engine writes it: the space code above bits [59:0] (R160). -/
def engAddr (spc : Space) (off : Nat) : Nat := off % 2 ^ 60 + (match spc with | .sp => 2 ^ 60 | .bk => 2 ^ 61 | _ => 0)

/-- The 64-bit virtual address of a `.gm` engine address; none where [59:57] differ from bit 56 (R160). -/
def engVa (off : Nat) : Option Nat :=
  if decide (off < 2 ^ 60) && bits off 57 3 == (if bit off 56 then 7 else 0) then some (off % 2 ^ 57 + (if bit off 56 then 2 ^ 64 - 2 ^ 57 else 0)) else none

/-- A page fault as an engine meets it: an invalid entry in resolve mode stalls (R156, R334). -/
def engFault (c : Context) (acc : AccessKind) (f : PageFault) : EngErr :=
  match f with
  | .translation inv va => if inv && !c.trapMode then .stall va acc else .code 0x02 va
  | f => .code (faultCode f) f.va

/-- The generations with which the `.sp` addresses of a command are stamped as it leaves its core, by core; a core that holds no block of
the context has none (R109, R110). -/
def State.stamps (s : State) (m : Cmd) : Assoc Nat :=
  (s.cores.filter (fun c => c.cl == m.cl && c.block.any (fun b => b.ctx == m.ctx))).map (fun c => (c.co, c.gen))

/-- The bytes of a `.sp` access of a command: SPWIN where its address failed R109 as the command left its core, STALE where the generation
has moved on since (R110, R111). -/
def State.engSp (s : State) (m : Cmd) (off n : Nat) : Except EngErr Part :=
  let co := bits off 27 7
  let k := s.core m.cl co
  let bad := Except.error (EngErr.code 0x05 (engAddr .sp off))
  match m.gens.find? (fun x => x.1 == co) with
  | none => bad
  | some (_, g) =>
    if bits off 40 24 != 0 || bits off 20 7 != 0 || (bits off 34 6 != 0 && bits off 34 6 != g) then bad
    else
      match k.block with
      | none => .error (.code 0x01 (engAddr .sp off))
      | some b =>
        if k.gen != g then .error (.code 0x01 (engAddr .sp off))
        else if b.ctx != m.ctx || bits off 0 20 + n > b.z then bad
        else .ok { addr := spAddr m.cl co (bits off 0 20), len := n }

/-- The bytes of an engine access to global memory, on one page (R108, R161); `protOk` says that a protected page is allowed. -/
def State.engGm (s : State) (cl co : Nat) (c : Context) (write protOk : Bool) (va n : Nat) : State × Except EngErr Part :=
  let u : GmUse := ⟨if write then 1 else 0, !write, write, false⟩
  let acc : AccessKind := if write then .write else .read
  let fin := fun (r : State × Except PageFault (List Part)) =>
    match r with
    | (s1, .ok (p :: _)) => (s1, if s1.stallsAt p.addr then Except.error (.held va) else Except.ok p)
    | (s1, .ok []) => (s1, .error (.code 0x02 va))
    | (s1, .error f) => (s1, .error (engFault c acc f))
  match s.checkGm cl co c u va n with
  | (s1, .error (.protection a)) => if protOk then fin (s1.checkGm cl co c { u with prot := true } va n) else (s1, .error (.code 0x04 a))
  | r => fin r

/-- The bytes of an engine access in a space (R108, R112, R160, R161). -/
def State.engPart (s : State) (m : Cmd) (write protOk : Bool) (spc : Space) (off n : Nat) : State × Except EngErr Part :=
  match spc with
  | .gm => (match engVa off with | none => (s, .error (.code 0x02 off)) | some va => s.engGm m.cl m.co (s.ctxOf m.ctx) write protOk va n)
  | .sp => (s, s.engSp m off n)
  | _ =>
    let bad := Except.error (EngErr.code 0x06 (engAddr .bk off))
    (s, if bits off 32 32 != 0 then bad else match bkPart (s.ctxOf m.ctx) off n with | some p => .ok p | none => bad)

/-- The bytes of a part for an engine: POISON for a poisoned word, at the word's address, INTEG for a tag that does not match (R156, R350,
R357); `at_` is the address of the part as the engine names it. -/
def State.engLoad (s : State) (c : Context) (at_ : Nat) (p : Part) : State × Except EngErr (List Byte) :=
  match (wordsOf p.addr p.len).find? s.poison.contains with
  | some w => (s, .error (.code 0x08 (at_ + 4 * w - p.addr)))
  | none =>
    if p.prot then
      (match s.protRead c p.addr p.len with
       | (s1, some l) => (s1, .ok l)
       | (s1, none) => (s1, .error (.code 0x0B at_)))
    else (s, .ok (s.mem.readBytes p.addr p.len))

/-- Read bytes for an engine. -/
def State.engRead (s : State) (m : Cmd) (protOk : Bool) (spc : Space) (off n : Nat) : State × Except EngErr (List Byte) :=
  match s.engPart m false protOk spc off n with
  | (s1, .error e) => (s1, .error e)
  | (s1, .ok p) => s1.engLoad (s.ctxOf m.ctx) (engAddr spc off) p

/-- Poisoned words that an engine's write has covered only in part log latent errors (R340, R368). -/
def State.partLatents (s : State) (cl co : Nat) (c : Context) (at_ : Nat) (bad : List Nat) (addr : Nat) : State :=
  bad.foldl (fun st w => st.logLatent cl co c.ctx 0 0 0x13A (at_ + 4 * w - addr) 0) s

/-- Write a part for an engine; a poisoned word that it covers in part stays poisoned and logs a latent error, at the word's address (R175,
R340). -/
def State.engStore (s : State) (cl co : Nat) (c : Context) (by_ : Nat) (whole : Nat → Bool) (at_ : Nat) (p : Part) (l : List Byte) : State × Except EngErr Unit :=
  if p.prot then
    (match s.protWrite c by_ whole p.addr l with
     | (s1, true) => (s1.partLatents cl co c at_ (s.partlyPoisoned { p with len := l.length }) p.addr, .ok ())
     | (s1, false) => (s1, .error (.code 0x0B at_)))
  else ((s.store p.addr l).partLatents cl co c at_ (s.partlyPoisoned { p with len := l.length }) p.addr, .ok ())

/-- Write bytes for an engine. -/
def State.engWrite (s : State) (m : Cmd) (protOk : Bool) (whole : Nat → Bool) (spc : Space) (off : Nat) (l : List Byte) : State × Except EngErr Unit :=
  match s.engPart m true protOk spc off l.length with
  | (s1, .error e) => (s1, .error e)
  | (s1, .ok p) => s1.engStore m.cl m.co (s.ctxOf m.ctx) m.id whole (engAddr spc off) p l

/-- The flat address of a byte of a space as a command names it, whatever the access. -/
def State.flatOf (s : State) (m : Cmd) (spc : Space) (off : Nat) : Option Nat :=
  match spc with
  | .gm => (engVa off).bind (fun va => match (s.translate m.cl m.co (s.ctxOf m.ctx) va false).2 with | .ok lf => some lf.phys | .error _ => none)
  | .sp => some (spAddr m.cl (bits off 27 7) (bits off 0 20))
  | _ => (bkPart (s.ctxOf m.ctx) off 1).map (fun p => p.addr)

/-- The names of a byte of a space: another page of a list may be of the same frame, and a `.sp` address may give its generation or not. -/
def State.namesOf (s : State) (m : Cmd) (spc : Space) (pages : List Nat) (off : Nat) : List Nat :=
  match spc with
  | .gm => off :: ((pages.filter (fun q => q != off / 4096)).map (fun q => 4096 * q + off % 4096)).filter (fun x =>
      match s.flatOf m .gm off, s.flatOf m .gm x with | some a, some b => a == b | _, _ => false)
  | .sp => [off % 2 ^ 34, off % 2 ^ 34 + 2 ^ 34 * assocGet 0 m.gens (bits off 27 7)]
  | _ => [off]

/-- Bytes of the issuing core's own allocation, for a descriptor, table or list; none outside it. -/
def State.ownBytes (s : State) (cl co off n : Nat) : Option (List Byte × Bool) :=
  match (s.core cl co).block with
  | some b => if off + n ≤ b.z then some (s.mem.readBytes (spAddr cl co off) n, s.poisoned (spAddr cl co off) n) else none
  | none => none

/-- The offset of the first poisoned word of the issuing core's own allocation in a range; what lies outside the allocation is not read. -/
def State.firstPoison (s : State) (cl co off n : Nat) : Option Nat :=
  match (s.core cl co).block with
  | some b => ((wordsOf (spAddr cl co off) (min (off + n) b.z - off)).find? s.poison.contains).map (fun w => 4 * w - spAddr cl co 0)
  | none => none

/-! ### Counting (R154 to R156, R158) -/

/-- Change the cell that a command counts in on its own core; counts after a reset are discarded (R158). -/
def State.onIssuer (s : State) (m : Cmd) (f : CCell → CCell) : State :=
  match m.cell with
  | none => s
  | some n =>
    let c := s.core m.cl m.co
    if c.gen == m.gen && (c.cell n).epoch == m.epoch then s.setCore (c.onCell n f) else s

/-- Change the cell of a destination core (R155, R158); a newer block's cells are untouched (R111). -/
def State.onDest (s : State) (m : Cmd) (d : DestPart) (f : CCell → CCell) : State :=
  match m.cell with
  | none => s
  | some n =>
    let c := s.core m.cl d.co
    if c.gen == d.gen && (c.cell n).epoch == d.epoch then s.setCore (c.onCell n f) else s

/-- PEND falls by bytes. -/
def CCell.less (n : Nat) (x : CCell) : CCell := { x with pend := x.pend - n }

/-- PEND rises by bytes. -/
def CCell.more (n : Nat) (x : CCell) : CCell := { x with pend := x.pend + n }

/-- Remove a command: its queue entry is free (R279), and a line that it was to write whole and has not stays as it is (R357). -/
def State.dropCmd (s : State) (id : Nat) : State :=
  { s with cmds := s.cmds.filter (fun c => c.id != id), parts := s.parts.map (fun p => { p with filling := p.filling.filter (fun x => x.1 != id) }) }

/-- Replace a command. -/
def State.setCmd (s : State) (m : Cmd) : State := s.onCmd m.id (fun _ => m)

/-- The class of an engine's unobserved errors (R341). -/
def Engine.errClass : Engine → Nat
  | .copy | .bank => 0x0E0
  | .layout => 0x0F0
  | .matrix => 0x100

/-- A cell of a core, of a generation and an epoch, does not report a code to a program, and why not (R341). -/
def State.unseen (s : State) (cl co gen epoch n code : Nat) : Option Nat :=
  let c := s.core cl co
  if c.gen != gen || c.threads.all (fun t => !t.live) then some 0
  else if (c.cell n).epoch != epoch then some 1
  else if (c.cell n).err != 0 && (c.cell n).err != code then some 2
  else none

/-- Why no cell that an abort counts in reports its code to a program, if none does (R341): `dests` are the destinations whose cells it
sets, `apart` says that the error arose in a part that another core's cell counts. A command without a cell never aborts (R182). -/
def State.unobserved (s : State) (m : Cmd) (dests : List DestPart) (apart : Bool) (code : Nat) : Option Nat :=
  match m.cell with
  | none => none
  | some n =>
    match s.unseen m.cl m.co m.gen m.epoch n code with
    | none => none
    | some r => if dests.all (fun d => (s.unseen m.cl d.co d.gen d.epoch n code).isSome) then some (if apart then 3 else r) else none

/-- Record an abort whose error no cell reports (R341). -/
def State.noteAbort (s : State) (m : Cmd) (dests : List DestPart) (apart : Bool) (code addr : Nat) : State :=
  match s.unobserved m dests apart code with
  | none => s
  | some r =>
    s.logCtx m.cl m.co m.ctx { kind := 3, cause := m.engine.errClass + 4 * r + codeFamily code, code := code, addr := addr, path := m.path.encode,
                               cluster := m.cl, core := m.co, gslot := m.gslot, tslot := m.tslot }

/-- A command that makes no access: its code, if any, and its count at once (R155, R164, R279). -/
def State.endAtOnce (s : State) (m : Cmd) (err : Option (Nat × Nat)) : State :=
  let s1 := match err with | some (code, addr) => s.noteAbort m [] false code addr | none => s
  ((s1.onIssuer m (fun x => ((match err with | some (code, _) => x.setErr code | none => x)).count)).dropCmd m.id)

/-- Post the expectation of a command that enters its queue (R155); COUNT where it does not fit. Commands enter in order, so
the command moves to the end of the list. -/
def State.enterCmd (s : State) (m : Cmd) (total : Nat) : State :=
  let pend := match m.cell with | some n => ((s.core m.cl m.co).cell n).pend | none => 0
  if !pendOk (pend + total) then s.endAtOnce m (some (0x0A, 0))
  else
    let s1 := s.onIssuer m (CCell.more total)
    { s1 with cmds := (s1.cmds.filter (fun c => c.id != m.id)) ++ [{ m with entered := true, owed := total, gens := s.stamps m }] }

/-- An interval list without one index. -/
def takeIndex (k : Nat) : List (Nat × Nat) → List (Nat × Nat)
  | [] => []
  | (a, b) :: l =>
    if a ≤ k && k < b then (if a < k then [(a, k)] else []) ++ (if k + 1 < b then [(k + 1, b)] else []) ++ l
    else (a, b) :: takeIndex k l

/-- Every index still to do. -/
def indexes (l : List (Nat × Nat)) : List Nat := l.flatMap (fun x => List.range' x.1 (x.2 - x.1))

/-- An element has been acknowledged before it is seen (R289). -/
def Cmd.isEarly (m : Cmd) (k : Nat) : Bool := m.early.any (fun x => x.1 == k)

/-- Elements have landed, n of whose bytes were not acknowledged before: the issuer's cell counts them, and the destination core's with its
DONE when the last byte for that core has landed (R155). `owed` is what is not acknowledged yet. -/
def State.landed (s : State) (m : Cmd) (n : Nat) (destCo : Option Nat) : State :=
  let s1 := s.onIssuer m (CCell.less n)
  let m1 := { m with owed := m.owed - n, early := m.early.filter (fun x => hasIndex x.1 m.todo) }
  match destCo.bind (fun co => m.dests.find? (fun d => d.co == co)) with
  | none => s1.setCmd m1
  | some d =>
    let d1 := { d with owed := d.owed - n, finished := d.owed == n && !m1.early.any (fun x => x.2 == some d.co) }
    let s2 := s1.onDest m d (fun x => if d1.finished then (x.less n).count else x.less n)
    s2.setCmd { m1 with dests := mapIf (fun x => x.co == d.co) (fun _ => d1) m1.dests }

/-- A part of a command destined for one core aborts with a code: its elements are dropped (R155, R156); those acknowledged before they were
seen are for a generation that has ended. -/
def State.abortPart (s : State) (m : Cmd) (d : DestPart) (code addr : Nat) (mine : Nat → Bool) : State :=
  let s0 := s.noteAbort m [d] true code addr
  let s1 := s0.onIssuer m (fun x => (x.setErr code).less d.owed)
  let s2 := s1.onDest m d (fun x => ((if d.posted || !d.expect then x.less d.owed else x).setErr code).count)
  let m1 := { m with owed := m.owed - d.owed, todo := (indexes m.todo).foldl (fun l k => if mine k then takeIndex k l else l) m.todo,
                     early := m.early.filter (fun x => x.2 != some d.co),
                     dests := mapIf (fun x => x.co == d.co) (fun x => { x with owed := 0, aborted := true, finished := true }) m.dests }
  s2.setCmd m1

/-- COMMAND_ABORT's counts (R156): the code where it is the first, what is still owed, and DONE, in each cell it counts in. Whether a
destination whose part has landed and been counted is still such a cell R156 leaves open: the model leaves it as it is: DESIGN CHOICE (log
entry 82). -/
def State.abortCmd (s : State) (m : Cmd) (code addr : Nat) : State :=
  let open_ := m.dests.filter (fun d => !d.finished)
  let s1 := s.noteAbort m open_ m.apart code addr
  let s2 := s1.onIssuer m (fun x => ((x.setErr code).less m.owed).count)
  let s3 := open_.foldl (fun st d =>
    st.onDest m d (fun x => ((if d.posted || !d.expect then x.less d.owed else x).setErr code).count)) s2
  s3.dropCmd m.id

/-- The source code of an engine's fault entry (R334). -/
def Engine.src : Engine → Nat
  | .copy | .bank => 3
  | .layout => 4
  | .matrix => 5

/-- A command meets an error: it will abort, or it stalls on a page (R156, R334), or makes the access again (R376). -/
def State.cmdError (s : State) (m : Cmd) (e : EngErr) : State :=
  match e with
  | .code c addr => s.onCmd m.id (fun x => { x with err := some (c, BitVec.ofNat 64 addr) })
  | .stall va acc =>
    let (id, s1) := s.freshId
    let st : Stall := { id := id, part := s1.partOfCluster m.cl, cl := m.cl, ctx := m.ctx, va := va, src := m.engine.src, acc := acc }
    let s2 : State := { s1 with stalls := s1.stalls ++ [st] }
    s2.onCmd m.id (fun x => { x with stall := some id })
  | .held _ => s

/-- A command may enter: the accesses that it follows are performed (R129), its queue has a free entry (R13), earlier commands of its
front to the same queue have entered (R279), and of matrix queues the commands enter in the order of their issue (R130, R185). -/
def State.mayEnter (s : State) (m : Cmd) : Bool :=
  !m.entered && !s.accs.any (fun a => m.after.contains a.id) && s.queueRoom m &&
    !s.cmds.any (fun x => decide (x.id < m.id) && !x.entered && (x.sameQueue m ||
      (x.cl == m.cl && x.co == m.co && x.gslot == m.gslot && x.engine == m.engine && x.front.any m.front.contains)))

/-! ### Acknowledgements before the bytes are seen (R289) -/

/-- The destination of an element's bytes counts them. -/
def State.onPartOf (s : State) (m : Cmd) (co : Option Nat) (f : CCell → CCell) : State :=
  match co.bind (fun x => m.dests.find? (fun d => d.co == x)) with
  | some d => s.onDest m d f
  | none => s

/-- A command that has acknowledged what the landing of an element, after which it is m2, would take out of `todo`: the bytes are no longer
owed, and nothing is written yet (R289). -/
def Cmd.ackAs (m m2 : Cmd) (co : Option Nat) : Cmd :=
  { m with owed := m2.owed, stash := m2.stash, dests := mapIf (fun d => some d.co == co) (fun d => { d with owed := d.owed - (m.owed - m2.owed) }) m.dests,
           early := m.early ++ ((indexes m.todo).filter (fun j => !hasIndex j m2.todo)).map (fun j => (j, co)) }

/-- PEND falls by the bytes of an element that is not seen yet (R289). -/
def State.ackEarly (s : State) (m m2 : Cmd) (co : Option Nat) : State :=
  let n := m.owed - m2.owed
  ((s.onIssuer m (CCell.less n)).onPartOf m co (CCell.less n)).setCmd (m.ackAs m2 co)

/-- A command without an acknowledged element, which is not written: it met an error as it was to be seen. The command keeps the first error
it met (R156). -/
def Cmd.lose (m : Cmd) (k : Nat) (err : Option (Nat × DWord)) : Cmd :=
  { m with err := m.err.or err, todo := takeIndex k m.todo, early := m.early.filter (fun x => x.1 != k), stuck := none }

/-- An acknowledged element has been tried: it has landed, is lost to an error, or is stalled on its page. -/
def State.earlyTried (s : State) (m : Cmd) (k : Nat) : State :=
  match s.cmd? m.id with
  | some m2 =>
    if m2.stall.isSome then s.setCmd { m2 with stuck := some k }
    else if m2.err == m.err then s
    else s.setCmd ({ m2 with err := m.err }.lose k m2.err)
  | none => s

/-- A command's page stays unmapped: it meets XLATE, and an acknowledged element that waited for it is lost (R156, R335). -/
def Cmd.failed (m : Cmd) (va : Nat) : Cmd :=
  let err := some (2, BitVec.ofNat 64 va)
  match m.stuck with
  | some k => m.lose k err
  | none => { m with err := m.err.or err }

/-- Land element k by a step of the command: at once, or, by an open choice, acknowledged first and seen by a later step (R289). An
element is acknowledged only where it would land. -/
def State.landWith (run : State → Cmd → Option State) (s : State) (m : Cmd) (k : Nat) (co : Option Nat) : Option State :=
  if m.isEarly k then (run s m).map (fun s1 => s1.earlyTried m k)
  else if m.cell.isNone then run s m
  else
    let (n, s1) := s.choose
    match run s1 m with
    | none => none
    | some s2 =>
      match (if n % 2 = 0 then none else s2.cmd? m.id) with
      | some m2 => if m2.err.isNone && m2.stall.isNone && !hasIndex k m2.todo && m2.dests.map (·.aborted) == m.dests.map (·.aborted) && decide (m2.owed < m.owed) then some (s1.ackEarly m m2 co) else some s2
      | none => some s2

end Sys2Proof.Machine
end

