-- ==== Sys2Proof/Machine/Blocks.lean ====
section
/-! DEFINITION. Blocks: which core receives one, what it starts with, how it is saved and how it ends
(R83 to R87, R95, R97, R99 to R104, R110, R322, R324). -/

namespace Sys2Proof.Machine

/-! ### Long reads and writes of the Saruz -/

/-- Bytes of global memory page by page; a poisoned word is met as it is. -/
def State.gmReadAll (s : State) (cl co : Nat) (c : Context) (prot : Bool) : Nat → Nat → Nat → State × Except PageFault (List Byte × Bool)
  | 0, _, _ => (s, .ok ([], false))
  | fuel + 1, va, n =>
    if n = 0 then (s, .ok ([], false))
    else
      let k := min n (4096 - va % 4096)
      match s.gmRead cl co c prot va k with
      | (s1, .error f) => (s1, .error f)
      | (s1, .ok (l, p)) =>
        match State.gmReadAll s1 cl co c prot fuel (va + k) (n - k) with
        | (s2, .error f) => (s2, .error f)
        | (s2, .ok (l2, p2)) => (s2, .ok (l ++ l2, p || p2))

/-- Bytes that the copy unit reads page by page, protected pages too (R161): POISON and INTEG as it meets them. -/
def State.copyRead (s : State) (cl co : Nat) (c : Context) : Nat → Nat → Nat → State × Except EngErr (List Byte)
  | 0, _, _ => (s, .ok [])
  | fuel + 1, va, n =>
    if n = 0 then (s, .ok [])
    else
      let k := min n (4096 - va % 4096)
      match s.engGm cl co c false true va k with
      | (s1, .error e) => (s1, .error e)
      | (s1, .ok p) =>
        match s1.engLoad c va p with
        | (s2, .error e) => (s2, .error e)
        | (s2, .ok l) =>
          match State.copyRead s2 cl co c fuel (va + k) (n - k) with
          | (s3, .error e) => (s3, .error e)
          | (s3, .ok r) => (s3, .ok (l ++ r))

/-- Bytes that the copy unit writes page by page, protected pages too (R161). -/
def State.copyWrite (s : State) (cl co : Nat) (c : Context) : Nat → Nat → List Byte → State × Except EngErr Unit
  | 0, _, _ => (s, .ok ())
  | fuel + 1, va, l =>
    if l.isEmpty then (s, .ok ())
    else
      let k := min l.length (4096 - va % 4096)
      match s.engGm cl co c true true va k with
      | (s1, .error e) => (s1, .error e)
      | (s1, .ok p) =>
        match s1.engStore cl co c 0 (fun _ => false) va p (l.take k) with
        | (s2, .error e) => (s2, .error e)
        | (s2, .ok _) => State.copyWrite s2 cl co c fuel (va + k) (l.drop k)

/-- Write bytes of global memory page by page. -/
def State.gmWriteAll (s : State) (cl co : Nat) (c : Context) (prot : Bool) : Nat → Nat → List Byte → State × Except PageFault Unit
  | 0, _, _ => (s, .ok ())
  | fuel + 1, va, l =>
    if l.isEmpty then (s, .ok ())
    else
      let k := min l.length (4096 - va % 4096)
      match s.gmWrite cl co c prot va (l.take k) with
      | (s1, .error f) => (s1, .error f)
      | (s1, .ok _) => State.gmWriteAll s1 cl co c prot fuel (va + k) (l.drop k)

/-! ### Where a block may go (R83, R87, R324) -/

/-- The domain of a core at a domain code above CORE (R83). -/
def domainOf (code cl co : Nat) : Nat :=
  match code with
  | 0 | 1 => cl * 128 + co
  | 2 => cl * 64 + co / 2
  | 3 => cl
  | 4 => cl / 2
  | _ => 0

/-- A core can take a block of a context: its cluster serves the context and no switch, clear or failure is under way, and it
holds nothing (R87, R311, R324, R371, R374). -/
def State.coreFree (s : State) (ctx cl co : Nat) : Bool :=
  let k := s.cluster cl
  let c := s.core cl co
  k.ctx == some ctx && k.next.isNone && !k.clearing && !k.failed && !k.outOfService && c.block.isNone && !c.svc.fenced && !c.svc.testing && !c.svc.testDue && !c.svc.failed

/-- Blocks already placed of the same units pin a block to their domains (R83). -/
def Launch.pinOk (l : Launch) (index cl co : Nat) : Bool :=
  (List.range l.levels.length).all (fun i =>
    if i ≤ l.blockLevel then true
    else
      let code := (l.levels[i]?.map (fun d => d.domain)).getD 0
      l.blocks.all (fun b => b.index / l.blocksIn i != index / l.blocksIn i ||
        (match b.pinned with | some (x, y) => domainOf code x y == domainOf code cl co | none => true)))

/-- The free cores of the launch's partition, a given one first. -/
def State.freeCores (s : State) (l : Launch) (cl co : Nat) : List (Nat × Nat) :=
  let all := (List.range Config.clusters).flatMap (fun k =>
    if s.partOfCluster k == l.part && (s.cluster k).ctx == some l.ctx then (List.range Config.coresPerCluster).map (fun j => (k, j)) else [])
  (cl, co) :: (all.filter (fun x => x != (cl, co) && s.coreFree l.ctx x.1 x.2))

/-- A list in an order that a number picks; the numbers pick every order. -/
def orderBy {α : Type} : Nat → Nat → List α → List α
  | 0, _, l => l
  | fuel + 1, n, l =>
    match l[n % max 1 l.length]? with
    | none => []
    | some x => x :: orderBy fuel (n / max 1 l.length) (l.eraseIdx (n % max 1 l.length))

/-- Place n units in turn, each by a placement of one unit; none where one finds no room. -/
def placeMany (one : Nat → List (Nat × Nat) → Option (List (Nat × Nat × Nat) × List (Nat × Nat))) :
    List Nat → List (Nat × Nat) → Option (List (Nat × Nat × Nat) × List (Nat × Nat))
  | [], free => some ([], free)
  | u :: us, free =>
    match one u free with
    | none => none
    | some (l, rest) => (placeMany one us rest).map (fun (l2, rest2) => (l ++ l2, rest2))

/-- Blocks of a unit of a level that wait to be placed, by the index of its first block. -/
def Launch.waitingIn (l : Launch) (lev first : Nat) : Bool :=
  l.blocks.any (fun b => b.at_ == .waiting && decide (first ≤ b.index) && decide (b.index < first + l.blocksIn lev))

/-- Place the waiting blocks of a unit of a level, which begins with block `first`, inside one instance of its domain
(R83, R87): the blocks with their cores, and the cores left. -/
def placeUnit (l : Launch) : Nat → Nat → Nat → List (Nat × Nat) → Option (List (Nat × Nat × Nat) × List (Nat × Nat))
  | 0, _, _, _ => none
  | fuel + 1, lev, first, free =>
    if !l.waitingIn (max lev l.blockLevel) first then some ([], free)
    else if lev ≤ l.blockLevel then (free.find? (fun x => l.pinOk first x.1 x.2)).map (fun x => ([(first, x.1, x.2)], free.filter (fun y => y != x)))
    else
      let code := (l.levels[lev]?.map (fun d => d.domain)).getD 0
      let firsts := (List.range ((l.levels[lev]?.map (fun d => d.extent)).getD 1)).map (fun i => first + i * l.blocksIn (lev - 1))
      let places := (free.map (fun x => domainOf code x.1 x.2)).eraseDups
      places.findSome? (fun p =>
        (placeMany (placeUnit l fuel (lev - 1)) firsts (free.filter (fun x => domainOf code x.1 x.2 == p))).map
          (fun (taken, _) => (taken, free.filter (fun x => !(taken.map Prod.snd).contains x))))

/-- The first block of a launch that waits; blocks go in increasing index (R87). -/
def Launch.nextBlock (l : Launch) : Option Nat := (l.blocks.find? (fun b => b.at_ == .waiting)).map (fun b => b.index)

/-- A block that migrates stays on its cluster (R371). -/
def Launch.stayOk (l : Launch) (p : Nat × Nat × Nat) : Bool :=
  l.blocks.all (fun b => b.index != p.1 || (match b.stay with | some k => k == p.2.1 | none => true))

/-- Every block of a block's GANG unit that has not ended waits to be placed (R87, R371). -/
def Launch.unitWaits (l : Launch) (block : Nat) : Bool :=
  let us := l.unitBlocks block
  l.blocks.all (fun b => !us.contains b.index || b.at_ == .waiting || b.at_ == .ended)

/-- The cores of the blocks that are placed with a block when it goes to a core: itself, or its whole GANG unit, whose other
waiting blocks take the free cores in an order that `pick` gives (R87). -/
def State.placement (s : State) (l : Launch) (pick block cl co : Nat) : Option (List (Nat × Nat × Nat)) :=
  if l.ended || l.nextBlock != some block || !s.coreFree l.ctx cl co || s.partOfCluster cl != l.part || !l.pinOk block cl co then none
  else
    match l.gangLevel with
    | none => if l.stayOk (block, cl, co) then some [(block, cl, co)] else none
    | some g =>
      let n := l.blocksIn g
      let cores := s.freeCores l cl co
      let free := (cores.take 1 ++ orderBy cores.length pick (cores.drop 1)).filter (fun x => l.pinOk block x.1 x.2)
      if !l.unitWaits block then none
      else
        match placeUnit l 9 g (block / n * n) free with
        | some (ps, _) => if ps.head? == some (block, cl, co) && ps.all l.stayOk then some ps else none
        | none => none

/-! ### What a block starts with (R86, R95, R97, R104, R322) -/

/-- The threads of a fresh block (R322): v0 and v1 hold ARGBLK where the entry declares two arguments. -/
def freshThread (s : State) (l : Launch) (block i tid : Nat) : Thread :=
  let linear := block * l.blockSize + i
  let args : Nat := ((s.proc? l.image l.entry).map (fun p => p.args)).getD 0
  let words := if 2 ≤ args then [l.argblk.extractLsb' 0 32, l.argblk.extractLsb' 32 32] else []
  { newThread l tid block linear l.entry words with linear := linear, lidx := l.lidxOf linear }

/-- System software has answered FAIL for a page that a block's copy waits for (R335). -/
def State.copyFailed (s : State) (ctx va : Nat) : Bool := s.stalls.any (fun x => x.src == 3 && x.who.isNone && x.fail && x.ctx == ctx && x.va / 4096 == va / 4096)

/-- The address for which a read for a relaunch waits: its page may still be mapped, or its memory cannot be reached now (R334, R369, R376). -/
def State.readWaits (s : State) (c : Context) : PageFault → Option Nat
  | .unreachable va => some va
  | .translation true va => if c.trapMode || s.copyFailed c.ctx va then none else some va
  | _ => none

/-- The address for which a read of code for a relaunch waits. -/
def State.codeWaits (s : State) (c : Context) (e : FetchFault) : Option Nat :=
  if e.wait || (e.resolve && !c.trapMode && !s.copyFailed c.ctx e.addr) then some e.addr else none

/-- The links of the calls in progress of a record, outermost first, read from the thread's stack image (R34, R72, R82), each with the
word above its caller's frame; an address for which the reading waits. -/
def State.readLinks (s : State) (cl co : Nat) (c : Context) (img : Image) (base : Nat) : Nat → Nat → List (Path × Nat) → State × Except Nat (List (Path × Nat))
  | 0, _, acc => (s, .ok acc)
  | fuel + 1, wb, acc =>
    if wb < 4 then (s, .ok acc)
    else
      match s.gmRead cl co c c.prot (base + 4 * (wb - 4)) 16 with
      | (s1, .error f) => (s1, match s.readWaits c f with | some va => .error va | none => .ok acc)
      | (s1, .ok (_, true)) => (s1, .ok acc)
      | (s1, .ok (l, false)) =>
        match Path.decode (leNat l) with
        | none => (s1, .ok acc)
        | some p =>
          match s1.nodeAt img p.proc p.digits with
          | .error e => (s1, match s.codeWaits c e with | some va => .error va | none => .ok acc)
          | .ok n =>
            let off := match n.hdr.kind with | .call _ off => off | .callI _ off _ => off | _ => 0
            if off = 0 || off > wb then (s1, .ok acc)
            else State.readLinks s1 cl co c img base fuel (wb - off) ((p, wb - off + s.frameSize img.handle p.proc) :: acc)

/-- The pending phases above the block that a thread held when it parked (R89). -/
def heldPhases (bs : List Barrier) (stack : Nat) : List (Nat × Nat) :=
  bs.filterMap (fun b => (b.held.find? (fun x => x.1 == stack)).map (fun x => (b.level, x.2)))

/-- A relaunched thread (R82, R104): its record's position, window and indexes, overlaid by the restore procedure of its safe point. Where a
record with a valid path designates no SAFE node, R104 foresees no restore procedure and R43 no position: the thread goes on without one and
completes the node that the path designates: DESIGN CHOICE (log entry 81). A path that designates a SAFE node with OP = 0 is relaunched as one
with OP = 1: DESIGN CHOICE (log entry 81). Its links and its node may have to be waited for. -/
def State.relaunched (s : State) (cl co : Nat) (l : Launch) (block tid : Nat) (r : ContRec) : State × Except Nat Thread :=
  let c := s.ctxOf l.ctx
  let (sp, sl) := stackRegion l r.stack
  let (s1, links) := match s.image? l.image with | some i => s.readLinks cl co c i (sp.toNat + l.p) (r.wb / 8 + 1) r.wb [] | none => (s, .ok [])
  match links with
  | .error va => (s1, .error va)
  | .ok links =>
    let t : Thread :=
      { tid := tid, launch := l.id, block := block, stackNo := r.stack, linear := r.stack, detached := r.detached, lidx := r.lidx, sptr := sp, slim := sl,
        p := l.p, td := l.td, image := l.image, wb := r.wb, calls := links.map Prod.fst, tops := links.map Prod.snd, path := r.path,
        pending := heldPhases l.barriers r.stack, relaunched := true }
    let own := fun (u : Thread) =>
      let own := chunksOf r.wb (s1.frameOf u)
      { u with spilled := (List.range (max r.wb (greatest u.tops) / 8)).filter (fun j => !own.contains j) }
    match s1.safeNode t with
    | .ok (some e) => (s1, .ok (own { t with overlay := .restore e.k links.length { r.path with op := 1 } r.addr, path := ⟨e.restore, [], 0⟩ }))
    | .ok none => (s1, .ok (own { t with act := .move .complete, trips := s1.zeroTrips l.image r.path }))
    | .error e =>
      match s1.codeWaits c e with
      | some va => (s1, .error va)
      | none => (s1, .ok (own { t with act := .move .complete, trips := s1.zeroTrips l.image r.path }))

/-- The threads of records, numbered in their order. -/
def State.relaunchAll (s : State) (cl co : Nat) (l : Launch) (block : Nat) : List (ContRec × Nat) → State × Except Nat (List Thread)
  | [] => (s, .ok [])
  | (r, i) :: rest =>
    match s.relaunched cl co l block (s.nextId + i) r with
    | (s1, .error va) => (s1, .error va)
    | (s1, .ok t) =>
      match State.relaunchAll s1 cl co l block rest with
      | (s2, .error va) => (s2, .error va)
      | (s2, .ok ts) => (s2, .ok (t :: ts))

/-- The union of the keep ranges of a block's records (R104). -/
def State.recordKeeps (s : State) (l : Launch) (rs : List ContRec) : List (Nat × Nat) :=
  (rs.flatMap (fun r =>
    match s.image? l.image with
    | none => []
    | some i =>
      (match s.nodeAt i r.path.proc r.path.digits with
       | .ok n => (match n.hdr.kind with | .safe k => s.keepOf l.image k r.path.proc | _ => [])
       | .error _ => []))).eraseDups

/-- Where a byte of a block's allocation is saved (R102). -/
def saveVa (l : Launch) (block off : Nat) : Nat := l.bsa.toNat + l.z * block + off

/-- Forget the answers a context's block copies have used. -/
def State.copyOver (s : State) (ctx : Nat) : State := { s with stalls := s.stalls.filter (fun x => !(x.src == 3 && x.who.isNone && x.fail && x.ctx == ctx)) }

/-- An error that ends a keep-range copy, for no thread's cell reports it (R156, R341); an address where the copy waits for its page or its
peer. -/
def State.copyEnds (s : State) (cl co : Nat) (c : Context) (e : EngErr) : State × Option Nat :=
  match e with
  | .code x a => (s.logEngine cl co c.ctx (0xE0 + codeFamily x) x a, none)
  | .held va => (s, some va)
  | .stall va _ => if s.copyFailed c.ctx va then (s.logEngine cl co c.ctx 0xE0 2 va, none) else (s, some va)

/-- Copy keep ranges back into a new allocation (R104, R161); a range that cannot be read stays zero and is recorded (R341). An
unmapped page in resolve mode gives the address to wait for. -/
def State.keepIn (s : State) (cl co : Nat) (l : Launch) (block : Nat) : List (Nat × Nat) → State × Option Nat
  | [] => (s, none)
  | (off, len) :: rest =>
    let c := s.ctxOf l.ctx
    match s.copyRead cl co c (len / 4096 + 2) (saveVa l block off) len with
    | (s1, .ok bytes) => State.keepIn (s1.store (spAddr cl co off) bytes) cl co l block rest
    | (s1, .error e) =>
      match s1.copyEnds cl co c e with
      | (s2, some va) => (s2, some va)
      | (s2, none) => State.keepIn s2 cl co l block rest

/-- The cluster reads a ring's header when the launch's first block comes to it (R95). -/
def State.ringIn (s : State) (cl co : Nat) (l : Launch) : State × Option Nat :=
  if l.sra == 0 || (s.cluster cl).rings.any (fun r => r.1 == l.id) then (s, none)
  else
    let c := s.ctxOf l.ctx
    match s.gmRead cl co c c.prot (l.sra.toNat + 0x41000 * cl) 8 with
    | (s1, .ok (b, false)) => (s1.setCluster ((s1.cluster cl).setRing l.id (bits (leNat b) 32 32) (bits (leNat b) 0 32)), none)
    | (s1, .error (.unreachable va)) => (s1, some va)
    | (s1, .error (.translation true va)) => if c.trapMode || s1.copyFailed l.ctx va then (s1.setCluster ((s1.cluster cl).setRing l.id 0 0), none) else (s1, some va)
    | (s1, _) => (s1.setCluster ((s1.cluster cl).setRing l.id 0 0), none)

/-- The threads of a block, or the address for which its relaunch waits. -/
def State.blockThreads (s : State) (l : Launch) (b : BlockRec) (cl co : Nat) : State × Except Nat (List Thread) :=
  if l.relaunches b then s.relaunchAll cl co l b.index b.records.zipIdx
  else (s, .ok ((List.range l.blockSize).map (fun i => freshThread s l b.index i (s.nextId + i))))

/-- The core's own storage reads as a new block finds it: cells zero, tiles cleared, its allocation zero (R86). Its lanes go on (R14, R15). -/
def State.clearCore (s : State) (cl co z : Nat) : State :=
  ((s.zero (spAddr cl co 0) z).zero (Config.tileBase + (cl * 128 + co) * 4 * 65536) (4 * 65536)).onCore cl co (fun c =>
    { c with cells := [], threads := [], groups := [], bins := [], ibuf := [], xfers := [], wants := [] })

/-- Put one block on a core; an address where it must wait for a page to be mapped (R86, R95, R104, R322). -/
def State.placeBlock (s : State) (l : Launch) (index cl co : Nat) : State × Option Nat :=
  match l.blocks.find? (fun b => b.index == index) with
  | none => (s, none)
  | some b =>
    match (s.clearCore cl co l.z).ringIn cl co l with
    | (s1, some va) => (s1, some va)
    | (s1, none) =>
      match s1.keepIn cl co l index (if l.relaunches b then s1.recordKeeps l b.records else []) with
      | (s2, some va) => (s2, some va)
      | (s2, none) =>
        match s2.blockThreads l b cl co with
        | (s3, .error va) => (s3, some va)
        | (s3, .ok ts) =>
        let s3 := { s3 with nextId := s3.nextId + ts.length }
        let s4 := s3.onCore cl co (fun c =>
          { c with block := some { launch := l.id, index := index, z := l.z, ctx := l.ctx }, threads := ts, bkpten := (s.ctxOf l.ctx).bkpten })
        (s4.onLaunch l.id (fun l => { l with blocks := mapIf (fun x => x.index == index) (fun x => { x with at_ := .placed cl co, pinned := some (cl, co), records := [] }) l.blocks }), none)

/-- Put blocks on their cores in turn. -/
def State.placeBlocks (s : State) (l : Launch) : List (Nat × Nat × Nat) → State × Option Nat
  | [] => (s, none)
  | (index, cl, co) :: r =>
    match s.placeBlock l index cl co with
    | (s1, some va) => (s1, some va)
    | (s1, none) => State.placeBlocks s1 l r

/-- A stall of the copy unit on an unmapped page (R334). -/
def State.copyStall (s : State) (cl : Nat) (c : Context) (va : Nat) (acc : AccessKind) : State :=
  let (id, s1) := s.freshId
  { s1 with stalls := s1.stalls ++ [{ id := id, part := c.part, cl := cl, ctx := c.ctx, va := va, src := 3, acc := acc }] }

/-- A block's copy waits at an address: for its page to be mapped (R334), or, made again, for what it reaches to serve it
(R369, R376). -/
def State.copyWait (s : State) (cl : Nat) (c : Context) (va : Nat) (acc : AccessKind) : Host.Outcome State Fault Refusal :=
  if (match (s.translate cl 0 c va false).2 with | .ok lf => s.stallsAt lf.phys | .error m => m == .wait : Bool) then .next s
  else if s.stalledOn c.ctx va then .refused .notEnabled
  else .next (s.copyStall cl c va acc)

/-! ### Saved and ended blocks (R95, R102, R103, R110) -/

/-- The block's threads have all ended or parked, its accesses are performed, and its engine commands, a pair command of its leader too,
have completed (R102, R103, R128, R192). -/
def State.blockIdle (s : State) (c : Core) (b : Block) : Bool :=
  c.threads.isEmpty && c.groups.all (fun g => g.bounds.isEmpty && g.count == 0 && g.unhashed.isEmpty) && !s.accs.any (fun a => a.cl == c.cl && a.co == c.co) &&
    !s.cmds.any (fun x => x.cl == c.cl && x.launch == b.launch &&
      ((x.co == c.co && x.block == b.index) || (x.pair && x.co + 1 == c.co)))

/-- The next generation (R110). -/
def nextGen (g : Nat) : Nat := if g = 63 then 1 else g + 1

/-- The launch has no more blocks on the cluster: its ring's header is written back (R95); the address where that waits for its page, or for
a peer. -/
def State.ringOut (s : State) (cl co : Nat) (l : Launch) : State × Option Nat :=
  if s.cores.any (fun c => c.cl == cl && c.block.any (fun b => b.launch == l.id)) || l.sra == 0 then (s, none)
  else
    let (head, tail) := (s.cluster cl).ring l.id
    let c := s.ctxOf l.ctx
    let gone := fun (st : State) => st.setCluster { (st.cluster cl) with rings := (st.cluster cl).rings.filter (fun r => r.1 != l.id) }
    match s.gmWrite cl co c c.prot (l.sra.toNat + 0x41000 * cl) (leBytes 4 tail ++ leBytes 4 head) with
    | (s1, .error (.unreachable va)) => (s1, some va)
    | (s1, .error (.translation true va)) => if c.trapMode || s1.copyFailed l.ctx va then (gone s1, none) else (s1, some va)
    | (s1, _) => (gone s1, none)

/-- Release a core: the generation steps, and the core may take a new block (R103, R110). -/
def State.releaseCore (s : State) (c : Core) (b : Block) (dst : BlockAt) : State × Option Nat :=
  let s1 := s.onCore c.cl c.co (fun k => { k with block := none, gen := nextGen k.gen, cells := [], groups := [], bins := [], ibuf := [], xfers := [], wants := [] })
  let s2 := s1.onLaunch b.launch (fun l => { l with blocks := mapIf (fun x => x.index == b.index) (fun x => { x with at_ := dst }) l.blocks })
  let (s3, w) := match s2.launch? b.launch with | some l => s2.ringOut c.cl c.co l | none => (s2, none)
  (s3.coreFreed c.cl c.co, w)

/-- Copy keep ranges to the block save area (R102, R161), as keepIn does; the page to wait for where one is unmapped. -/
def State.keepOut (s : State) (cl co : Nat) (l : Launch) (block : Nat) : List (Nat × Nat) → State × Option Nat
  | [] => (s, none)
  | (off, len) :: rest =>
    let c := s.ctxOf l.ctx
    let r := match (wordsOf (spAddr cl co off) len).find? s.poison.contains with
      | some w => (s, Except.error (EngErr.code 0x08 (2 ^ 60 + co * 2 ^ 27 + (4 * w - spAddr cl co 0))))
      | none => s.copyWrite cl co c (len / 4096 + 2) (saveVa l block off) (s.mem.readBytes (spAddr cl co off) len)
    match r with
    | (s1, .ok _) => State.keepOut s1 cl co l block rest
    | (s1, .error e) =>
      match s1.copyEnds cl co c e with
      | (s2, some va) => (s2, some va)
      | (s2, none) => State.keepOut s2 cl co l block rest

/-- Read a continuation record's header (R100): the record, or the 128 bits of the path of one that is rejected (R44, R104). -/
def State.contRec (s : State) (img : Image) (addr : Nat) (l : List Byte) : Nat × Except Nat ContRec :=
  let n := leNat l
  let block := bits n 288 32
  match Path.decode (bits n 0 128) with
  | none => (block, .error (bits n 0 128))
  | some p =>
    if !bit n 368 || !s.pathOk img p then (block, .error (bits n 0 128))
    else (block, .ok { addr := BitVec.ofNat 64 addr, path := p, lidx := (List.range 8).map (fun i => bits n (128 + 16 * i) 16),
                       stack := bits n 256 32, wb := bits n 320 32, detached := bit n 369 })

/-- A rejected record is reported in the context's record (R44, R342). -/
def State.rejectRec (s : State) (cl co ctx addr path : Nat) : State :=
  s.logCtx cl co ctx { kind := 5, cause := 0x16D, path := path, addr := addr, cluster := cl, core := co }

/-- The address for which the code that a record's path names must be waited for. -/
def State.pathWaits (s : State) (c : Context) (img : Image) (l : List Byte) : Option Nat :=
  match Path.decode (bits (leNat l) 0 128) with
  | none => none
  | some p => (match s.nodeAt img p.proc p.digits with | .error e => s.codeWaits c e | .ok _ => none)

/-- The records that a block's threads wrote as they parked, in address order; the address for which the reading waits. -/
def State.parkedRecs (s : State) (cl co : Nat) (l : Launch) : List Nat → State × Except Nat (List ContRec)
  | [] => (s, .ok [])
  | a :: rest =>
    let c := s.ctxOf l.ctx
    let (s1, one) : State × Except Nat (List ContRec) :=
      match s.gmRead cl co c c.prot a 64, s.image? l.image with
      | (s1, .ok (b, false)), some i =>
        (match s1.pathWaits c i b with
         | some va => (s1, .error va)
         | none =>
           match s1.contRec i a b with
           | (_, .ok r) => (s1, .ok [r])
           | (_, .error p) => (s1.rejectRec cl co l.ctx a p, .ok []))
      | (s1, .error f), _ =>
        (match s1.readWaits c f with
         | some va => (s1, .error va)
         | none => (s1.rejectRec cl co l.ctx a 0, .ok []))
      | (s1, _), _ => (s1.rejectRec cl co l.ctx a 0, .ok [])
    match one with
    | .error va => (s1, .error va)
    | .ok l1 =>
      match State.parkedRecs s1 cl co l rest with
      | (s2, .error va) => (s2, .error va)
      | (s2, .ok more) => (s2, .ok (l1 ++ more))

/-- The addresses of the records that a block's threads have written. -/
def Launch.savedAddrs (l : Launch) (index : Nat) : List Nat :=
  (((l.blocks.find? (fun x => x.index == index)).map (fun x => x.saved.map BitVec.toNat)).getD []).foldl setInsert []

/-- The threads of a core's block that have parked are relaunched into it from their records (R104, R372); the address for which that waits. -/
def State.unpark (s : State) (c : Core) (b : Block) (l : Launch) : State × Option Nat :=
  match s.parkedRecs c.cl c.co l (l.savedAddrs b.index) with
  | (s1, .error va) => (s1, some va)
  | (s1, .ok rs) =>
    match s1.relaunchAll c.cl c.co l b.index rs.zipIdx with
    | (s2, .error va) => (s2, some va)
    | (s2, .ok ts) =>
      let s3 := State.onCore { s2 with nextId := s2.nextId + ts.length } c.cl c.co (fun c =>
        { c with threads := c.threads ++ ts, block := c.block.map (fun b => { b with keep := [], parked := false }) })
      (s3.onLaunch l.id (fun l => { l with blocks := mapIf (fun x => x.index == b.index) (fun x => { x with parked := [], saved := [] }) l.blocks }), none)

/-- A block whose save has been withdrawn and whose parked threads are still to be relaunched into it (R372). -/
def Block.unparks (b : Block) : Bool := b.parked && b.save.isNone

/-- BLOCK_PLACE: a block, or the whole GANG unit that begins with it, is placed (R86, R87, R104, R322); or the parked threads of a block whose
save has been withdrawn are relaunched into it (R372). Where a page that its start must read is unmapped, nothing is placed yet and the page is
asked for. -/
def execBlockPlace (launch block cl co : Nat) (s : State) : Host.Outcome State Fault Refusal :=
  match s.launch? launch with
  | none => .refused .notEnabled
  | some l =>
    let c := s.core cl co
    match c.block.filter (fun b => b.launch == launch && b.index == block && b.unparks) with
    | some b =>
      (match s.unpark c b l with
       | (s1, none) => .next (s1.copyOver l.ctx)
       | (_, some va) => s.copyWait cl (s.ctxOf l.ctx) va .read)
    | none =>
      match s.placement l 0 block cl co with
      | none => .refused .notEnabled
      | some ps =>
        let (pick, s0) := if l.gangLevel.isSome then s.choose else (0, s)
        match s0.placeBlocks l ((s0.placement l pick block cl co).getD ps) with
        | (s1, none) => .next (s1.copyOver l.ctx)
        | (_, some va) => s.copyWait cl (s.ctxOf l.ctx) va .read

/-- What becomes of a block whose threads have parked: a time slice keeps it saved; a test or a replacement of its core
relaunches it whole on another core of the cluster (R371, R373, R374). -/
def State.savedAs (s : State) (c : Core) (b : Block) (l : Launch) : State × Option Nat :=
  match b.save with
  | some .test | some .replace =>
    match s.parkedRecs c.cl c.co l (l.savedAddrs b.index) with
    | (s1, .error va) => (s1, some va)
    | (s1, .ok rs) =>
      let s2 := s1.onLaunch l.id (fun l => { l with blocks := mapIf (fun x => x.index == b.index) (fun x =>
        { x with records := rs, parked := [], saved := [], stay := some c.cl }) l.blocks })
      let (s3, w) := s2.releaseCore c b .waiting
      (s3.noteCtx c.cl c.co l.ctx 4 0, w)
  | _ => s.releaseCore c b .saved

/-- The cores that hold a block's GANG unit, or the block alone (R87). -/
def State.unitCores (s : State) (l : Launch) (index : Nat) : List (Core × Block) :=
  let us := l.unitBlocks index
  s.cores.filterMap (fun c => (c.block.filter (fun b => b.launch == l.id && us.contains b.index)).map (fun b => (c, b)))

/-- Release the cores of blocks that are over in turn: saved, or ended. -/
def State.releaseUnit (s : State) (launch : Nat) : List (Core × Block) → State × Option Nat
  | [] => (s, none)
  | (c, b) :: rest =>
    match s.launch? launch with
    | none => (s, none)
    | some l =>
      match (if b.parked then s.savedAs c b l else s.releaseCore c b .ended) with
      | (s1, some va) => (s1, some va)
      | (s1, none) => State.releaseUnit s1 launch rest

/-- A block is over: the blocks of its GANG unit stay resident together until all of them are, and leave their cores then (R87, R103); one that a
time slice has saved, or that has ended before a time slice, is released at once (R102, R311). -/
def State.blockOver (s : State) (c : Core) (l : Launch) (index : Nat) : State × Option Nat :=
  let s1 := s.onCore c.cl c.co (fun k => { k with block := k.block.map (fun b => { b with isOver := true }) })
  let unit := s1.unitCores l index
  if c.block.any (fun b => b.save == some .slice) then s1.releaseUnit l.id (unit.filter (fun x => x.2.index == index))
  else if unit.all (fun x => x.2.isOver) then s1.releaseUnit l.id unit else (s1, none)

/-- A block is saved now: a save is asked for, and every thread has parked or ended, one of them parked (R102). -/
def State.blockSaves (s : State) (c : Core) (b : Block) : Bool := s.blockIdle c b && b.parked && b.save.isSome && !b.isOver

/-- BLOCK_SAVED: every thread has parked or ended, at least one parked; the keep ranges are copied and the core released (R102). -/
def execBlockSaved (cl co : Nat) (s : State) : Host.Outcome State Fault Refusal :=
  let c := s.core cl co
  match c.block with
  | none => .refused .notEnabled
  | some b =>
    match s.launch? b.launch with
    | none => .refused .notEnabled
    | some l =>
      if !s.blockSaves c b then .refused .notEnabled
      else
        match s.keepOut cl co l b.index b.keep.eraseDups with
        | (s1, some va) => s1.copyWait cl (s.ctxOf l.ctx) va .write
        | (s1, none) =>
          match (s1.copyOver l.ctx).blockOver c l b.index with
          | (s2, none) => .next s2
          | (_, some va) => s1.copyWait cl (s.ctxOf l.ctx) va .write

/-- A block ends now: its threads have all ended, none parked, and no child of its launch waits for it (R94, R103); or it is over and a time slice
takes its core (R102, R311). -/
def State.blockEnds (s : State) (c : Core) (b : Block) : Bool :=
  if b.isOver then b.save == some .slice else s.blockIdle c b && !b.parked && !s.ringHolds c b

/-- BLOCK_END: every thread has ended and every engine command of the block has completed (R103, R110). -/
def execBlockEnd (cl co : Nat) (s : State) : Host.Outcome State Fault Refusal :=
  let c := s.core cl co
  match c.block with
  | none => .refused .notEnabled
  | some b =>
    match s.launch? b.launch with
    | none => .refused .notEnabled
    | some l =>
      if !s.blockEnds c b then .refused .notEnabled
      else
        match s.blockOver c l b.index with
        | (s1, none) => .next (s1.copyOver l.ctx)
        | (_, some va) => s.copyWait cl (s.ctxOf l.ctx) va .write

/-- The block of a core waits for a page of its save area. -/
def State.saveWaits (s : State) (cl : Nat) (b : Block) : Bool := s.stalls.any (fun x => x.src == 3 && x.cl == cl && x.ctx == b.ctx && x.who.isNone && !x.fail)

/-- The placements that may be made for a launch. -/
def State.placeSteps (s : State) (l : Launch) : List Instr :=
  (s.cores.filterMap (fun c => (c.block.filter (fun b => b.launch == l.id && b.unparks && !s.saveWaits c.cl b)).map (fun b => .blockPlace l.id b.index c.cl c.co))) ++
  match l.nextBlock with
  | none => []
  | some b =>
    if l.ended || s.stalls.any (fun x => x.src == 3 && x.ctx == l.ctx && x.who.isNone && !x.fail) then []
    else
      (s.freeCores l 99 0).filterMap (fun x => if (s.placement l 0 b x.1 x.2).isSome then some (.blockPlace l.id b x.1 x.2) else none)

/-- The steps of blocks that may be taken. -/
def State.blockSteps (s : State) : List Instr :=
  s.launches.flatMap s.placeSteps ++
    s.cores.flatMap (fun c =>
      match c.block with
      | none => []
      | some b =>
        if s.saveWaits c.cl b then []
        else if s.blockEnds c b then [.blockEnd c.cl c.co]
        else if s.blockSaves c b then [.blockSaved c.cl c.co] else [])

end Sys2Proof.Machine
end

