-- ==== Sys2Proof/Machine/Compact.lean ====
section
/-! DEFINITION. The compact forms: each means its canonical operation with the fields it expands to (R204, R206). -/

namespace Sys2Proof.Machine

/-- The fields a compact form expands to (R204). -/
def compactOps (i : Instr) : Ops :=
  match expand i with
  | some (_, _, o) => o
  | none => ⟨false, 0, 0, .zero, .zero, .zero, .zero, 0, 0⟩

/-- FORM 0x00: add.s32 (R204). -/
def execAddS32Compact (d a b : Fin 64) (s : State) : Host.Outcome State Fault Refusal :=
  let x := compactOps (.addS32Compact d a b)
  runInt (.addS32Compact d a b) 0x040 x resAdd s
/-- FORM 0x01: sub.s32 (R204). -/
def execSubS32Compact (d a b : Fin 64) (s : State) : Host.Outcome State Fault Refusal :=
  let x := compactOps (.subS32Compact d a b)
  runInt (.subS32Compact d a b) 0x042 x resSub s
/-- FORM 0x02: mul.s32 (R204). -/
def execMulS32Compact (d a b : Fin 64) (s : State) : Host.Outcome State Fault Refusal :=
  let x := compactOps (.mulS32Compact d a b)
  runInt (.mulS32Compact d a b) 0x044 x resMul s
/-- FORM 0x03: mad.s32 (R204). -/
def execMadS32Compact (d a b c : Fin 64) (s : State) : Host.Outcome State Fault Refusal :=
  let x := compactOps (.madS32Compact d a b c)
  runInt (.madS32Compact d a b c) 0x046 x resMad s
/-- FORM 0x04: min (R204). -/
def execMinS32Compact (d a b : Fin 64) (s : State) : Host.Outcome State Fault Refusal :=
  let x := compactOps (.minS32Compact d a b)
  runInt (.minS32Compact d a b) 0x048 x resMin s
/-- FORM 0x05: max (R204). -/
def execMaxS32Compact (d a b : Fin 64) (s : State) : Host.Outcome State Fault Refusal :=
  let x := compactOps (.maxS32Compact d a b)
  runInt (.maxS32Compact d a b) 0x049 x resMax s
/-- FORM 0x06: min (R204). -/
def execMinZ32Compact (d a b : Fin 64) (s : State) : Host.Outcome State Fault Refusal :=
  let x := compactOps (.minZ32Compact d a b)
  runInt (.minZ32Compact d a b) 0x048 x resMin s
/-- FORM 0x07: max (R204). -/
def execMaxZ32Compact (d a b : Fin 64) (s : State) : Host.Outcome State Fault Refusal :=
  let x := compactOps (.maxZ32Compact d a b)
  runInt (.maxZ32Compact d a b) 0x049 x resMax s
/-- FORM 0x08: and.b32 (R204). -/
def execAndCompact (d a b : Fin 64) (s : State) : Host.Outcome State Fault Refusal :=
  let x := compactOps (.andCompact d a b)
  runInt (.andCompact d a b) 0x090 x resAnd s
/-- FORM 0x09: or.b32 (R204). -/
def execOrCompact (d a b : Fin 64) (s : State) : Host.Outcome State Fault Refusal :=
  let x := compactOps (.orCompact d a b)
  runInt (.orCompact d a b) 0x091 x resOr s
/-- FORM 0x0A: xor.b32 (R204). -/
def execXorCompact (d a b : Fin 64) (s : State) : Host.Outcome State Fault Refusal :=
  let x := compactOps (.xorCompact d a b)
  runInt (.xorCompact d a b) 0x092 x resXor s
/-- FORM 0x0B: andn.b32 (R204). -/
def execAndnCompact (d a b : Fin 64) (s : State) : Host.Outcome State Fault Refusal :=
  let x := compactOps (.andnCompact d a b)
  runInt (.andnCompact d a b) 0x094 x resAndn s
/-- FORM 0x0C: shl.b32 (R204). -/
def execShlCompact (d a b : Fin 64) (s : State) : Host.Outcome State Fault Refusal :=
  let x := compactOps (.shlCompact d a b)
  runInt (.shlCompact d a b) 0x080 x resShl s
/-- FORM 0x0D: shr.b32 (R204). -/
def execShrCompact (d a b : Fin 64) (s : State) : Host.Outcome State Fault Refusal :=
  let x := compactOps (.shrCompact d a b)
  runInt (.shrCompact d a b) 0x081 x resShr s
/-- FORM 0x0E: sar.s32 (R204). -/
def execSarCompact (d a b : Fin 64) (s : State) : Host.Outcome State Fault Refusal :=
  let x := compactOps (.sarCompact d a b)
  runInt (.sarCompact d a b) 0x082 x resSar s
/-- FORM 0x0F: mov.b32 (R204). -/
def execMovCompact (d a : Fin 64) (s : State) : Host.Outcome State Fault Refusal :=
  let x := compactOps (.movCompact d a)
  runInt (.movCompact d a) 0x0C0 x resMov s
/-- FORM 0x10: fadd.f32 (R204). -/
def execFaddCompact (d a b : Fin 64) (s : State) : Host.Outcome State Fault Refusal :=
  let x := compactOps (.faddCompact d a b)
  runFloat (.faddCompact d a b) 0x140 x fnAdd s
/-- FORM 0x11: fsub.f32 (R204). -/
def execFsubCompact (d a b : Fin 64) (s : State) : Host.Outcome State Fault Refusal :=
  let x := compactOps (.fsubCompact d a b)
  runFloat (.fsubCompact d a b) 0x141 x fnSub s
/-- FORM 0x12: fmul.f32 (R204). -/
def execFmulCompact (d a b : Fin 64) (s : State) : Host.Outcome State Fault Refusal :=
  let x := compactOps (.fmulCompact d a b)
  runFloat (.fmulCompact d a b) 0x142 x fnMul s
/-- FORM 0x13: ffma.f32 (R204). -/
def execFfmaCompact (d a b c : Fin 64) (s : State) : Host.Outcome State Fault Refusal :=
  let x := compactOps (.ffmaCompact d a b c)
  runFloat (.ffmaCompact d a b c) 0x143 x fnFma s
/-- FORM 0x14: fmin.f32 (R204). -/
def execFminCompact (d a b : Fin 64) (s : State) : Host.Outcome State Fault Refusal :=
  let x := compactOps (.fminCompact d a b)
  runFloat (.fminCompact d a b) 0x144 x fnMin s
/-- FORM 0x15: fmax.f32 (R204). -/
def execFmaxCompact (d a b : Fin 64) (s : State) : Host.Outcome State Fault Refusal :=
  let x := compactOps (.fmaxCompact d a b)
  runFloat (.fmaxCompact d a b) 0x145 x fnMax s
/-- FORM 0x16: cmp (R204). -/
def execCmpEqS32Compact (d a b : Fin 64) (s : State) : Host.Outcome State Fault Refusal :=
  let x := compactOps (.cmpEqS32Compact d a b)
  runLane (.cmpEqS32Compact d a b) 0x0C3 x (laneCmp x) s
/-- FORM 0x17: cmp (R204). -/
def execCmpNeS32Compact (d a b : Fin 64) (s : State) : Host.Outcome State Fault Refusal :=
  let x := compactOps (.cmpNeS32Compact d a b)
  runLane (.cmpNeS32Compact d a b) 0x0C3 x (laneCmp x) s
/-- FORM 0x18: cmp (R204). -/
def execCmpLtS32Compact (d a b : Fin 64) (s : State) : Host.Outcome State Fault Refusal :=
  let x := compactOps (.cmpLtS32Compact d a b)
  runLane (.cmpLtS32Compact d a b) 0x0C3 x (laneCmp x) s
/-- FORM 0x19: cmp (R204). -/
def execCmpLeS32Compact (d a b : Fin 64) (s : State) : Host.Outcome State Fault Refusal :=
  let x := compactOps (.cmpLeS32Compact d a b)
  runLane (.cmpLeS32Compact d a b) 0x0C3 x (laneCmp x) s
/-- FORM 0x1A: cmp (R204). -/
def execCmpGtS32Compact (d a b : Fin 64) (s : State) : Host.Outcome State Fault Refusal :=
  let x := compactOps (.cmpGtS32Compact d a b)
  runLane (.cmpGtS32Compact d a b) 0x0C3 x (laneCmp x) s
/-- FORM 0x1B: cmp (R204). -/
def execCmpGeS32Compact (d a b : Fin 64) (s : State) : Host.Outcome State Fault Refusal :=
  let x := compactOps (.cmpGeS32Compact d a b)
  runLane (.cmpGeS32Compact d a b) 0x0C3 x (laneCmp x) s
/-- FORM 0x1C: cmp (R204). -/
def execCmpLtZ32Compact (d a b : Fin 64) (s : State) : Host.Outcome State Fault Refusal :=
  let x := compactOps (.cmpLtZ32Compact d a b)
  runLane (.cmpLtZ32Compact d a b) 0x0C3 x (laneCmp x) s
/-- FORM 0x1D: cmp (R204). -/
def execCmpLeZ32Compact (d a b : Fin 64) (s : State) : Host.Outcome State Fault Refusal :=
  let x := compactOps (.cmpLeZ32Compact d a b)
  runLane (.cmpLeZ32Compact d a b) 0x0C3 x (laneCmp x) s
/-- FORM 0x1E: cmp (R204). -/
def execCmpGtZ32Compact (d a b : Fin 64) (s : State) : Host.Outcome State Fault Refusal :=
  let x := compactOps (.cmpGtZ32Compact d a b)
  runLane (.cmpGtZ32Compact d a b) 0x0C3 x (laneCmp x) s
/-- FORM 0x1F: cmp (R204). -/
def execCmpGeZ32Compact (d a b : Fin 64) (s : State) : Host.Outcome State Fault Refusal :=
  let x := compactOps (.cmpGeZ32Compact d a b)
  runLane (.cmpGeZ32Compact d a b) 0x0C3 x (laneCmp x) s
/-- FORM 0x20: ld (R204). -/
def execLdGmCompact (d a b : Fin 64) (s : State) : Host.Outcome State Fault Refusal :=
  let x := compactOps (.ldGmCompact d a b)
  runOp (.ldGmCompact d a b) 0x1C0 x (serveLd x) s
/-- FORM 0x21: st (R204). -/
def execStGmCompact (d a b : Fin 64) (s : State) : Host.Outcome State Fault Refusal :=
  let x := compactOps (.stGmCompact d a b)
  runOp (.stGmCompact d a b) 0x1C1 x (serveSt x) s
/-- FORM 0x22: ld (R204). -/
def execLdSpCompact (d a b : Fin 64) (s : State) : Host.Outcome State Fault Refusal :=
  let x := compactOps (.ldSpCompact d a b)
  runOp (.ldSpCompact d a b) 0x1C0 x (serveLd x) s
/-- FORM 0x23: st (R204). -/
def execStSpCompact (d a b : Fin 64) (s : State) : Host.Outcome State Fault Refusal :=
  let x := compactOps (.stSpCompact d a b)
  runOp (.stSpCompact d a b) 0x1C1 x (serveSt x) s
/-- FORM 0x40: add.s32 (R204). -/
def execAddImmCompact (d a : Fin 64) (i : BitVec 12) (s : State) : Host.Outcome State Fault Refusal :=
  let x := compactOps (.addImmCompact d a i)
  runInt (.addImmCompact d a i) 0x040 x resAdd s
/-- FORM 0x41: mul.s32 (R204). -/
def execMulImmCompact (d a : Fin 64) (i : BitVec 12) (s : State) : Host.Outcome State Fault Refusal :=
  let x := compactOps (.mulImmCompact d a i)
  runInt (.mulImmCompact d a i) 0x044 x resMul s
/-- FORM 0x42: and.b32 (R204). -/
def execAndImmCompact (d a : Fin 64) (i : BitVec 12) (s : State) : Host.Outcome State Fault Refusal :=
  let x := compactOps (.andImmCompact d a i)
  runInt (.andImmCompact d a i) 0x090 x resAnd s
/-- FORM 0x43: or.b32 (R204). -/
def execOrImmCompact (d a : Fin 64) (i : BitVec 12) (s : State) : Host.Outcome State Fault Refusal :=
  let x := compactOps (.orImmCompact d a i)
  runInt (.orImmCompact d a i) 0x091 x resOr s
/-- FORM 0x44: xor.b32 (R204). -/
def execXorImmCompact (d a : Fin 64) (i : BitVec 12) (s : State) : Host.Outcome State Fault Refusal :=
  let x := compactOps (.xorImmCompact d a i)
  runInt (.xorImmCompact d a i) 0x092 x resXor s
/-- FORM 0x45: shl.b32 (R204). -/
def execShlImmCompact (d a : Fin 64) (i : BitVec 12) (s : State) : Host.Outcome State Fault Refusal :=
  let x := compactOps (.shlImmCompact d a i)
  runInt (.shlImmCompact d a i) 0x080 x resShl s
/-- FORM 0x46: shr.b32 (R204). -/
def execShrImmCompact (d a : Fin 64) (i : BitVec 12) (s : State) : Host.Outcome State Fault Refusal :=
  let x := compactOps (.shrImmCompact d a i)
  runInt (.shrImmCompact d a i) 0x081 x resShr s
/-- FORM 0x47: sar.s32 (R204). -/
def execSarImmCompact (d a : Fin 64) (i : BitVec 12) (s : State) : Host.Outcome State Fault Refusal :=
  let x := compactOps (.sarImmCompact d a i)
  runInt (.sarImmCompact d a i) 0x082 x resSar s
/-- FORM 0x48: movi (R204). -/
def execMoviCompact (d : Fin 64) (i : BitVec 18) (s : State) : Host.Outcome State Fault Refusal :=
  let x := compactOps (.moviCompact d i)
  runInt (.moviCompact d i) 0x0C1 x resMov s
/-- FORM 0x49: cmp (R204). -/
def execCmpEqImmCompact (d a : Fin 64) (i : BitVec 12) (s : State) : Host.Outcome State Fault Refusal :=
  let x := compactOps (.cmpEqImmCompact d a i)
  runLane (.cmpEqImmCompact d a i) 0x0C3 x (laneCmp x) s
/-- FORM 0x4A: cmp (R204). -/
def execCmpNeImmCompact (d a : Fin 64) (i : BitVec 12) (s : State) : Host.Outcome State Fault Refusal :=
  let x := compactOps (.cmpNeImmCompact d a i)
  runLane (.cmpNeImmCompact d a i) 0x0C3 x (laneCmp x) s
/-- FORM 0x4B: cmp (R204). -/
def execCmpLtImmCompact (d a : Fin 64) (i : BitVec 12) (s : State) : Host.Outcome State Fault Refusal :=
  let x := compactOps (.cmpLtImmCompact d a i)
  runLane (.cmpLtImmCompact d a i) 0x0C3 x (laneCmp x) s
/-- FORM 0x4C: cmp (R204). -/
def execCmpLeImmCompact (d a : Fin 64) (i : BitVec 12) (s : State) : Host.Outcome State Fault Refusal :=
  let x := compactOps (.cmpLeImmCompact d a i)
  runLane (.cmpLeImmCompact d a i) 0x0C3 x (laneCmp x) s
/-- FORM 0x4D: cmp (R204). -/
def execCmpGtImmCompact (d a : Fin 64) (i : BitVec 12) (s : State) : Host.Outcome State Fault Refusal :=
  let x := compactOps (.cmpGtImmCompact d a i)
  runLane (.cmpGtImmCompact d a i) 0x0C3 x (laneCmp x) s
/-- FORM 0x4E: cmp (R204). -/
def execCmpGeImmCompact (d a : Fin 64) (i : BitVec 12) (s : State) : Host.Outcome State Fault Refusal :=
  let x := compactOps (.cmpGeImmCompact d a i)
  runLane (.cmpGeImmCompact d a i) 0x0C3 x (laneCmp x) s
/-- FORM 0x50: ld (R204). -/
def execLdGmImmCompact (d a : Fin 64) (i : BitVec 12) (s : State) : Host.Outcome State Fault Refusal :=
  let x := compactOps (.ldGmImmCompact d a i)
  runOp (.ldGmImmCompact d a i) 0x1C0 x (serveLd x) s
/-- FORM 0x51: st (R204). -/
def execStGmImmCompact (d a : Fin 64) (i : BitVec 12) (s : State) : Host.Outcome State Fault Refusal :=
  let x := compactOps (.stGmImmCompact d a i)
  runOp (.stGmImmCompact d a i) 0x1C1 x (serveSt x) s
/-- FORM 0x52: ld (R204). -/
def execLdSpImmCompact (d a : Fin 64) (i : BitVec 12) (s : State) : Host.Outcome State Fault Refusal :=
  let x := compactOps (.ldSpImmCompact d a i)
  runOp (.ldSpImmCompact d a i) 0x1C0 x (serveLd x) s
/-- FORM 0x53: st (R204). -/
def execStSpImmCompact (d a : Fin 64) (i : BitVec 12) (s : State) : Host.Outcome State Fault Refusal :=
  let x := compactOps (.stSpImmCompact d a i)
  runOp (.stSpImmCompact d a i) 0x1C1 x (serveSt x) s

end Sys2Proof.Machine
end

