-- ==== Sys2Proof/Machine/Cross.lean ====
section
/-! DEFINITION. The cross-thread operations (R51 to R53, R243, R244). -/

namespace Sys2Proof.Machine

/-! ### Combining (R244) -/

/-- Words a cross-thread operation moves: a pair under `.w` or T = f64. -/
def crossWords (o : Ops) : Nat := if o.mod.getLsbD 11 || o.t.val == 7 then 2 else 1

/-- A value of type T from its words: 16-bit types take the low 16 bits (R245). -/
def crossVal (t : Nat) (x : DWord) : DWord := if t == 4 || t == 5 then BitVec.ofNat 64 (x.toNat % 2 ^ 16) else x

/-- A source of a cross-thread operation as type T; a floating literal for f64 is widened (R19, R244). -/
def crossSrc (e : Env) (o : Ops) (t : Thread) (g : Group) (x : Spec) : DWord :=
  match x with
  | .imm => if o.t.val == 7 then BitVec.ofNat 64 (toF f64 .rne (decodeF f32 o.imm.toNat))
            else crossVal o.t.val (rdN e o t g x (crossWords o) (o.t.val == 0))
  | x => crossVal o.t.val (rdN e o t g x (crossWords o) false)

/-- One combining step of type T (R244): add 0, min 1, max 2, and 3, or 4, xor 5. -/
def combine (op ty n : Nat) (a b : DWord) : DWord :=
  if ty ≥ 4 then
    let f := fmtOf (ty - 4)
    BitVec.ofNat 64 (match op with
      | 0 => toF f .rne (xadd .rne (decodeF f a.toNat) (decodeF f b.toNat))
      | 1 => minCode f a.toNat b.toNat
      | _ => maxCode f a.toNat b.toNat)
  else
    match op with
    | 0 => wrapInt n (a.toNat + b.toNat : Nat)
    | 1 => resMin n (ty == 0) a b 0
    | 2 => resMax n (ty == 0) a b 0
    | 3 => a &&& b
    | 4 => a ||| b
    | _ => a ^^^ b

/-- The identity that xred writes when no thread is active (R51). -/
def crossIdentity (op ty n : Nat) : DWord :=
  let f := fmtOf (ty - 4)
  match op with
  | 0 | 4 | 5 => 0
  | 3 => wrapInt n (-1)
  | 1 => if ty ≥ 4 then BitVec.ofNat 64 (f.inf.getD 0) else if ty == 0 then wrapInt n (2 ^ (n - 1) - 1) else wrapInt n (-1)
  | _ => if ty ≥ 4 then BitVec.ofNat 64 (signCode f true (f.inf.getD 0)) else if ty == 0 then wrapInt n (-(2 ^ (n - 1))) else 0

/-! ### Checks (R51, R53) -/

/-- The operand checks of every active thread, in pass order. -/
def crossHalt (o : Ops) (w : Widths) (g : Group) : List Thread → Option (Halt × Nat)
  | [] => none
  | t :: l =>
    match operandHalt t g o w 0 0 0 with
    | some h => some (h, t.tslot)
    | none => crossHalt o w g l

/-- A cross-thread operation whose every operand is the active threads' own. -/
def crossOp (opc : Nat) (o : Ops) (f : Env → Group → List Thread → List Thread × Group) : CrossServe := fun e _ g l =>
  match crossHalt o (widths opc o) g l with
  | some h => .error h
  | none => .ok (f e g l)

/-! ### Meanings -/

/-- Write one value per active thread. -/
def writeEach (o : Ops) (g : Group) (l : List Thread) (xs : List DWord) : List Thread :=
  (l.zip xs).map (fun (t, x) => (wrN t g o.d (crossWords o) x).1)

/-- xprev (R51, R243): the previous active thread's value, c for the first. -/
def execXprev (o : Ops) (s : State) : Host.Outcome State Fault Refusal :=
  runCross (.xprev o) 0x100 o (crossOp 0x100 o (fun e g l =>
    let first : List DWord := match l with
      | [] => []
      | t :: _ => [if o.b == .imm then crossSrc e o t g o.b else rdN e o t g o.b (crossWords o) false]
    let rest := l.dropLast.map (fun x => rdN e o x g o.a (crossWords o) false)
    (writeEach o g l (first ++ rest), g))) s

/-- The values of a scan from an accumulator on (R51). -/
def scanVals (f : DWord → DWord → DWord) (incl : Bool) : DWord → List DWord → List DWord
  | _, [] => []
  | acc, x :: l => (if incl then f acc x else acc) :: scanVals f incl (f acc x) l

/-- xscan (R243). -/
def execXscan (o : Ops) (s : State) : Host.Outcome State Fault Refusal :=
  runCross (.xscan o) 0x101 o (crossOp 0x101 o (fun e g l =>
    match l with
    | [] => ([], g)
    | t :: _ =>
      let op := opSub o % 8
      let xs := scanVals (combine op o.t.val (opBits o)) (bit (opSub o) 3) (crossSrc e o t g o.b) (l.map (fun x => crossSrc e o x g o.a))
      (writeEach o g l xs, g))) s

/-- xred (R243). -/
def execXred (o : Ops) (s : State) : Host.Outcome State Fault Refusal :=
  runCross (.xred o) 0x102 o (crossOp 0x102 o (fun e g l =>
    let op := opSub o % 8
    let x := match l.map (fun x => crossSrc e o x g o.a) with
      | [] => crossIdentity op o.t.val (opBits o)
      | y :: ys => ys.foldl (combine op o.t.val (opBits o)) y
    match o.d with
    | .g n => (l, if crossWords o = 2 then (g.setG n.val (x.extractLsb' 0 32)).setG (n.val + 1) (x.extractLsb' 32 32) else g.setG n.val (x.extractLsb' 0 32))
    | _ => (l, g))) s

/-- The thread of slot k as xbcast and xpick read it (R51): k in range, a live thread, its source in the register file (log entry 74) and
whole. -/
def crossK (e : Env) (o : Ops) (c : Core) (g : Group) (t : Thread) : Except (Halt × Nat) DWord :=
  let k := (rd32 e o t g o.b).toNat
  match poisonOf t g o.b 1 0 with
  | some p => .error (.trap p false 0, t.tslot)
  | none =>
    match (if k ≤ 31 then c.threadAt g k else none) with
    | none => .error (.trap 0x34 true 0, t.tslot)
    | some x =>
      if !x.live then .error (.trap 0x34 true 0, t.tslot)
      else
        match awayChunk x o.a (crossWords o), poisonOf x g o.a (crossWords o) 0 with
        | some j, _ => .error (.fill x.tid j, t.tslot)
        | none, some p => .error (.trap p false 0, t.tslot)
        | none, none =>
          if misaligned o.d (crossWords o) || misaligned o.a (crossWords o) then .error (.trap 0x30 true 0, t.tslot)
          else .ok (rdN e o x g o.a (crossWords o) false)

/-- xbcast (R243). -/
def execXbcast (o : Ops) (s : State) : Host.Outcome State Fault Refusal :=
  runCross (.xbcast o) 0x103 o (fun e c g l =>
    match l with
    | [] => .ok ([], g)
    | t :: _ =>
      match crossK e o c g t with
      | .error h => .error h
      | .ok x => .ok (writeEach o g l (l.map (fun _ => x)), g)) s

/-- xpick (R243): uniform. -/
def execXpick (o : Ops) (s : State) : Host.Outcome State Fault Refusal :=
  runCross (.xpick o) 0x104 o (fun e c g l =>
    match l with
    | [] => .ok ([], g)
    | t :: _ =>
      match crossK e o c g t with
      | .error h => .error h
      | .ok x => .ok (l, (wrN t g o.d (crossWords o) x).2)) s

/-- The exchange words that a thread's index names: one word, or a pair (R51). -/
def exchIndex (o : Ops) (i : Nat) : Nat := if crossWords o = 2 then 2 * (i % 16) else i % 32

/-- Write the exchange buffer (R51). -/
def exchPut (o : Ops) (ex : Assoc PWord) (i : Nat) (x : DWord) : Assoc PWord :=
  let k := exchIndex o i
  let ex1 := assocSet ⟨0, false⟩ ex k ⟨x.extractLsb' 0 32, false⟩
  if crossWords o = 2 then assocSet ⟨0, false⟩ ex1 (k + 1) ⟨x.extractLsb' 32 32, false⟩ else ex1

/-- Read the exchange buffer (R51). -/
def exchGet (o : Ops) (ex : Assoc PWord) (i : Nat) : DWord :=
  let k := exchIndex o i
  (assocGet ⟨0, false⟩ ex (k + 1)).val ++ (assocGet ⟨0, false⟩ ex k).val

/-- xput (R243). -/
def execXput (o : Ops) (s : State) : Host.Outcome State Fault Refusal :=
  runCross (.xput o) 0x105 o (crossOp 0x105 o (fun e g l =>
    (l, { g with exch := l.foldl (fun ex t => exchPut o ex (rd32 e o t g o.b).toNat (rdN e o t g o.a (crossWords o) false)) g.exch }))) s

/-- xget (R243). -/
def execXget (o : Ops) (s : State) : Host.Outcome State Fault Refusal :=
  runCross (.xget o) 0x106 o (crossOp 0x106 o (fun e g l =>
    (writeEach o g l (l.map (fun t => exchGet o g.exch (rd32 e o t g o.a).toNat)), g))) s

/-- vote (R51): some 0, every 1, mask 2, count 3. -/
def execVote (o : Ops) (s : State) : Host.Outcome State Fault Refusal :=
  runCross (.vote o) 0x107 o (crossOp 0x107 o (fun _ g l =>
    let yes := l.filter (fun t => rdP o t g o.a)
    let g' := match o.d with
      | .q n => g.setQ n.val (if opSub o == 0 then !yes.isEmpty else yes.length == l.length)
      | .g n => g.setG n.val (BitVec.ofNat 32 (if opSub o == 2 then yes.foldl (fun r t => r + 2 ^ t.tslot) 0 else yes.length))
      | _ => g
    (l, g'))) s

/-- first (R51): the lowest thread index of the front; uniform. -/
def execFirst (o : Ops) (s : State) : Host.Outcome State Fault Refusal :=
  runCross (.first o) 0x108 o (crossOp 0x108 o (fun _ g l =>
    match o.d, l with
    | .g n, t :: _ => (l, g.setG n.val (BitVec.ofNat 32 t.tslot))
    | _, _ => (l, g))) s

/-- actc (R51): the number of threads of the front; uniform. -/
def execActc (o : Ops) (s : State) : Host.Outcome State Fault Refusal :=
  runCross (.actc o) 0x109 o (crossOp 0x109 o (fun _ g l =>
    match o.d with
    | .g n => (l, g.setG n.val (BitVec.ofNat 32 l.length))
    | _ => (l, g))) s

end Sys2Proof.Machine
end

