-- ==== Sys2Proof/Machine/Engines.lean ====
section
/-! DEFINITION. The copy unit, the layout engine and the bank operations at work (R132, R155, R161 to R175, R279, R287). -/

namespace Sys2Proof.Machine

/-! ### The box copy (R161, R162) -/

/-- A bit field of a descriptor as a signed number. -/
def sBits (n lo w : Nat) : Int := sgn w (bits n lo w)

/-- A box descriptor's fields; none where a field is DESC (R161). Extents are counted from 1, 1 beyond the rank. -/
def readBox (n : Nat) : Option Box :=
  let rank := bits n 5 3 + 1
  let esize := bits n 0 3
  let ext := (List.range 5).map (fun d => bits n (16 + 16 * d) 16 + 1)
  if rank > 5 || esize > 4 || bits n 3 2 != 0 || bits n 9 7 != 0 || (List.range 5).any (fun d => decide (rank ≤ d) && ext.getD d 1 != 1) then none
  else some
    { mcast := (List.range 128).filter (fun j => bit n (384 + j)), dstr := (List.range 4).map (fun d => sBits n (256 + 32 * d) 32),
      sstr := (List.range 4).map (fun d => sBits n (96 + 40 * d) 40), ext := ext, noexp := bit n 8, rank := rank, esize := 2 ^ esize }

/-- The number of elements of a box. -/
def Box.count (b : Box) : Nat := b.ext.foldl (· * ·) 1

/-- Split an index into digits of given extents, the first varying fastest. -/
def digitsOf : Nat → List Nat → List Nat
  | _, [] => []
  | k, e :: l => k % e :: digitsOf (k / e) l

/-- The source and destination offsets of element e (R161). -/
def Box.offsets (b : Box) (e : Nat) : Int × Int :=
  match digitsOf e b.ext with
  | [] => (0, 0)
  | i0 :: r =>
    let sum := fun (st : List Int) => ((r.zip st).map (fun (i, x) => (i : Int) * x)).foldl (· + ·) 0
    ((i0 * b.esize : Int) + sum b.sstr, (i0 * b.esize : Int) + sum b.dstr)

/-- The alignment of elements in a space (R161). -/
def elemAlign (esize : Nat) (x : Option Space) : Nat := match x with | some .gm => esize | _ => max esize 4

/-- A base and the strides of the dimensions in use keep every element aligned. -/
def boxAligned (a : DWord) (str : List Int) (ext : List Nat) (n : Nat) : Bool :=
  decide (a.toNat % 2 ^ 60 % n = 0) && (str.zip (ext.drop 1)).all (fun (x, e) => e == 1 || x % (n : Int) == 0)

/-- Elements of one byte or two in `.sp` or `.bk` lie at 4-byte steps only: the row step of dimension 0. -/
def boxStep (b : Box) (n : Nat) : Bool := decide (b.esize % n = 0) || b.ext.headD 1 == 1

/-- The destination cores of a command that counts in their cells: all but the issuer's (R155). -/
def State.destPart (s : State) (m : Cmd) (co bytes : Nat) (expect : Bool) : DestPart :=
  let c := s.core m.cl co
  { co := co, gen := c.gen, owed := bytes, expect := expect, epoch := match m.cell with | some n => (c.cell n).epoch | none => 0 }

/-- Whether each core of a multicast holds an allocation of the context (R109, R162). -/
def State.allHold (s : State) (m : Cmd) (cores : List Nat) : Bool :=
  cores.all (fun co => match (s.core m.cl co).block with | some b => b.ctx == m.ctx | none => false)

/-- The core field of a `.sp` address. -/
def spCore (a : DWord) : Nat := bits a.toNat 27 7

/-- The least and the greatest offset of an element that strides give (R161). -/
def strideRange (b : Box) (str : List Int) : Int × Int :=
  let ends := (str.zip (b.ext.drop 1)).map (fun (x, e) => x * ((e - 1 : Nat) : Int))
  (ends.foldl (fun n x => n + min 0 x) 0, ends.foldl (fun n x => n + max 0 x) (((b.ext.headD 1 - 1) * b.esize : Nat) : Int))

/-- The cores that a box to `.sp` addresses, with the bytes for each: the base's core alone where no stride leaves it (R155). -/
def boxCores (dst : DWord) (b : Box) : List (Nat × Nat) :=
  let (lo, hi) := strideRange b b.dstr
  let at_ : Int := (dst.toNat % 2 ^ 60 : Nat)
  if (at_ + lo) / 2 ^ 27 == (at_ + hi) / 2 ^ 27 then [(bits (engOff dst lo) 27 7, b.count * b.esize)]
  else (List.range b.count).foldl (fun l e => let co := bits (engOff dst (b.offsets e).2) 27 7; assocSet 0 l co (assocGet 0 l co + b.esize)) []

/-- The fields of a multicast destination that must be zero (R160, R162). -/
def mcastBad (dst : DWord) : Bool := bits dst.toNat 40 20 != 0 || bits dst.toNat 20 7 != 0

/-- The checks of a box copy at queue entry, and the command with its destinations (R161, R162, R279). -/
def State.enterBox (s : State) (m : Cmd) (src dst : DWord) (desc : Word) : State :=
  let off := desc.toNat
  let fail := fun code addr => s.endAtOnce m (some (code, addr))
  match engSpace src, engSpace dst, s.ownBytes m.cl m.co off 64 with
  | some x, some y, some (l, pois) =>
    if off % 64 != 0 || bits off 20 12 != 0 then fail 0x09 0
    else if pois then fail 0x08 (2 ^ 60 + m.co * 2 ^ 27 + off)
    else
      match readBox (leNat l) with
      | none => fail 0x09 0
      | some b =>
        let na := elemAlign b.esize (some x)
        let nb := elemAlign b.esize (some y)
        if !b.mcast.isEmpty && y != .sp then fail 0x09 0
        else if !(boxAligned src b.sstr b.ext na && boxStep b na) then fail 0x07 src.toNat
        else if !(boxAligned dst b.dstr b.ext nb && boxStep b nb) then fail 0x07 dst.toNat
        else
          let bytes := b.count * b.esize
          let total := bytes * max 1 b.mcast.length
          let cores := if !b.mcast.isEmpty then b.mcast.map (fun co => (co, bytes)) else if y == .sp then boxCores dst b else []
          let dests := (cores.filter (fun x => x.1 != m.co)).map (fun (co, n) => s.destPart m co n (!b.noexp))
          let err := if !b.mcast.isEmpty && (mcastBad dst || !s.allHold m b.mcast) then some (0x05, dst) else none
          s.enterCmd { m with kind := .box src dst desc b, todo := [(0, total / b.esize)], dests := dests, err := err } total
  | _, _, _ => fail 0x09 0

/-- The destination offset and core of index k of a box: unicast, or core j of the multicast, where a GEN field of the address is ignored as
CORE is, and the core's own generation stamped: DESIGN CHOICE (R110, R162; log entry 83). -/
def boxDest (dst : DWord) (b : Box) (k : Nat) : Option (Nat × Option Nat) :=
  let e := k / max 1 b.mcast.length
  let d := (b.offsets e).2
  if b.mcast.isEmpty then
    let off := engOff dst d
    some (off, if engSpace dst == some .sp then some (bits off 27 7) else none)
  else
    let x : Int := ((dst.toNat % 2 ^ 20 : Nat) : Int) + d
    let co := b.mcast.getD (k % b.mcast.length) 0
    if x < 0 || x ≥ 2 ^ 20 then none else some (x.toNat + co * 2 ^ 27, some co)

/-- The pages of the source elements of a box. -/
def Box.pages (b : Box) (src : DWord) : List Nat := ((List.range b.count).map (fun e => engOff src (b.offsets e).1 / 4096)).eraseDups

/-- A byte of a space is a source byte of a box (R161). -/
def Box.reads (b : Box) (src : DWord) (off : Nat) : Bool :=
  (List.range b.count).any (fun e => let a := engOff src (b.offsets e).1; decide (a ≤ off) && decide (off < a + b.esize))

/-- A byte of a space is a destination byte of a box (R161). -/
def Box.writes (b : Box) (dst : DWord) (off : Nat) : Bool :=
  (List.range b.count).any (fun e => let a := engOff dst (b.offsets e).2; decide (a ≤ off) && decide (off < a + b.esize))

/-- The bytes written where the source overlaps the destination are unspecified: free values (R161, R171; log entry 6). -/
def State.freeBytes (s : State) (bad : List Bool) (l : List Byte) : State × List Byte :=
  if !bad.any id then (s, l)
  else
    let (v, s1) := s.freeValue
    (s1, (l.zip bad).zipIdx.map (fun ((b, x), i) => if x then v.extractLsb' (8 * i) 8 else b))

/-- The core whose scratchpad element k of a command is written to (R155). -/
def Cmd.coreOf (m : Cmd) (k : Nat) : Option Nat :=
  match m.kind with
  | .box _ dst _ b => (boxDest dst b k).bind Prod.snd
  | .copyT _ ps => (ps[k]?).bind (fun p => if engSpace p.2.2 == some .sp then some (spCore p.2.2) else none)
  | .fill dst _ _ => if engSpace dst == some .sp then some (bits (engOff dst (4 * k)) 27 7) else none
  | _ => none

/-- The elements of a command destined for one core. -/
def Cmd.isFor (m : Cmd) (co k : Nat) : Bool := m.coreOf k == some co

/-- An element of n bytes is written: it has landed, or the command, or its part for one core, meets an error (R111, R155, R156). Bytes that
were acknowledged before count no second time (R289). -/
def wrote (m : Cmd) (k n : Nat) (r : State × Except EngErr Unit) : State :=
  match r with
  | (s1, .ok _) => s1.landed { m with todo := takeIndex k m.todo } (if m.isEarly k then 0 else n) ((m.coreOf k).filter (· != m.co))
  | (s1, .error (.code 0x01 addr)) =>
    (match (m.coreOf k).bind (fun x => m.dests.find? (fun d => d.co == x)) with
     | some d => s1.abortPart m d 0x01 addr (m.isFor d.co)
     | none => s1.cmdError m (.code 0x01 addr))
  | (s1, .error e) => s1.cmdError m e

/-- Element k of a box copy (R161, R162). -/
def State.landBox (s : State) (m : Cmd) (src dst : DWord) (b : Box) (k : Nat) : State :=
  let e := k / max 1 b.mcast.length
  match engSpace src, engSpace dst, boxDest dst b k with
  | some x, some y, some (off, _) =>
    (match s.engRead m (y == .sp) x (engOff src (b.offsets e).1) b.esize with
     | (s1, .error err) => s1.cmdError m err
     | (s1, .ok l) =>
       let met := fun i => (s.namesOf m y (b.pages src) (off + i)).any (b.reads src)
       let (s2, l2) := if x == y then s1.freeBytes ((List.range b.esize).map met) l else (s1, l)
       let whole := fun line => y == .gm && (match s.engPart m true true y off b.esize with
         | (_, .ok p) => (List.range 128).all (fun i => b.writes dst (off + line + i - p.addr))
         | _ => false)
       wrote m k b.esize (s2.engWrite m (x == .sp) whole y off l2))
  | _, _, _ => s.cmdError m (.code 0x05 dst.toNat)

/-! ### The per-thread copy and the fill (R163, R164) -/

/-- The checks of a per-thread copy at queue entry (R163, R279). Where a space code and an alignment both fail the code is DESC, as R161 orders them for a
box: DESIGN CHOICE for the per-thread copy, the fill and the bank operation (log entry 99). -/
def State.enterCopyT (s : State) (m : Cmd) (size : Nat) (pairs : List (Nat × DWord × DWord)) : State :=
  let okSpace := fun a => engSpace a == some .gm || engSpace a == some .sp
  let odd := fun (a : DWord) => a.toNat % 2 ^ 60 % size != 0
  if !pairs.all (fun (_, a, b) => okSpace a && okSpace b) then s.endAtOnce m (some (0x09, 0))
  else
    match (pairs.flatMap (fun (_, a, b) => [a, b])).find? odd with
    | some a => s.endAtOnce m (some (0x07, a.toNat))
    | none =>
      let cores := ((pairs.filter (fun (_, _, b) => engSpace b == some .sp)).map (fun (_, _, b) => spCore b)).eraseDups.filter (· != m.co)
      let dests := cores.map (fun co => s.destPart m co (size * (pairs.filter (fun (_, _, b) => engSpace b == some .sp && spCore b == co)).length) true)
      s.enterCmd { m with kind := .copyT size pairs, todo := [(0, pairs.length)], dests := dests } (size * pairs.length)

/-- Thread part k of a per-thread copy: a byte that a higher thread index has written keeps it (R163). Each part is read and written in one step, also where
another thread's destination overlaps its source: DESIGN CHOICE, since R163 does not say what is read there (log entry 100). -/
def State.landCopyT (s : State) (m : Cmd) (size : Nat) (pairs : List (Nat × DWord × DWord)) (k : Nat) : State :=
  let c := s.ctxOf m.ctx
  match pairs[k]? with
  | none => s
  | some (t, a, b) =>
    match engSpace a, engSpace b with
    | some x, some y =>
      (match s.engRead m (y == .sp) x (engOff a 0) size with
       | (s1, .error err) => s1.cmdError m err
       | (s1, .ok l) =>
         match s1.engPart m true (x == .sp) y (engOff b 0) size with
         | (s2, .error err) => wrote m k size (s2, .error err)
         | (s2, .ok p) =>
           let at_ := engAddr y (engOff b 0)
           let kept := fun i => m.writers.any (fun w => w.1 == p.addr + i && decide (t < w.2))
           let runs := (List.range size).filter (fun i => !kept i)
           let m1 := { m with writers := m.writers ++ runs.map (fun i => (p.addr + i, t)) }
           if runs.length = size then wrote m1 k size (s2.engStore m.cl m.co c m.id (fun _ => false) at_ p l)
           else
             let r := runs.foldl (fun (acc : State × Except EngErr Unit) i =>
               match acc with
               | (st, .ok _) => st.engStore m.cl m.co c m.id (fun _ => false) (at_ + i) { p with addr := p.addr + i, len := 1 } [l.getD i 0]
               | e => e) (s2, .ok ())
             wrote m1 k size r)
    | _, _ => s

/-- The cores that a fill of n bytes to `.sp` addresses, with the bytes for each. -/
def fillCores (dst : DWord) (n : Nat) : List (Nat × Nat) :=
  let a := dst.toNat % 2 ^ 60
  (List.range' (a / 2 ^ 27) ((a + n - 1) / 2 ^ 27 - a / 2 ^ 27 + 1)).map (fun q => (q % 128, min (a + n) (2 ^ 27 * (q + 1)) - max a (2 ^ 27 * q)))

/-- The checks of a fill at queue entry (R164, R279); DESC comes before ALIGN (log entry 99). -/
def State.enterFill (s : State) (m : Cmd) (dst : DWord) (n : Nat) (pat : Word) : State :=
  match engSpace dst with
  | none => s.endAtOnce m (some (0x09, 0))
  | some y =>
    if dst.toNat % 4 != 0 || n % 4 != 0 then s.endAtOnce m (some (0x07, dst.toNat))
    else if n = 0 then s.endAtOnce m none
    else
      let cores := if y == .sp then fillCores dst n else []
      let dests := (cores.filter (fun x => x.1 != m.co)).map (fun (co, k) => s.destPart m co k true)
      s.enterCmd { m with kind := .fill dst n pat, todo := [(0, n / 4)], dests := dests } n

/-- Word k of a fill (R164). -/
def State.landFill (s : State) (m : Cmd) (dst : DWord) (n : Nat) (pat : Word) (k : Nat) : State :=
  match engSpace dst with
  | none => s
  | some y =>
    let off := engOff dst (4 * k)
    let whole := fun line => match s.engPart m true true y off 4 with
      | (_, .ok p) => let lo : Int := (off : Int) + line - p.addr; decide ((engOff dst 0 : Int) ≤ lo) && decide (lo + 128 ≤ (engOff dst 0 : Int) + n)
      | _ => false
    wrote m k 4 (s.engWrite m true whole y off (leBytes 4 pat.toNat))

/-! ### Layout (R167 to R175) -/

/-- The split exponent of a source dimension (R170). -/
def splitOf (map n : Nat) : Nat := bits map (4 + 4 * n) 4

/-- The axes of a layout: for each its source dimension, whether it is an outer one, its extent (R170). -/
def axesOf (map : Nat) (ext : List Nat) : List (Nat × Bool × Nat) :=
  ext.zipIdx.flatMap (fun (e, d) =>
    let k := splitOf map d
    if k = 0 then [(d, false, e)] else [(d, false, 2 ^ k), (d, true, (e + 2 ^ k - 1) / 2 ^ k)])

/-- A mapping word is valid for n source dimensions (R170). -/
def mapValid (map n : Nat) : Bool :=
  let a := bits map 0 4
  let splits := ((List.range 8).filter (fun d => splitOf map d != 0)).length
  let pos := (List.range 12).map (fun j => bits map (36 + 4 * j) 4)
  decide (1 ≤ a) && decide (a ≤ 12) && a == n + splits && (List.range 8).all (fun d => decide (d < n) || splitOf map d == 0) &&
    (List.range a).all (fun x => (pos.take a).contains x) && (pos.drop a).all (· == 0) && (List.range 12).all (fun j => decide (j + 1 < a) || !bit map (84 + j))

/-- Read a shape table's fields for n dimensions; none where LSHAPE holds (R169, R173). -/
def readShape (n : Nat) (ctl : Nat) (map : Nat) (t : Nat) : Option Shape :=
  let dims := List.range n
  let ext := dims.map (fun d => bits t (128 * d) 32)
  if dims.any (fun d => bits t (128 * d + 32) 32 != 0) || ext.any (fun e => e == 0 || decide (2 ^ 24 < e)) || bits t 1920 128 != 0 then none
  else some
    { edge := bit ctl 27, wa := 2 ^ bits ctl 20 4, ext := ext, sstr := dims.map (fun d => sBits t (128 * d + 64) 64),
      dstr := (List.range 12).map (fun g => sBits t (1024 + 64 * g) 64), pad := BitVec.ofNat 128 (bits t 1792 128), split := dims.map (splitOf map),
      order := (List.range (bits map 0 4)).map (fun j => bits map (36 + 4 * j) 4), merge := bits map 84 12 }

/-- The number of points of the axis box (R171). -/
def boxPoints (map : Nat) (sh : Shape) : Nat := ((axesOf map sh.ext).map (fun a => a.2.2)).foldl (· * ·) 1

/-- A layout's base is aligned to its atom (R173). -/
def atomAligned (a : DWord) (wa : Nat) : Bool := wa < 8 || a.toNat % 2 ^ 60 % (wa / 8) == 0

/-- The checks of a layout at queue entry (R172, R173, R279). -/
def State.enterLayout (s : State) (m : Cmd) (src dst : DWord) (ctl : Word) (map : BitVec 96) : State :=
  let fail := fun code addr => s.endAtOnce m (some (code, addr))
  let n := bits ctl.toNat 24 3 + 1
  let off := bits ctl.toNat 0 20
  if (engSpace src).isNone || (engSpace dst).isNone then fail 0x09 0
  else if bits ctl.toNat 20 4 ≥ 8 || bits ctl.toNat 28 4 != 0 then fail 0x12 0
  else
    match s.firstPoison m.cl m.co off 256 with
    | some x => fail 0x08 (2 ^ 60 + m.co * 2 ^ 27 + x)
    | none =>
      match (s.ownBytes m.cl m.co off 256).bind (fun x => readShape n ctl.toNat map.toNat (leNat x.1)) with
      | none => fail 0x11 0
      | some sh =>
        if off % 32 != 0 then fail 0x11 0
        else if !mapValid map.toNat n then fail 0x10 0
        else if !atomAligned src sh.wa then fail 0x07 src.toNat
        else if !atomAligned dst sh.wa then fail 0x07 dst.toNat
        else
          let points := boxPoints map.toNat sh
          let written := if sh.edge then points else sh.ext.foldl (· * ·) 1
          s.enterCmd { m with kind := .layout src dst ctl map sh, todo := [(0, points)], stash := [(written, 0)] } ((written * sh.wa + 7) / 8)

/-- Point k of a layout: its source atom, none at an edge, and its destination atom (R171). -/
def layoutPoint (map : Nat) (sh : Shape) (k : Nat) : Option Int × Int :=
  let axes := axesOf map sh.ext
  let x := digitsOf k (axes.map (fun a => a.2.2))
  let coord := fun d =>
    let here := (axes.zip x).filter (fun (a, _) => a.1 == d)
    (here.map (fun (a, v) => if a.2.1 then v * 2 ^ splitOf map d else v)).foldl (· + ·) 0
  let i := (List.range sh.ext.length).map coord
  let inside := (i.zip sh.ext).all (fun (a, e) => decide (a < e))
  let srcA := ((i.zip sh.sstr).map (fun (a, st) => (a : Int) * st)).foldl (· + ·) 0
  let go := sh.order.zipIdx.foldl (fun (acc : Nat × Nat × Int) (ax, j) =>
    let (g, mul, sum) := acc
    let v := x.getD ax 0
    let st := sh.dstr.getD g 0
    let sum' := sum + st * ((v * mul : Nat) : Int)
    if bit sh.merge j then (g, mul * ((axes[ax]?.map (fun a => a.2.2)).getD 1), sum') else (g + 1, 1, sum')) (0, 1, 0)
  (if inside then some srcA else none, go.2.2)

/-- The byte offset and the bit in it of an atom of a side (R168). -/
def atomAt (a : DWord) (wa : Nat) (i : Int) : Nat × Nat :=
  let b := i * (wa : Int)
  (engOff a (b.fdiv 8), (b.emod 8).toNat)

/-- An atom of the destination, by the names of its byte, lies in the source of the layout (R171). -/
def layoutOverlaps (map : Nat) (sh : Shape) (src : DWord) (names : List Nat) (lo len : Nat) : Bool :=
  (List.range (boxPoints map sh)).any (fun k =>
    match (layoutPoint map sh k).1 with
    | some i =>
      let (b, x) := atomAt src sh.wa i
      names.any (fun off => decide (8 * b + x < 8 * off + lo + len) && decide (8 * off + lo < 8 * b + x + sh.wa))
    | none => false)

/-- The pages of the source atoms of a layout. -/
def layoutPages (map : Nat) (sh : Shape) (src : DWord) : List Nat :=
  ((List.range (boxPoints map sh)).filterMap (fun k => (layoutPoint map sh k).1.map (fun i => (atomAt src sh.wa i).1 / 4096))).eraseDups

/-- The value of an atom to write: the source atom or the pad; a free value where it is written into the source (R171; log entry 6). -/
def State.atomValue (s : State) (m : Cmd) (x y : Space) (src dst : DWord) (map : Nat) (sh : Shape) (k : Nat) : State × Except EngErr Nat :=
  let (srcA, dstA) := layoutPoint map sh k
  let (off, lo) := atomAt dst sh.wa dstA
  let read : State × Except EngErr Nat :=
    match srcA with
    | none => (s, .ok (sh.pad.toNat % 2 ^ sh.wa))
    | some i =>
      let (a, b) := atomAt src sh.wa i
      match s.engRead m false x a (max 1 (sh.wa / 8)) with
      | (s1, .error e) => (s1, .error e)
      | (s1, .ok l) => (s1, .ok (if sh.wa ≥ 8 then leNat l else bits (leNat l) b sh.wa))
  match read with
  | (s1, .error e) => (s1, .error e)
  | (s1, .ok v) =>
    if x == y && layoutOverlaps map sh src (s.namesOf m y (layoutPages map sh src) off) lo sh.wa then
      let (f, s2) := s1.freeValue; (s2, .ok (f.toNat % 2 ^ sh.wa))
    else (s1, .ok v)

/-- Bytes that r written atoms to come still stand for (R172). -/
def atomBytes (wa r : Nat) : Nat := (r * wa + 7) / 8

/-- The points still to land that write an atom into a destination byte. -/
def bytePoints (m : Cmd) (dst : DWord) (map : Nat) (sh : Shape) (off : Nat) : List Nat :=
  (indexes m.todo).filter (fun j => let (a, b) := layoutPoint map sh j; (a.isSome || sh.edge) && (atomAt dst sh.wa b).1 == off)

/-- The bit in its byte at which point j of a layout writes its atom. -/
def atomBit (dst : DWord) (map : Nat) (sh : Shape) (j : Nat) : Nat := (atomAt dst sh.wa (layoutPoint map sh j).2).2

/-- Of the points that write one byte, for each of its atoms the one whose value the atom ends with: an open choice where several write it
(R171). -/
def State.pickPoints (s : State) (dst : DWord) (map : Nat) (sh : Shape) (ps : List Nat) : List Nat → State × List Nat
  | [] => (s, [])
  | b :: bits =>
    let mine := ps.filter (fun j => atomBit dst map sh j == b)
    let (n, s1) := s.choose
    let (s2, l) := s1.pickPoints dst map sh ps bits
    (s2, mine.getD (n % mine.length) 0 :: l)

/-- The byte that points make of a destination byte's old value (R175). -/
def State.mergeAtoms (s : State) (m : Cmd) (x y : Space) (src dst : DWord) (map : Nat) (sh : Shape) : List Nat → Nat → State × Except EngErr Nat
  | [], old => (s, .ok old)
  | j :: l, old =>
    match s.atomValue m x y src dst map sh j with
    | (s1, .error e) => (s1, .error e)
    | (s1, .ok v) =>
      let lo := atomBit dst map sh j
      State.mergeAtoms s1 m x y src dst map sh l (old - bits old lo sh.wa * 2 ^ lo + v % 2 ^ sh.wa * 2 ^ lo)

/-- The destination byte of point k of a layout of atoms below a byte (R175): one that is covered in part is read whole by one step, and its
atoms are merged and the byte written by a later one, which ends every reading of that byte, under whatever name. -/
def State.landByte (s : State) (m : Cmd) (x y : Space) (src dst : DWord) (map : Nat) (sh : Shape) (k : Nat) : State :=
  let off := (atomAt dst sh.wa (layoutPoint map sh k).2).1
  let ps := bytePoints m dst map sh off
  let atoms := (ps.map (atomBit dst map sh)).eraseDups
  let left := (m.stash.head?.map Prod.fst).getD 0
  let rest := left - (ps.filter (fun j => !m.isEarly j)).length
  match s.engPart m true false y off 1 with
  | (s1, .error e) => wrote m k 0 (s1, .error e)
  | (s1, .ok p) =>
    let held := m.merge.find? (fun x => x.1 == p.addr)
    if held.isNone && atoms.length * sh.wa != 8 then s1.setCmd { m with merge := m.merge ++ [(p.addr, (s1.mem.read p.addr).toNat)] }
    else
      let (s2, win) := s1.pickPoints dst map sh ps atoms
      match s2.mergeAtoms m x y src dst map sh win ((held.map Prod.snd).getD 0) with
      | (s3, .error e) => s3.cmdError m e
      | (s3, .ok v) =>
        let m1 := { m with todo := ps.foldl (fun l j => takeIndex j l) m.todo, stash := [(rest, 0)], merge := m.merge.filter (fun x => x.1 != p.addr) }
        wrote m1 k (atomBytes sh.wa left - atomBytes sh.wa rest) (s3.engStore m.cl m.co (s.ctxOf m.ctx) m.id (fun _ => false) (engAddr y off) p [BitVec.ofNat 8 v])

/-- Point k of a layout (R171 to R175). -/
def State.landLayout (s : State) (m : Cmd) (src dst : DWord) (map : Nat) (sh : Shape) (k : Nat) : State :=
  let (srcA, dstA) := layoutPoint map sh k
  let left := (m.stash.head?.map Prod.fst).getD 0
  if srcA.isNone && !sh.edge then s.setCmd { m with todo := takeIndex k m.todo }
  else
    match engSpace src, engSpace dst with
    | some x, some y =>
      if sh.wa < 8 then s.landByte m x y src dst map sh k
      else
        (match s.atomValue m x y src dst map sh k with
         | (s1, .error e) => s1.cmdError m e
         | (s1, .ok v) =>
           let rest := if m.isEarly k then left else left - 1
           wrote { m with stash := [(rest, 0)] } k (atomBytes sh.wa left - atomBytes sh.wa rest)
             (s1.engWrite m false (fun _ => false) y (atomAt dst sh.wa dstA).1 (leBytes (sh.wa / 8) v)))
    | _, _ => s

/-! ### ENGINE_QUEUE_ENTRY of these engines is below; ENGINE_BYTES_LAND and DEST_EXPECTATION_ARRIVE (R155) -/

/-- The destination core of an element has received its expectation, where one is sent (R155). -/
def Cmd.arrived (m : Cmd) (k : Nat) : Bool :=
  match (m.coreOf k).bind (fun x => m.dests.find? (fun d => d.co == x)) with
  | some d => d.posted || !d.expect
  | none => true

/-- Kinds whose bytes ENGINE_BYTES_LAND moves here. -/
def CmdKind.moves : CmdKind → Bool
  | .box .. | .copyT .. | .fill .. | .layout .. => true
  | _ => false

/-- Element k of a command goes on: the command does, or it has met an error and the element was acknowledged before, so that its write is
in flight and lands (R156, R289). -/
def Cmd.goesOn (m : Cmd) (k : Nat) : Bool := (m.going || (m.entered && m.stall.isNone && m.isEarly k)) && hasIndex k m.todo

/-- Element k of a command may land. -/
def Cmd.mayLand (m : Cmd) (k : Nat) : Bool := m.goesOn k && m.kind.moves && m.arrived k

/-- What is about to strike an engine of a command's core (R366, R367). -/
def State.engUpset (s : State) (m : Cmd) (co : Nat) : Option EngUpset := s.engUpsets.find? (fun u => u.cl == m.cl && u.co == co && u.engine == m.engine)

/-- It has struck. -/
def State.struckEngine (s : State) (u : EngUpset) : State := { s with engUpsets := s.engUpsets.filter (· != u) }

/-- Land element k of a copy, fill or layout; data that a parity error strikes in flight aborts the command with POISON (R367). -/
def State.landElement (s : State) (m : Cmd) (k : Nat) : State :=
  match s.engUpset m m.co with
  | some u => (s.struckEngine u).cmdError m (.code 0x08 0)
  | none =>
    match m.kind with
    | .box src dst _ b => s.landBox m src dst b k
    | .copyT size ps => s.landCopyT m size ps k
    | .fill dst n pat => s.landFill m dst n pat k
    | .layout src dst _ map sh => s.landLayout m src dst map.toNat sh k
    | _ => s

/-- DEST_EXPECTATION_ARRIVE: the expectation for one destination core reaches it; out of range, or stale, it aborts that part
(R111, R155, R156). -/
def execDestExpectationArrive (id dest : Nat) (s : State) : Host.Outcome State Fault Refusal :=
  match s.cmd? id with
  | none => .refused .notEnabled
  | some m =>
    match m.dests.find? (fun d => d.co == dest && d.expect && !d.posted && !d.finished) with
    | none => .refused .notEnabled
    | some d =>
      if !m.entered then .refused .notEnabled
      else
        let c := s.core m.cl dest
        if c.gen != d.gen then .next (s.abortPart m d 0x01 0 (m.isFor dest))
        else
          let pend := match m.cell with | some n => (c.cell n).pend | none => 0
          if !pendOk (pend + d.owed) then .next (s.abortPart m d 0x0A 0 (m.isFor dest))
          else .next ((s.onDest m d (CCell.more d.owed)).setCmd { m with dests := mapIf (fun x => x.co == dest) (fun x => { x with posted := true }) m.dests })

/-! ### Bank operations (R132, R165, R287) -/

/-- The result of one update (R165): y and x as codes. -/
def bankNew (op : BankOp) (ty : Nat) (rm : Rnd) (a y x : Nat) : Nat :=
  if ty ≥ 4 then
    let less := if ty == 4 then decide (sgn 32 x < sgn 32 y) else decide (x < y)
    match op with
    | .axpy => (a * x + y) % 2 ^ 32
    | .scale => a * y % 2 ^ 32
    | .add | .rsum => (x + y) % 2 ^ 32
    | .min => if less then x else y
    | .max => if less then y else x
  else
    let f := fmtOf ty
    let sc := decodeF f (if ty == 2 then a else toF f .rne (decodeF f32 a))
    match op with
    | .axpy => toF f rm (xfma rm sc (decodeF f x) (decodeF f y))
    | .scale => toF f rm (xmul sc (decodeF f y))
    | .add | .rsum => toF f rm (xadd rm (decodeF f x) (decodeF f y))
    | .min => minCode f x y
    | .max => maxCode f x y

/-- The checks of a bank operation at queue entry (R165, R279); DESC comes before ALIGN (log entry 99). -/
def State.enterBank (s : State) (m : Cmd) (op : BankOp) (ty : Nat) (y x : Word) (n : Nat) : State :=
  let size := bankSize ty
  let usesX := op != .scale
  let ny := if op == .rsum then size else n * size
  let odd := if y.toNat % size != 0 then some y else if usesX && x.toNat % size != 0 then some x else none
  let overlap := decide (bits y.toNat 0 29 < bits x.toNat 0 29 + n * size) && decide (bits x.toNat 0 29 < bits y.toNat 0 29 + ny)
  if n > 2 ^ 24 || (usesX && (bits y.toNat 29 3 != bits x.toNat 29 3 || (overlap && x != y))) then s.endAtOnce m (some (0x09, 0))
  else if odd.isSome then s.endAtOnce m (some (0x07, engAddr .bk (odd.getD 0).toNat))
  else if n = 0 then s.endAtOnce m none
  else s.enterCmd { m with todo := [(0, if op == .rsum then 1 else n)] } (if op == .rsum then size else n * size)

/-- Read one bank element as a code. -/
def State.bankRead (s : State) (m : Cmd) (off size : Nat) : State × Except EngErr Nat :=
  match s.engRead m false .bk off size with
  | (s1, .ok l) => (s1, .ok (leNat l))
  | (s1, .error e) => (s1, .error e)

/-- The rounded sum of the source elements of rsum (R165). -/
def State.bankSum (s : State) (m : Cmd) (ty : Nat) (rm : Rnd) (x : Nat) : Nat → Nat → Option Nat → State × Except EngErr Nat
  | 0, _, acc => (s, .ok (acc.getD 0))
  | k + 1, i, acc =>
    match s.bankRead m (x + i * bankSize ty) (bankSize ty) with
    | (s1, .error e) => (s1, .error e)
    | (s1, .ok v) => State.bankSum s1 m ty rm x k (i + 1) (some (match acc with | none => v | some a => bankNew .add ty rm 0 a v))

/-- A logged update of a command asks its home: the state that may go on, or none while it is held (R379 to R383). -/
def State.logUpdate (s : State) (m : Cmd) (off n : Nat) : Option State :=
  match s.bankHome m off n with
  | none => some s
  | some h =>
    match s.gateTake m.ctx h m.key m.who with
    | none => none
    | some s1 => some (s1.logAt m.ctx h m.key m.who)

/-- A mismatch at the bank's unit as an update is made: the update is made again, or, where that mismatches too, its element stays unwritten
and the command meets POISON (R367). -/
def State.bankStruck (s : State) (m : Cmd) (at_ : Nat) (run : State → State) : State :=
  match s.engUpsets.find? (fun u => u.cl == m.cl && u.co == m.co && u.engine == .bank) with
  | some u => if u.second then (s.struckEngine u).cmdError m (.code 0x08 at_) else run (s.struckEngine u)
  | none => run s

/-- Update k of a bank operation (R132, R165). -/
def State.bankUpdate (s : State) (m : Cmd) (op : BankOp) (ty rm : Nat) (y x : Word) (n : Nat) (a : Word) (k : Nat) : Option State :=
  let size := bankSize ty
  let yo := y.toNat + (if op == .rsum then 0 else k * size)
  let md := rndOf rm
  let xr : State × Except EngErr Nat :=
    if op == .rsum then s.bankSum m ty md x.toNat n 0 none
    else if op == .scale then (s, .ok 0)
    else s.bankRead m (x.toNat + k * size) size
  match xr with
  | (s1, .error e) => some (s1.cmdError m e)
  | (s1, .ok xv) =>
    match s1.bankRead m yo size with
    | (s2, .error e) => some (s2.cmdError m e)
    | (s2, .ok yv) =>
      match s2.logUpdate m yo size with
      | none => none
      | some s3 =>
        some (s3.bankStruck m (engAddr .bk yo) (fun st =>
          wrote m k size (st.engWrite m false (fun _ => false) .bk yo (leBytes size (bankNew op ty md a.toNat yv xv)))))

/-! ### CWAIT_RETURN, CACQ_TAKE (R158, R281) -/

/-- A front's wait for its cell is over; its threads go on (R63). -/
def State.cellWaitOver (s : State) (cl co gs fi : Nat) (f : Core → Core) : State :=
  match (s.core cl co).group? gs with
  | none => s
  | some g =>
    match g.fronts[fi]? with
    | none => s
    | some fr => (s.onCore cl co f).endWait cl co gs fr

/-- CWAIT_RETURN: PEND is 0, and what it counted is seen; qd := (ERR = 0) (R158). -/
def execCwaitReturn (cl co gs fi : Nat) (s : State) : Host.Outcome State Fault Refusal :=
  let c := s.core cl co
  match (c.group? gs).bind (fun g => g.fronts[fi]?) with
  | none => .refused .notEnabled
  | some f =>
    match f.wait with
    | some (.cwait q n) => if s.joined c n then .next (s.cellWaitOver cl co gs fi (fun c => c.cwaitDone gs q n)) else .refused .notEnabled
    | _ => .refused .notEnabled

/-- CACQ_TAKE: DONE has reached n; the test and the subtraction are one update (R158, R281). -/
def execCacqTake (cl co gs fi : Nat) (s : State) : Host.Outcome State Fault Refusal :=
  let c := s.core cl co
  match (c.group? gs).bind (fun g => g.fronts[fi]?) with
  | none => .refused .notEnabled
  | some f =>
    match f.wait with
    | some (.cacq k n) =>
      if n ≤ (c.cell k).done then .next (s.cellWaitOver cl co gs fi (fun c => c.onCell k (fun x => { x with done := x.done - n }))) else .refused .notEnabled
    | _ => .refused .notEnabled

/-- The cell waits that are over. -/
def State.cellSteps (s : State) : List Instr :=
  s.cores.flatMap (fun c => if !s.coreRuns c then [] else c.groups.flatMap (fun g => g.fronts.zipIdx.flatMap (fun (f, i) =>
    match f.wait with
    | some (.cwait _ n) => if s.joined c n then [.cwaitReturn c.cl c.co g.slot i] else []
    | some (.cacq k n) => if n ≤ (c.cell k).done then [.cacqTake c.cl c.co g.slot i] else []
    | _ => [])))

end Sys2Proof.Machine
end

