-- ==== Sys2Proof/Machine/Matrix.lean ====
section
/-! DEFINITION. The matrix queue at work, and how engine commands enter, land and end (R130, R149 to R156, R178 to R189, R279). -/

namespace Sys2Proof.Machine

/-! ### Tiles and operand regions (R178 to R180) -/

/-- Flat address of row i of tile a of a core (R188). -/
def tileRow (cl co a i : Nat) : Nat := Config.tileBase + ((cl * 128 + co) * 4 + a) * 65536 + 512 * i

/-- Element (i, j) of a tile as an f32 code. -/
def State.tileAt (s : State) (cl co a i j : Nat) : Nat := s.mem.readLe (tileRow cl co a i + 4 * j) 4

/-- Write a tile row. -/
def State.setTileRow (s : State) (cl co a i : Nat) (row : List Nat) : State := s.store (tileRow cl co a i) (row.flatMap (leBytes 4))

/-- The slots of a command's launch (R145). -/
def State.cmdSlot (s : State) (m : Cmd) (n : Nat) : Slot := slotOf (((s.launch? m.launch).map (fun l => l.slots.getD n 0)).getD 0)

/-- N of an N-of-12 density (R187). -/
def densOf (d : Nat) : Nat := match d with | 0 => 3 | 1 => 4 | _ => 6

/-- Stored columns of an A panel (R179, R187). -/
def storedK (v : MmaVar) (dens k : Nat) : Nat := match v with | .sparse => k * densOf dens / 12 | _ => k

/-- Bytes of a panel of r rows, k stored columns and w-bit elements (R179). -/
def panelBytes (r k w : Nat) : Nat := (r + 63) / 64 * k * w * 8

/-- The block of scale of a pair of slots (R151). -/
def scaleBlock (a b : Slot) : Nat := if a.scaled then (if a.sblk = 0 then 16 else 32) else if b.scaled then (if b.sblk = 0 then 16 else 32) else 32

/-- The regions of an operand map in an allocation: offset and length (R178 to R180, R186, R187). -/
def mapRegions (v : MmaVar) (dens : Nat) (isA : Bool) (sl : Slot) (p : OpMap) : List (Nat × Nat) :=
  let w := elemWidth sl.elem
  let sb := if sl.sblk = 0 then 16 else 32
  let kk := if isA then storedK v dens p.k else p.k
  let extra := if !isA then [] else match v with
    | .gather => [(p.aux, 256)]
    | .sparse => [(p.aux, (p.rows * kk + 1) / 2)]
    | _ => []
  [(p.panel, panelBytes p.rows kk w)] ++ (if sl.scaled then [(p.scale, 2 * (p.rows * (p.k / sb)))] else []) ++ extra

/-- Regions are aligned and lie in the allocation of a core (R183). -/
def State.regionsIn (s : State) (cl co : Nat) (rs : List (Nat × Nat)) : Bool :=
  match (s.core cl co).block with
  | some b => rs.all (fun (o, n) => o % 8 == 0 && decide (o + n ≤ b.z))
  | none => false

/-- The engine address of an offset of a core's allocation (R160). -/
def ownSp (co off : Nat) : Nat := engAddr .sp (co * 2 ^ 27 + off)

/-- The engine address of the first poisoned word of an operand in a core's allocation (R183). -/
def State.operandPoison (s : State) (m : Cmd) (co off n : Nat) : Option Nat := (s.firstPoison m.cl co off n).map (ownSp co)

/-- The limits of R178. -/
def operandsOk (v : MmaVar) (a b : OpMap) : Bool :=
  let maxA := match v with | .gather => 4096 | _ => 128
  let unit := match v with | .sparse => 96 | _ => 32
  decide (1 ≤ a.rows) && decide (a.rows ≤ maxA) && decide (1 ≤ b.rows) && decide (b.rows ≤ 128) && a.k == b.k && a.k % unit == 0 && decide (32 ≤ a.k) && decide (a.k ≤ 8192)

/-- The follower of a pair command holds a block of the same PAIR unit (R185). -/
def State.pairOk (s : State) (m : Cmd) : Bool :=
  m.co % 2 == 0 &&
    (match (s.core m.cl (m.co + 1)).block, s.launch? m.launch with
     | some b, some l =>
       b.launch == m.launch && (match l.levels.findIdx? (fun d => d.domain == 2) with
         | some i => b.index / l.blocksIn i == m.block / l.blocksIn i
         | none => false)
     | _, _ => false)

/-! ### Entry (R182, R183, R279) -/

/-- The checks of a multiply at queue entry. -/
def State.enterMma (s : State) (m : Cmd) (v : MmaVar) (dens sa sb : Nat) (a b : OpMap) (high : Bool) : State :=
  let fail := fun code => s.endAtOnce m (some (code, 0))
  let ra := mapRegions v dens true (s.cmdSlot m sa) a
  let rb := mapRegions v dens false (s.cmdSlot m sb) b
  if high then fail 0x09
  else if v == .pair && !s.pairOk m then fail 0x24
  else if !operandsOk v a b then fail 0x20
  else if !s.regionsIn m.cl m.co (ra ++ rb) || (v == .pair && !s.regionsIn m.cl (m.co + 1) ra) then fail 0x21
  else
    match v with
    | .pair => s.enterCmd { m with todo := [(0, a.rows), (128, 128 + a.rows)] } 131072
    | .gather => s.enterCmd { m with todo := [(0, 128)] } 65536
    | _ => s.enterCmd { m with todo := [(0, a.rows)] } 65536

/-- The row list of a scatter as 128 numbers (R189). -/
def rowList (l : List Byte) : List Nat := (List.range 128).map (fun i => leNat ((l.drop (4 * i)).take 4))

/-- The checks of the other matrix-queue commands at queue entry (R182, R183, R188, R189). The row list of acc.stx is read here, as R189 and R279 have it, and
does not wait for what earlier commands of the queue are still to write: DESIGN CHOICE beside R130 (log entry 97). -/
def State.enterAcc (s : State) (m : Cmd) (k : CmdKind) : State :=
  let fail := fun code addr => s.endAtOnce m (some (code, addr))
  let odd := fun (base : DWord) => base.toNat % 64 != 0
  match k with
  | .accClr _ => s.enterCmd { m with todo := [(0, 128)] } 65536
  | .accLd spc base _ => if odd base then fail 0x07 (engAddr spc base.toNat) else s.enterCmd { m with todo := [(0, 128)] } 65536
  | .accSt spc base _ slot =>
    let sl := s.cmdSlot m slot
    let sb := if sl.sblk = 0 then 16 else 32
    let total := 2048 * elemWidth sl.elem + (if sl.scaled then 32768 / sb else 0)
    if odd base then fail 0x07 (engAddr spc base.toNat) else s.enterCmd { m with todo := [(0, total / 16)] } total
  | .accStx spc add base ad list mul _ =>
    if !s.regionsIn m.cl m.co [(list, 512), (mul, 512)] then fail 0x21 0
    else
      (match s.ownBytes m.cl m.co list 512 with
       | none => fail 0x21 0
       | some (l, _) =>
         match s.operandPoison m m.co list 512 with
         | some a => fail 0x08 a
         | none =>
           if odd base then fail 0x07 (engAddr spc base.toNat)
           else
             let rows := rowList l
             let todo := (List.range 128).filterMap (fun i => if rows.getD i 0 == 0xFFFFFFFF then none else some (128 * i, 128 * i + 128))
             s.enterCmd { m with kind := .accStx spc add base ad list mul rows, todo := todo } (512 * todo.length))
  | _ => s

/-- ENGINE_QUEUE_ENTRY: the command enters its queue: descriptor or table read, checked, expectation posted (R129, R155, R279). -/
def execEngineQueueEntry (id : Nat) (s : State) : Host.Outcome State Fault Refusal :=
  match s.cmd? id with
  | none => .refused .notEnabled
  | some m =>
    if !s.mayEnter m then .refused .notEnabled
    else
      .next (match m.kind with
        | .box src dst desc _ => s.enterBox m src dst desc
        | .copyT size ps => s.enterCopyT m size ps
        | .fill dst n pat => s.enterFill m dst n pat
        | .layout src dst ctl map _ => s.enterLayout m src dst ctl map
        | .mma v dens sa sb _ a b high => s.enterMma m v dens sa sb a b high
        | .bankop op ty _ y x n _ => s.enterBank m op ty y x n
        | k => s.enterAcc m k)

/-! ### The arithmetic (R151, R152) -/

/-- The code of element (r, k) of a panel in plane layout (R179): kk stored columns of w bits from a flat address. -/
def State.planeCode (s : State) (base kk w r k : Nat) : Nat :=
  ((List.range w).map (fun b => if bit (s.mem.readLe (base + ((r / 64 * kk + k) * w + b) * 8) 8) (r % 64) then 2 ^ b else 0)).foldl (· + ·) 0

/-- One block of R151 on an accumulator code. -/
def blockStep (sat : Bool) (acc : Nat) (x : XVal) : Nat :=
  match x with
  | .nan => 0x7FC00000
  | .fin _ 0 _ _ => acc
  | x =>
    let a := decodeF f32 acc
    let y := xadd .rne a x
    if sat && x.isFin && a.isFin then toF f32 .rne (satX (.flt f32) y) else toF f32 .rne y

/-- The exact sum of products of one block (R151). -/
def blockSum (l : List (XVal × XVal)) : XVal := l.foldl (fun acc (a, b) => xadd .rne acc (xmul a b)) (xint 0)

/-- One element: blocks in increasing k. Each block gives its products and the product of its scales. -/
def elemAcc (sat : Bool) (acc : Nat) (blocks : List (List (XVal × XVal) × XVal)) : Nat :=
  blocks.foldl (fun a (l, sc) => blockStep sat a (xmul (blockSum l) sc)) acc

/-- A row of the A operand: logical columns with their values, and the scale of each block. -/
structure RowA where
  elems : List (Nat × XVal)
  scale : List XVal
deriving DecidableEq, Repr

/-- The metadata index of stored element j of row i (R187). -/
def State.metaIdx (s : State) (cl co off n : Nat) : Nat := bits (s.mem.read (spAddr cl co (off + n / 2))).toNat (4 * (n % 2)) 4

/-- The logical columns of a row of an N-of-12 panel; none where MSPARSE holds (R187). -/
def State.sparseCols (s : State) (cl co off n i kk : Nat) : Option (List Nat) :=
  let x := fun j => s.metaIdx cl co off (i * kk + j)
  if (List.range kk).all (fun j => decide (x j ≤ 11) && (j % n == 0 || decide (x (j - 1) < x j))) then some ((List.range kk).map (fun j => 12 * (j / n) + x j)) else none

/-- The scales of a row or column (R180); 1 for an unscaled slot. -/
def State.scalesOf (s : State) (cl co : Nat) (sl : Slot) (p : OpMap) (sb r : Nat) : List XVal :=
  let n := p.k / sb
  if sl.scaled then (List.range n).map (fun b => xs10 (s.mem.readLe (spAddr cl co (p.scale + 2 * (r * n + b))) 2)) else List.replicate n (xint 1)

/-- A matrix row's outcome: unchanged, its new codes, or an error code with an address. -/
inductive RowOut where
  | same
  | row (l : List Nat)
  | err (code addr : Nat)
deriving DecidableEq, Repr

/-- The first poisoned word of what row i of a multiply reads: its band of the A panel, the B panel, its metadata, the scales (R183, R187). -/
def State.rowPoison (s : State) (m : Cmd) (v : MmaVar) (la lb : Slot) (kk : Nat) (a b : OpMap) (co i src : Nat) : Option Nat :=
  let n := a.k / scaleBlock la lb
  let band := kk * elemWidth la.elem * 8
  let first := i * kk / 2
  ([(true, co, a.panel + src / 64 * band, band), (true, m.co, b.panel, panelBytes b.rows b.k (elemWidth lb.elem)),
    (v == .sparse, co, a.aux + first, (i * kk + kk - 1) / 2 - first + 1), (la.scaled, co, a.scale + 2 * (src * n), 2 * n),
    (lb.scaled, m.co, b.scale, 2 * b.rows * n)] : List (Bool × Nat × Nat × Nat)).findSome?
      (fun (used, c, off, len) => if used then s.operandPoison m c off len else none)

/-- Row i of a multiply, on a core whose A panel and tile it uses; B comes from the issuing core (R184 to R187). What a NaN or an infinity of
B does opposite a column that an N-of-12 panel drops the spec leaves open between R151 and R152: the model sums the kept columns only: DESIGN
CHOICE (log entry 85). -/
def State.mmaRow (s : State) (m : Cmd) (v : MmaVar) (dens sa sb ad : Nat) (a b : OpMap) (co i : Nat) : RowOut :=
  let la := s.cmdSlot m sa
  let lb := s.cmdSlot m sb
  let wa := elemWidth la.elem
  let wb := elemWidth lb.elem
  let blk := scaleBlock la lb
  let kk := storedK v dens a.k
  let entry := a.aux + 2 * i
  let src := match v with | .gather => s.mem.readLe (spAddr m.cl co entry) 2 | _ => i
  match (if v == .gather then s.operandPoison m co entry 2 else none) with
  | some at_ => .err 0x08 at_
  | none =>
    if v == .gather && src == 0xFFFF then .same
    else if v == .gather && decide (a.rows ≤ src) then .err 0x22 (ownSp co entry)
    else
      let cols := match v with | .sparse => s.sparseCols m.cl co a.aux (densOf dens) i kk | _ => some (List.range kk)
      match s.rowPoison m v la lb kk a b co i src, cols with
      | some at_, _ => .err 0x08 at_
      | none, none => .err 0x23 (ownSp co (a.aux + i * kk / 2))
      | none, some cs =>
        let av := cs.zipIdx.map (fun (c, j) => (c, decodeElem la.elem (s.planeCode (spAddr m.cl co a.panel) kk wa src j)))
        let sa' := s.scalesOf m.cl co la a blk src
        .row ((List.range 128).map (fun j =>
          let old := s.tileAt m.cl co ad i j
          if b.rows ≤ j then old
          else
            let sb' := s.scalesOf m.cl m.co lb b blk j
            let bv := fun k => decodeElem lb.elem (s.planeCode (spAddr m.cl m.co b.panel) b.k wb j k)
            elemAcc la.sat old ((List.range (a.k / blk)).map (fun n =>
              (((av.filter (fun x => x.1 / blk == n)).map (fun x => (x.2, bv x.1))), xmul (sa'.getD n (xint 1)) (sb'.getD n (xint 1)))))))

/-! ### Addresses of accumulator commands (R188, R189) -/

/-- The offset within a space of an address modulo 2^64; an address outside the space's format has the code of its space. -/
def accOff (spc : Space) (a : Nat) : Except EngErr Nat :=
  let x := a % 2 ^ 64
  match spc with
  | .gm => if canonicalVa x then .ok (x % 2 ^ 60) else .error (.code 0x02 x)
  | .sp => if x < 2 ^ 60 then .ok x else .error (.code 0x05 x)
  | _ => if x < 2 ^ 60 then .ok x else .error (.code 0x06 x)

/-- Read for an accumulator command. -/
def State.accRead (s : State) (m : Cmd) (spc : Space) (a n : Nat) : State × Except EngErr (List Byte) :=
  match accOff spc a with
  | .error e => (s, .error e)
  | .ok off => s.engRead m false spc off n

/-- Write for an accumulator command. -/
def State.accWrite (s : State) (m : Cmd) (spc : Space) (a : Nat) (l : List Byte) : State × Except EngErr Unit :=
  match accOff spc a with
  | .error e => (s, .error e)
  | .ok off => s.engWrite m false (fun _ => false) spc off l

/-- A row of 512 bytes in units of 64. -/
def State.accReadRow (s : State) (m : Cmd) (spc : Space) (a : Nat) : Nat → State × Except EngErr (List Byte)
  | 0 => (s, .ok [])
  | n + 1 =>
    match State.accReadRow s m spc a n with
    | (s1, .error e) => (s1, .error e)
    | (s1, .ok l) =>
      match s1.accRead m spc (a + 64 * n) 64 with
      | (s2, .error e) => (s2, .error e)
      | (s2, .ok l2) => (s2, .ok (l ++ l2))

/-! ### MATRIX_ROW_FINAL (R182 to R188) -/

/-- Kinds whose rows MATRIX_ROW_FINAL makes final. -/
def CmdKind.rowsOf : CmdKind → Bool
  | .mma .. | .accClr .. | .accLd .. => true
  | _ => false

/-- A row of a command may become final. -/
def State.rowReady (s : State) (m : Cmd) (row : Nat) : Bool := m.going && m.kind.rowsOf && hasIndex row m.todo && s.atHead m

/-- A row of a multiply meets an error; one of the follower's rows is a part that no cell of its core counts (R183, R341). -/
def State.rowError (s : State) (m : Cmd) (row code addr : Nat) : State :=
  (s.onCmd m.id (fun x => { x with apart := decide (row ≥ 128) })).cmdError m (.code code addr)

/-- A row of a multiply takes its final value (R184). -/
def State.mmaFinal (s : State) (m : Cmd) (v : MmaVar) (dens sa sb ad : Nat) (a b : OpMap) (co row : Nat) : State :=
  match s.mmaRow m v dens sa sb ad a b co (row % 128) with
  | .same => s.setCmd { m with todo := takeIndex row m.todo }
  | .row l => (s.setTileRow m.cl co ad (row % 128) l).landed { m with todo := takeIndex row m.todo } 512 none
  | .err code addr => s.rowError m row code addr

/-- Make a row final. A mismatch of the array makes the row again from the kept value; a second one aborts the command with POISON, and its
core is marked for test (R366, R367). -/
def State.finalRow (s : State) (m : Cmd) (row : Nat) : State :=
  match m.kind with
  | .mma v dens sa sb ad a b _ =>
    let co := if row ≥ 128 then m.co + 1 else m.co
    (match s.engUpset m co with
     | some u =>
       if u.second then ((s.struckEngine u).markCore m.cl co).rowError m row 0x08 0
       else (s.struckEngine u).mmaFinal m v dens sa sb ad a b co row
     | none => s.mmaFinal m v dens sa sb ad a b co row)
  | .accClr ad => (s.setTileRow m.cl m.co ad row (List.replicate 128 0)).landed { m with todo := takeIndex row m.todo } 512 none
  | .accLd spc base ad =>
    (match s.accReadRow m spc (base.toNat + 512 * row) 8 with
     | (s1, .error e) => s1.cmdError m e
     | (s1, .ok l) => (s1.store (tileRow m.cl m.co ad row) l).landed { m with todo := takeIndex row m.todo } 512 none)
  | _ => s

/-- MATRIX_ROW_FINAL: a tile row takes its final value (R182). -/
def execMatrixRowFinal (id row : Nat) (s : State) : Host.Outcome State Fault Refusal :=
  match s.cmd? id with
  | none => .refused .notEnabled
  | some m => if s.rowReady m row then .next (s.finalRow m row) else .refused .notEnabled

/-! ### acc.st and acc.stx (R188, R189) -/

/-- The scale container of block b of row i, chosen from its exact magnitudes (R144, R188). -/
def State.tileScale (s : State) (m : Cmd) (ad : Nat) (sl : Slot) (i b : Nat) : Nat :=
  let sb := if sl.sblk = 0 then 16 else 32
  let mags := (List.range sb).map (fun j => xabs (decodeF f32 (s.tileAt m.cl m.co ad i (b * sb + j))))
  let amax := mags.foldl (fun a x => if a.isNan || x.isNan then XVal.nan else if xlt false a x then x else a) (xint 0)
  chooseScale sl.elem amax

/-- The code that acc.st stores for an element (R149, R188). An f32 slot without scales keeps the tile's bits exactly, as R192 and the prose of
R149 have it, those of a NaN and of an infinity too, which the pseudocode of R149 would change: DEDUCED (log entry 84). -/
def State.storedCode (s : State) (m : Cmd) (ad : Nat) (sl : Slot) (n : Nat) : Nat :=
  let i := n / 128
  let j := n % 128
  let x := s.tileAt m.cl m.co ad i j
  let d := decodeF f32 x
  let sb := if sl.sblk = 0 then 16 else 32
  if sl.elem == .flt f32 && !sl.scaled then x
  else convertSlot sl (if sl.scaled then xdiv d (xs10 (s.tileScale m ad sl i (j / sb))) else d)

/-- Sixteen bytes of what acc.st writes: element codes first, then scale containers (R188). -/
def State.storedBytes (s : State) (m : Cmd) (ad : Nat) (sl : Slot) (k : Nat) : List Byte :=
  let w := elemWidth sl.elem
  let sb := if sl.sblk = 0 then 16 else 32
  if 16 * k < 2048 * w then
    let n := 128 / w
    leBytes 16 (((List.range n).map (fun e => s.storedCode m ad sl (k * n + e) * 2 ^ (w * e))).foldl (· + ·) 0)
  else
    let c0 := (16 * k - 2048 * w) / 2
    (List.range 8).flatMap (fun e => leBytes 2 (s.tileScale m ad sl ((c0 + e) / (128 / sb)) ((c0 + e) % (128 / sb))))

/-- The multiplier of a scatter's row; none where it is poisoned (R189). -/
def State.scatterMul (s : State) (m : Cmd) (mul i : Nat) : Option Nat :=
  let a := spAddr m.cl m.co (mul + 4 * i)
  if s.poisoned a 4 then none else some (s.mem.readLe a 4)

/-- Word k of a scatter without `.add`, or a unit of acc.st. -/
def State.landAcc (s : State) (m : Cmd) (k : Nat) : State :=
  match m.kind with
  | .accSt spc base ad slot =>
    wrote m k 16 (s.accWrite m spc (base.toNat + 16 * k) (s.storedBytes m ad (s.cmdSlot m slot) k))
  | .accStx spc _ base ad _ mul rows =>
    (match s.scatterMul m mul (k / 128) with
     | none => s.cmdError m (.code 0x08 (ownSp m.co (mul + 4 * (k / 128))))
     | some f =>
       let x := toF f32 .rne (xmul (decodeF f32 f) (decodeF f32 (s.tileAt m.cl m.co ad (k / 128) (k % 128))))
       wrote m k 4 (s.accWrite m spc (base.toNat + 512 * rows.getD (k / 128) 0 + 4 * (k % 128)) (leBytes 4 x)))
  | _ => s

/-- A command of the matrix queue whose bytes land one unit at a time. -/
def CmdKind.accMoves : CmdKind → Bool
  | .accSt .. => true
  | .accStx _ add .. => !add
  | _ => false

/-- ENGINE_BYTES_LAND may move element k of a command. -/
def State.landReady (s : State) (m : Cmd) (k : Nat) : Bool := m.mayLand k || (m.goesOn k && m.kind.accMoves && s.atHead m)

/-- ENGINE_BYTES_LAND: one element of a command lands (R155, R161, R163, R164, R171, R188, R189). -/
def execEngineBytesLand (id k : Nat) (s : State) : Host.Outcome State Fault Refusal :=
  match s.cmd? id with
  | none => .refused .notEnabled
  | some m =>
    if !s.landReady m k then .refused .notEnabled
    else
      match State.landWith (fun st x => some (if m.kind.moves then st.landElement x k else st.landAcc x k)) s m k ((m.coreOf k).filter (· != m.co)) with
      | some s1 => .next s1
      | none => .refused .notEnabled

/-! ### BANK_ELEMENT_UPDATE (R132, R165, R189) -/

/-- Word k of a scatter with `.add`: one rounding, at the bank (R132, R189); none while a gate holds it. -/
def State.scatterAdd (s : State) (m : Cmd) (base : DWord) (ad mul : Nat) (rows : List Nat) (k : Nat) : Option State :=
  match s.scatterMul m mul (k / 128) with
  | none => some (s.cmdError m (.code 0x08 (ownSp m.co (mul + 4 * (k / 128)))))
  | some f =>
    let a := base.toNat + 512 * rows.getD (k / 128) 0 + 4 * (k % 128)
    match s.accRead m .bk a 4 with
    | (s1, .error e) => some (s1.cmdError m e)
    | (s1, .ok l) =>
      match s1.logUpdate m (a % 2 ^ 64) 4 with
      | none => none
      | some s2 =>
        let x := toF f32 .rne (xfma .rne (decodeF f32 f) (decodeF f32 (s.tileAt m.cl m.co ad (k / 128) (k % 128))) (decodeF f32 (leNat l)))
        some (s2.bankStruck m (engAddr .bk a) (fun st => wrote m k 4 (st.accWrite m .bk a (leBytes 4 x))))

/-- The update k of a command, if it may be made now. -/
def State.updateFor (s : State) (m : Cmd) (k : Nat) : Option State :=
  if !(m.goesOn k && s.atHead m) then none
  else
    match m.kind with
    | .bankop op ty rm y x n a => s.bankUpdate m op ty rm y x n a k
    | .accStx _ true base ad _ mul rows => s.scatterAdd m base ad mul rows k
    | _ => none

/-- BANK_ELEMENT_UPDATE: one update at its bank (R132); its acknowledgement may come before it is seen (R289). -/
def execBankElementUpdate (id k : Nat) (s : State) : Host.Outcome State Fault Refusal :=
  match (s.cmd? id).bind (fun m => State.landWith (fun st x => st.updateFor x k) s m k none) with
  | some s1 => .next s1
  | none => .refused .notEnabled

/-! ### COMMAND_FINISH, COMMAND_ABORT (R155, R156, R183) -/

/-- Everything of the command has landed. -/
def State.finishReady (s : State) (m : Cmd) : Bool := m.going && m.todo.isEmpty && m.dests.all (fun d => d.finished) && s.atHead m

/-- COMMAND_FINISH: rows left unchanged count as final, DONE counts, the queue entry is free (R155, R182, R279). -/
def execCommandFinish (id : Nat) (s : State) : Host.Outcome State Fault Refusal :=
  match s.cmd? id with
  | none => .refused .notEnabled
  | some m => if s.finishReady m then .next ((s.onIssuer m (fun x => (x.less m.owed).count)).dropCmd id) else .refused .notEnabled

/-- An aborted multiply or load leaves NaN in its tile (R183). -/
def State.nanTile (s : State) (cl co ad : Nat) : State :=
  (List.range 128).foldl (fun st i => st.setTileRow cl co ad i (List.replicate 128 0x7FC00000)) s

/-- What an abort leaves in the tiles (R183). -/
def State.abortTiles (s : State) (m : Cmd) : State :=
  match m.kind with
  | .mma v _ _ _ ad _ _ _ => let s1 := s.nanTile m.cl m.co ad; if v == .pair then s1.nanTile m.cl (m.co + 1) ad else s1
  | .accLd _ _ ad => s.nanTile m.cl m.co ad
  | _ => s

/-- An abort may be made: what was acknowledged has landed. -/
def State.abortReady (s : State) (m : Cmd) : Bool := m.entered && m.err.isSome && m.stall.isNone && m.early.isEmpty && s.atHead m

/-- COMMAND_ABORT (R156, R183, R341). -/
def execCommandAbort (id : Nat) (s : State) : Host.Outcome State Fault Refusal :=
  match s.cmd? id with
  | none => .refused .notEnabled
  | some m =>
    match m.err with
    | none => .refused .notEnabled
    | some (code, addr) => if s.abortReady m then .next ((s.abortTiles m).abortCmd m code addr.toNat) else .refused .notEnabled

/-- The steps of one command that may be taken. -/
def State.cmdSteps (s : State) (m : Cmd) : List Instr :=
  if s.mayEnter m then [.engineQueueEntry m.id]
  else
    (m.dests.filter (fun d => m.entered && d.expect && !d.posted && !d.finished)).map (fun d => .destExpectationArrive m.id d.co) ++
    (if s.abortReady m then [.commandAbort m.id]
     else if s.finishReady m then [.commandFinish m.id]
     else
       (indexes m.todo).filterMap (fun k =>
         if s.landReady m k then some (.engineBytesLand m.id k)
         else if s.rowReady m k then some (.matrixRowFinal m.id k)
         else if (s.updateFor m k).isSome then some (.bankElementUpdate m.id k)
         else none))

/-- The steps of the engines that may be taken. -/
def State.engineSteps (s : State) : List Instr := s.cmds.flatMap s.cmdSteps ++ s.cellSteps

end Sys2Proof.Machine
end

