-- ==== Sys2Proof/Machine/Eland.lean ====
section
/-! DEFINITION. The Eland: queues, doorbells, its accesses to memory, and the packets that store, wait and signal
(R314 to R319, R335). -/

namespace Sys2Proof.Machine

/-! ### Queues (R314, R315) -/

/-- A physical address as a partition's queue table or control block gives it: an HBM offset, or the Markhor's own device
memory (log entry 22). -/
def State.phys (s : State) (part a : Nat) : Nat := if a < Config.qcbBase then s.partBase part + a else a

/-- The partition whose queue a control block describes. -/
def qcbPart (q : Nat) : Nat := (q - Config.qcbBase) / 2 ^ 24

/-- A queue control block (R314). -/
structure Queue where
  ring : Nat
  log2n : Nat
  rd : Nat
  wr : Nat
  step : Nat
  state : Nat
  ctx : Nat
deriving DecidableEq, Repr

/-- Read a control block. -/
def State.queue (s : State) (q : Nat) : Queue :=
  { ring := s.mem.readLe q 8, log2n := s.mem.readLe (q + 8) 1, rd := s.mem.readLe (q + 12) 4, wr := s.mem.readLe (q + 16) 4,
    step := s.mem.readLe (q + 20) 1, state := s.mem.readLe (q + 21) 1, ctx := s.mem.readLe (q + 22) 2 }

/-- Set RD. -/
def State.setRd (s : State) (q n : Nat) : State := s.storeLe (q + 12) 4 (n % 2 ^ 32)
/-- Set WR. -/
def State.setWr (s : State) (q n : Nat) : State := s.storeLe (q + 16) 4 n
/-- Set STEP. -/
def State.setStep (s : State) (q n : Nat) : State := s.storeLe (q + 20) 1 n
/-- Set STATE. -/
def State.setQState (s : State) (q n : Nat) : State := s.storeLe (q + 21) 1 n

/-- The packet at RD (R314): 64 bytes as a number. -/
def State.packet (s : State) (q : Nat) : Nat :=
  let x := s.queue q
  s.mem.readLe (s.phys (qcbPart q) x.ring + 64 * (x.rd % 2 ^ x.log2n)) 64

/-- The hash of the queue table (R315). -/
def queueHash (pasid qnum k : Nat) : Nat := (pasid * 2 ^ 16 + qnum) * 0x9E3779B1 % 2 ^ 32 / 2 ^ (32 - k)

/-- Entry i of a partition's queue table. -/
def State.qEntry (s : State) (p : Partition) (base i : Nat) : Nat := s.mem.readLe (s.phys p.idx base + 16 * (i % 2 ^ p.qtableK)) 16

/-- An entry of the table holds a key. -/
def entryIs (e pasid qnum : Nat) : Bool := bit e 100 && bits e 64 20 == pasid && bits e 84 16 == qnum

/-- The slot of a key in a partition's queue table: at most 8 are probed, and an invalid one does not stop the probe (R315). -/
def State.qSlot (s : State) (p : Partition) (base pasid qnum : Nat) : Option Nat :=
  ((List.range 8).map (fun j => queueHash pasid qnum p.qtableK + j)).find? (fun i => entryIs (s.qEntry p base i) pasid qnum)

/-- The control block of a key (R315). -/
def State.findQueue (s : State) (p : Partition) (pasid qnum : Nat) : Option Nat :=
  p.qtable.bind (fun base => (s.qSlot p base pasid qnum).map (fun i => bits (s.qEntry p base i) 0 64))

/-- The PASID names a context of another function only (R315). -/
def State.foreignPasid (s : State) (part pasid : Nat) : Bool :=
  s.ctxs.any (fun c => c.pasid == pasid && c.part != part) && !s.ctxs.any (fun c => c.pasid == pasid && c.part == part)

/-- A doorbell or mailbox write is dropped and logged in the partition's record (R309, R315). -/
def State.dropWrite (s : State) (part : Nat) (ctx : Option Nat) : State := s.notePart part ctx 11 0 0 0

/-- Add a queue to those its partition's Eland serves. -/
def State.activate (s : State) (part q : Nat) : State :=
  s.onPart part (fun p => { p with activeQ := if p.activeQ.contains q then p.activeQ else p.activeQ ++ [q] })

/-- A write of the host for a context is turned away: that of a protected one unless its function's TDI runs and the write comes over one of its
secure streams with T = 1 (R361). -/
def State.turnsAway (s : State) (c : Context) (stream : Option Nat) (t : Bool) : Bool :=
  c.prot && !(t && s.spdm.any (fun x => x.fn == c.part + 1 && x.tdi == .run && stream.any (fun n => x.streams.any (fun y => y.1 == n))))

/-- DOORBELL: a write to the doorbell page, over an IDE stream or none, finds the queue, sets WR, and makes an idle queue active (R315, R361). -/
def execDoorbell (part : Nat) (tag : HostTag) (v : DWord) (s : State) : Host.Outcome State Fault Refusal :=
  match s.part? part with
  | none => .refused .notEnabled
  | some p =>
    let id := tag.pasid.getD (Config.defaultPasid part % 2 ^ 20)
    let n := v.toNat
    if bits n 16 16 != 0 || s.foreignPasid part id then .next (s.dropWrite part none)
    else
      match s.findQueue p id (bits n 0 16) with
      | none => .next (s.dropWrite part none)
      | some q =>
        let x := s.queue q
        if s.turnsAway (s.ctxOf x.ctx) tag.stream tag.t then .next (s.dropWrite part (some x.ctx))
        else
          let s1 := s.setWr q (bits n 32 32)
          if bits n 32 32 == x.rd || x.state != 0 then .next s1 else .next ((s1.setQState q 1).activate part q)

/-! ### The Eland's accesses (R319) -/

/-- Where the Eland's translations are held: beside the clusters' own. -/
def elandCl (part : Nat) : Nat := Config.clusters + part

/-- Who waits for a page: a queue's step, a launch's signal, or an image load. -/
abbrev ElandWho := Nat × Nat × Nat

/-- What an access of the Eland comes to. -/
inductive Got where
  | ok (l : List Byte)
  | block
  | fail (va : Nat)
deriving DecidableEq, Repr

/-- A stall of the Eland on an unmapped page, written to the fault ring with SRC 6 (R319, R334). -/
def State.elandStall (s : State) (c : Context) (va : Nat) (acc : AccessKind) (who : ElandWho) : State :=
  let (id, s1) := s.freshId
  let st : Stall := { id := id, part := c.part, cl := elandCl c.part, ctx := c.ctx, va := va, src := 6, acc := acc, who := some who }
  { s1 with stalls := s1.stalls ++ [st] }

/-- The stall that stands for someone, and what it leaves: an answer FAIL is used up (R335). -/
def State.elandWaits (s : State) (who : ElandWho) : Option Stall := s.stalls.find? (fun x => x.src == 6 && x.who == some who)

/-- Forget a stall. -/
def State.dropStall (s : State) (id : Nat) : State := { s with stalls := s.stalls.filter (fun x => x.id != id) }

/-- The outcome of a page fault of the Eland (R319). -/
def State.elandFault (s : State) (c : Context) (acc : AccessKind) (who : ElandWho) : PageFault → State × Got
  | .translation true va => if c.trapMode then (s, .fail va) else (s.elandStall c va acc who, .block)
  | .unreachable _ => (s, .block)
  | f => (s, .fail f.va)

/-- Read for a context, at an alignment (R319). -/
def State.elandRead (s : State) (c : Context) (who : ElandWho) (va n align : Nat) : State × Got :=
  match s.elandWaits who with
  | some st => if st.fail then (s.dropStall st.id, .fail st.va) else (s, .block)
  | none =>
    if va % align != 0 then (s, .fail va)
    else
      match s.gmReadAll (elandCl c.part) 0 c false (n / 4096 + 2) va n with
      | (s1, .ok (l, false)) => (s1, .ok l)
      | (s1, .ok (_, true)) => (s1, .fail va)
      | (s1, .error f) => s1.elandFault c .read who f

/-- Write 8 bytes for a context (R316, R317, R319). -/
def State.elandWrite (s : State) (c : Context) (who : ElandWho) (va x : Nat) : State × Got :=
  match s.elandWaits who with
  | some st => if st.fail then (s.dropStall st.id, .fail st.va) else (s, .block)
  | none =>
    if va % 8 != 0 then (s, .fail va)
    else
      match s.gmWrite (elandCl c.part) 0 c false va (leBytes 8 x) with
      | (s1, .ok _) => (s1.releasesOutside, .ok [])
      | (s1, .error f) => s1.elandFault c .write who f

/-- The entry of a refused launch or a failed access of the Eland (R319, R321). -/
def State.logEland (s : State) (c : Context) (code addr : Nat) : State :=
  s.logCtx (elandCl c.part) 0 c.ctx { kind := 4, cause := 0x16C, code := code, addr := addr }

/-! ### Packets (R316, R317) -/

/-- The types of packet. -/
inductive Pkt where
  | launch (record : Nat)
  | resume (record pool n : Nat)
  | write (addr value : Nat)
  | signal
  | wait (addr value cond : Nat)
  | imageLoad (img dst len : Nat) (commit : Bool)
  | bad
deriving DecidableEq, Repr

/-- Read a packet; a TYPE, COND or zero field that is not valid makes it malformed (R316, R317). -/
def pktOf (n : Nat) : Pkt :=
  let a := bits n 192 64
  let b := bits n 256 64
  if bits n 353 159 != 0 || bits n 10 54 != 0 then .bad
  else
    match bits n 0 8 with
    | 1 => if bits n 256 97 != 0 then .bad else .launch a
    | 2 | 5 => if bits n 320 33 != 0 then .bad else .write a b
    | 3 => if bits n 192 161 != 0 then .bad else .signal
    | 4 => if bits n 322 31 != 0 || bits n 320 2 == 3 then .bad else .wait a b (bits n 320 2)
    | 6 => .imageLoad a b (bits n 320 32) (bit n 352)
    | 7 => if bit n 352 then .bad else .resume a b (bits n 320 32)
    | _ => .bad

/-- SIGADDR of a packet. -/
def sigAddr (n : Nat) : Nat := bits n 64 64
/-- SIGVAL of a packet. -/
def sigVal (n : Nat) : Nat := bits n 128 64

/-- The contexts of a partition's current slice (R324). -/
def Partition.entry (p : Partition) : List Nat := (p.slices[p.slice]?).getD []

/-- The queues of a context are served in the current slice (R318, R324). -/
def State.inSlice (s : State) (part ctx : Nat) : Bool := ((s.part? part).map (fun p => p.entry.contains ctx)).getD false

/-- An earlier launch of the queue has not ended (R316). -/
def State.launchesOpen (s : State) (q : Nat) : Bool := s.launches.any (fun l => l.qcb == q && !l.ended)

/-- FENCE holds a packet back (R316, R318). -/
def State.fenced (s : State) (q : Nat) : Bool := bit (s.packet q) 8 && (s.queue q).step == 0 && s.launchesOpen q

/-- A queue that the Eland may serve now: active or blocked, with a packet, its context in the current slice (R318, R324). -/
def State.serves (s : State) (q : Nat) : Bool :=
  let x := s.queue q
  (x.state == 1 || x.state == 2) && x.rd != x.wr && s.inSlice (qcbPart q) x.ctx && ((s.part? (qcbPart q)).map (fun p => p.activeQ.contains q)).getD false

/-- The queue has had its turn (R318). -/
def State.turnOver (s : State) (q : Nat) : State :=
  s.onPart (qcbPart q) (fun p => { p with activeQ := if p.activeQ.contains q then p.activeQ.filter (· != q) ++ [q] else p.activeQ })

/-- The queue is no longer active. -/
def State.deactivate (s : State) (q : Nat) : State := s.onPart (qcbPart q) (fun p => { p with activeQ := p.activeQ.filter (· != q) })

/-- A step that cannot proceed (R318). -/
def State.blockQ (s : State) (q : Nat) : State := (s.setQState q 2).turnOver q

/-- A step is done and STEP moves on, in one unit (R318). -/
def State.stepQ (s : State) (q : Nat) : State := ((s.setStep q ((s.queue q).step + 1)).setQState q 1).turnOver q

/-- The last step is done: RD moves on, STEP returns to 0; a queue with no further packet is idle (R314, R318). -/
def State.retireQ (s : State) (q : Nat) : State :=
  let x := s.queue q
  let rd := (x.rd + 1) % 2 ^ 32
  let s1 := (s.setRd q rd).setStep q 0
  if rd == x.wr then (s1.setQState q 0).deactivate q else (s1.setQState q 1).turnOver q

/-- The queue halts (R317, R319). -/
def State.haltQ (s : State) (q : Nat) : State := (s.setQState q 3).deactivate q

/-- MSI-X vector 3 where a packet asks for it (R316). -/
def State.irqQ (s : State) (part : Nat) (irq : Bool) : State := if irq then s.emit (.msix part 3) else s

/-- What a signal write comes to. -/
inductive Signalled where
  | done | block | fail
deriving DecidableEq, Repr

/-- The signal write of a packet or launch: none with SIGADDR 0; the interrupt after it (R316, R317, R319). -/
def State.signal (s : State) (c : Context) (who : ElandWho) (addr value : Nat) (irq : Bool) : State × Signalled :=
  if addr == 0 then (s.irqQ c.part irq, .done)
  else
    match s.elandWrite c who addr value with
    | (s1, .ok _) => (s1.irqQ c.part irq, .done)
    | (s1, .block) => (s1, .block)
    | (s1, .fail va) => (s1.logEland c 8 va, .fail)

/-- Halt a queue, with a value for its packet's signal; where the signal's page is unmapped the queue waits first (R317, R319). -/
def State.haltWith (s : State) (c : Context) (q value : Nat) : State × Bool :=
  let n := s.packet q
  match s.signal c (q, 3, 0) (sigAddr n) value (bit n 9) with
  | (s1, .block) => (s1.blockQ q, false)
  | (s1, _) => (s1.haltQ q, true)

/-- A packet's step fails: the queue halts, with an entry (R319). -/
def State.failStep (s : State) (c : Context) (q va : Nat) : State :=
  match s.haltWith c q 0x80000000000000FE with
  | (s1, true) => s1.logEland c 8 va
  | (s1, false) => s1

/-- The last step of a packet has made its signal write, or failed to (R317, R319). -/
def State.signalledQ (s : State) (q : Nat) : Signalled → State
  | .done => s.retireQ q
  | .block => s.blockQ q
  | .fail => (s.retireQ q).haltQ q

/-- Take a step of a queue's packet: only one that the Eland may serve; a packet that FENCE holds back blocks, and a malformed
one halts the queue (R317, R318). -/
def State.servePkt (s : State) (q : Nat) (f : Context → Nat → Pkt → Option State) : Host.Outcome State Fault Refusal :=
  if !s.serves q then .refused .notEnabled
  else
    let c := s.ctxOf (s.queue q).ctx
    let n := s.packet q
    if s.fenced q then .next (s.blockQ q)
    else
      match pktOf n with
      | .bad => .next (s.haltWith c q 0x80000000000000FF).1
      | p => match f c n p with | some s1 => .next s1 | none => .refused .notEnabled

/-- PKT_WRITE: VALUE is stored, a release at SYSTEM scope (R317). -/
def execPktWrite (q : Nat) (s : State) : Host.Outcome State Fault Refusal :=
  s.servePkt q (fun c _ p =>
    match p, (s.queue q).step with
    | .write addr value, 0 =>
      (match s.elandWrite c (q, 0, 0) addr value with
       | (s1, .ok _) => some (s1.stepQ q)
       | (s1, .block) => some (s1.blockQ q)
       | (s1, .fail va) => some (s1.failStep c q va))
    | _, _ => none)

/-- The condition of a WAIT packet (R317). -/
def waitHolds (cond word value : Nat) : Bool :=
  match cond with | 0 => decide (value ≤ word) | 1 => word == value | _ => word != value

/-- PKT_WAIT: an acquire load at SYSTEM scope; the queue is blocked while COND is false (R317). -/
def execPktWait (q : Nat) (s : State) : Host.Outcome State Fault Refusal :=
  s.servePkt q (fun c _ p =>
    match p, (s.queue q).step with
    | .wait addr value cond, 0 =>
      (match s.elandRead c (q, 0, 0) addr 8 8 with
       | (s1, .ok l) => some (if waitHolds cond (leNat l) value then s1.stepQ q else s1.blockQ q)
       | (s1, .block) => some (s1.blockQ q)
       | (s1, .fail va) => some (s1.failStep c q va))
    | _, _ => none)

/-- PKT_SIGNAL_WRITE: the signal step; the packet retires (R316, R317). -/
def execPktSignalWrite (q : Nat) (s : State) : Host.Outcome State Fault Refusal :=
  s.servePkt q (fun c n p =>
    let go := let (s1, r) := s.signal c (q, 0, 0) (sigAddr n) (sigVal n) (bit n 9); some (s1.signalledQ q r)
    match p, (s.queue q).step with
    | .signal, 0 => go
    | .write .., 1 => go
    | .wait .., 1 => go
    | _, _ => none)

/-! ### Image loads (R317) -/

/-- PKT_IMAGE_LOAD: the image is submitted to the Markhor (R317). -/
def execPktImageLoad (q : Nat) (s : State) : Host.Outcome State Fault Refusal :=
  s.servePkt q (fun c _ p =>
    match p, (s.queue q).step with
    | .imageLoad img dst len commit, 0 =>
      let (id, s1) := s.freshId
      let t : LoadTask := { id := id, qcb := q, ctx := c.ctx, img := BitVec.ofNat 64 img, len := len, dataDst := BitVec.ofNat 64 dst, commit := commit }
      some ({ s1 with loads := s1.loads ++ [t] }.stepQ q)
    | _, _ => none)

/-- IMAGE_LOAD_RESULT: blocked until the Markhor answers; then the result word is written and the packet retires (R317). -/
def execImageLoadResult (q : Nat) (s : State) : Host.Outcome State Fault Refusal :=
  s.servePkt q (fun c n p =>
    match p, (s.queue q).step with
    | .imageLoad .., 1 =>
      (match s.loads.find? (fun t => t.qcb == q) with
       | none => none
       | some t =>
         match t.answer with
         | none => some (s.blockQ q)
         | some w =>
           let (s1, r) := s.signal c (q, 0, 0) (sigAddr n) w.toNat (bit n 9)
           let s2 := match r with | .block => s1 | _ => { s1 with loads := s1.loads.filter (fun x => x.id != t.id) }
           some (s2.signalledQ q r))
    | _, _ => none)

end Sys2Proof.Machine
end

