-- ==== Sys2Proof/Machine/Elementary.lean ====
section
/-! DEFINITION. exp2, log2, sin, cos, tanh and erf, correctly rounded from enclosures in fixed point (R254, R255; log entry 8). -/

namespace Sys2Proof.Machine

/-- Fraction bits of the fixed point. -/
abbrev fxBits : Nat := 1600
/-- One in fixed point. -/
abbrev fxOne : Int := 2 ^ fxBits
/-- Half the width of an enclosure in fixed point. -/
abbrev fxErr : Int := 2 ^ 700

/-- A product in fixed point. -/
def fxMul (a b : Int) : Int := a * b / fxOne

/-- A dyadic value m × 2^e as fixed point with `extra` more fraction bits. -/
def fxOf (m : Nat) (e : Int) (extra : Nat) : Int := (m : Int) * 2 ^ (e + fxBits + extra).toNat

/-- Σ ± one / ((2j + 1) n^(2j + 1)): atan (alternating) or atanh of 1/n. -/
def fxInvAtan (n : Nat) (alt : Bool) : Nat → Nat → Int → Int → Int
  | 0, _, _, acc => acc
  | fuel + 1, j, pw, acc =>
    let t := pw / (2 * j + 1 : Nat)
    fxInvAtan n alt fuel (j + 1) (pw / (n * n : Nat)) (if alt && j % 2 == 1 then acc - t else acc + t)

/-- π with 200 more fraction bits (Machin). -/
def fxPi : Int :=
  let one : Int := 2 ^ (fxBits + 200)
  16 * fxInvAtan 5 true 400 0 (one / 5) 0 - 4 * fxInvAtan 239 true 130 0 (one / 239) 0

/-- ln 2 = 2 atanh(1/3). -/
def fxLn2 : Int := 2 * fxInvAtan 3 false 520 0 (fxOne / 3) 0

/-- Σ y^n / n! from a term on. -/
def fxExpFrom (y : Int) : Nat → Nat → Int → Int → Int
  | 0, _, _, acc => acc
  | fuel + 1, n, t, acc => fxExpFrom y fuel (n + 1) (fxMul t y / (n : Int)) (acc + t)

/-- e^y for |y| at most 1. -/
def fxExp (y : Int) : Int := fxExpFrom y 260 1 fxOne 0

/-- Σ (−r²)^j r^b / (2j + b)!: the series of sin (b = 1) and cos (b = 0). -/
def fxTrigFrom (r2 : Int) : Nat → Nat → Int → Int → Int
  | 0, _, _, acc => acc
  | fuel + 1, n, t, acc => fxTrigFrom r2 fuel (n + 2) (-(fxMul t r2) / ((n + 1) * (n + 2) : Nat)) (acc + t)

/-- Σ z^(2j + 1) / (2j + 1) for |z| below 1/5. -/
def fxAtanhFrom (z2 : Int) : Nat → Nat → Int → Int → Int
  | 0, _, _, acc => acc
  | fuel + 1, j, pw, acc => fxAtanhFrom z2 fuel (j + 1) (fxMul pw z2) (acc + pw / (2 * j + 1 : Nat))

/-- Σ (2 x²)^j x / (2j + 1)!!. -/
def fxErfFrom (x2 : Int) : Nat → Nat → Int → Int → Int
  | 0, _, _, acc => acc
  | fuel + 1, j, t, acc => fxErfFrom x2 fuel (j + 1) (2 * fxMul t x2 / (2 * j + 3 : Nat)) (acc + t)

/-- An approximation with its enclosure: v × 2^e, within fxErr × 2^e. -/
structure Enclosed where
  v : Int
  e : Int

/-- Round both ends of an enclosure; where they differ the last bit is undecided (log entry 8). -/
def Enclosed.round (x : Enclosed) (f : FloatFmt) (md : Rnd) (pick : Bool) : Nat :=
  let lo := x.v - fxErr
  let hi := x.v + fxErr
  let a := toF f md (.fin (decide (lo < 0)) lo.natAbs x.e false)
  let b := toF f md (.fin (decide (hi < 0)) hi.natAbs x.e false)
  if a == b then a else if pick then a else b

/-- 2^x for x = ±m × 2^e, not an integer. -/
def encExp2 (n : Bool) (m : Nat) (e : Int) : Enclosed :=
  let fl := roundInt .rd n m e
  let k : Int := if fl < -4000 then -4000 else if 4000 < fl then 4000 else fl
  let x := if n then -(fxOf m e 0) else fxOf m e 0
  let fr := if fl < -4000 || 4000 < fl then fxOne / 2 else x - fl * fxOne
  ⟨fxExp (fxMul fr fxLn2), k - fxBits⟩

/-- log₂ of m × 2^e, not a power of two. -/
def encLog2 (m : Nat) (e : Int) : Enclosed :=
  let b := Nat.log2 m
  let z : Int := (m : Int) * 2 ^ (fxBits - b)
  let (z, n) := if 2 * z > 3 * fxOne then (z / 2, e + b + 1) else (z, e + b)
  let q := (z - fxOne) * fxOne / (z + fxOne)
  let ln := 2 * fxAtanhFrom (fxMul q q) 400 0 q 0
  ⟨n * fxOne + ln * fxOne / fxLn2, -fxBits⟩

/-- The quadrant of m × 2^e and the rest in [0, π/2). -/
def fxReduce (m : Nat) (e : Int) : Int × Int :=
  let x := fxOf m e 200
  let k := x * 2 / fxPi
  (k, (x - k * fxPi / 2) / 2 ^ 200)

/-- sin (c = 0) or cos (c = 1) of m × 2^e, not zero. -/
def encTrig (c : Int) (m : Nat) (e : Int) : Enclosed :=
  let (k, r) := fxReduce m e
  let q := (k + c) % 4
  let r2 := fxMul r r
  let v := if q % 2 = 0 then fxTrigFrom r2 170 1 r 0 else fxTrigFrom r2 170 0 fxOne 0
  ⟨if q < 2 then v else -v, -fxBits⟩

/-- A value just below one. -/
def belowOne : Enclosed := ⟨fxOne - 2 * fxErr, -fxBits⟩

/-- tanh of m × 2^e, positive: (e^2x − 1) / (e^2x + 1). -/
def encTanh (m : Nat) (e : Int) : Enclosed :=
  if 200 < roundInt .rz false m e then belowOne
  else
    let y := 2 * fxOf m e 0
    let n := y / fxLn2
    let ex := fxExp (y - n * fxLn2) * 2 ^ n.toNat
    ⟨(ex - fxOne) * fxOne / (ex + fxOne), -fxBits⟩

/-- e^−y for y ≥ 0. -/
def fxExpNeg (y : Int) : Int :=
  let n := y / fxLn2
  (fxOne * fxOne / fxExp (y - n * fxLn2)) / 2 ^ n.toNat

/-- erf of m × 2^e, positive. -/
def encErf (m : Nat) (e : Int) : Enclosed :=
  if 19 ≤ roundInt .rz false m e then belowOne
  else
    let x := fxOf m e 0
    let x2 := fxMul x x
    let sum := fxErfFrom x2 2300 0 x 0
    let rootPi : Int := isqrt ((fxPi / 2 ^ 200).toNat * 2 ^ fxBits)
    ⟨2 * fxMul sum (fxExpNeg x2) * fxOne / rootPi, -fxBits⟩

/-- The negative of an approximation. -/
def Enclosed.neg (x : Enclosed) (n : Bool) : Enclosed := if n then ⟨-x.v, x.e⟩ else x

/-- The six functions. -/
inductive ElemFn where
  | exp2 | log2 | sin | cos | tanh | erf
deriving DecidableEq, Repr

/-- A power of two by its exponent, if m × 2^e is one. -/
def powTwo (m : Nat) (e : Int) : Option Int := if 2 ^ Nat.log2 m = m then some (e + Nat.log2 m) else none

/-- A function on a code: the special inputs of R255 and the exact results first, then the enclosure. -/
def elemFn (fn : ElemFn) (ty : Nat) (f : FloatFmt) (md : Rnd) (a : Nat) : Nat :=
  let one := toF f .rne (xint 1)
  let nan := f.nan.getD 0
  let infp := f.inf.getD 0
  let no : Nat := match fn with | .exp2 => 0 | .log2 => 1 | .sin => 2 | .cos => 3 | .tanh => 4 | .erf => 5
  let fin := fun (x : Enclosed) => x.round f md (Config.undecided no ty a)
  match decodeF f a with
  | .nan => nan
  | .inf n =>
    (match fn with
     | .exp2 => if n then 0 else infp
     | .log2 => if n then nan else infp
     | .sin | .cos => nan
     | .tanh | .erf => if n then signCode f true one else one)
  | .fin n m e _ =>
    if m = 0 then
      (match fn with
       | .exp2 | .cos => one
       | .log2 => signCode f true infp
       | .sin | .tanh | .erf => a)
    else
      match fn with
      | .exp2 =>
        let fl := roundInt .rd n m e
        if fl == roundInt .ru n m e && -4000 ≤ fl && fl ≤ 4000 then toF f md (.fin false 1 fl false)
        else fin (encExp2 n m e)
      | .log2 =>
        if n then nan
        else
          (match powTwo m e with
           | some k => toF f md (xint k)
           | none => fin (encLog2 m e))
      | .sin => fin ((encTrig 0 m e).neg n)
      | .cos => fin (encTrig 1 m e)
      | .tanh => fin ((encTanh m e).neg n)
      | .erf => fin ((encErf m e).neg n)

/-- exp2 (R254): long-latency. -/
def execExp2 (o : Ops) (s : State) : Host.Outcome State Fault Refusal :=
  runFloatLong (.exp2 o) 0x183 o (fun f md a _ _ => elemFn .exp2 o.t.val f md a) s
/-- log2 (R254): long-latency. -/
def execLog2 (o : Ops) (s : State) : Host.Outcome State Fault Refusal :=
  runFloatLong (.log2 o) 0x184 o (fun f md a _ _ => elemFn .log2 o.t.val f md a) s
/-- sin (R254): long-latency. -/
def execSin (o : Ops) (s : State) : Host.Outcome State Fault Refusal :=
  runFloatLong (.sin o) 0x185 o (fun f md a _ _ => elemFn .sin o.t.val f md a) s
/-- cos (R254): long-latency. -/
def execCos (o : Ops) (s : State) : Host.Outcome State Fault Refusal :=
  runFloatLong (.cos o) 0x186 o (fun f md a _ _ => elemFn .cos o.t.val f md a) s
/-- tanh (R254): long-latency. -/
def execTanh (o : Ops) (s : State) : Host.Outcome State Fault Refusal :=
  runFloatLong (.tanh o) 0x187 o (fun f md a _ _ => elemFn .tanh o.t.val f md a) s
/-- erf (R254): long-latency. -/
def execErf (o : Ops) (s : State) : Host.Outcome State Fault Refusal :=
  runFloatLong (.erf o) 0x188 o (fun f md a _ _ => elemFn .erf o.t.val f md a) s

end Sys2Proof.Machine
end

