-- ==== Sys2Proof/Machine/Launches.lean ====
section
/-! DEFINITION. Launches: the record and its checks, the packets LAUNCH and RESUME, launches across chips, a launch's end
(R85, R98, R104, R147, R320 to R323, R325). -/

namespace Sys2Proof.Machine

/-! ### The launch record (R320) -/

/-- Level i of a record. -/
def recLevel (r i : Nat) : Nat := bits r (768 + 32 * i) 32
/-- H of a record. -/
def recH (r : Nat) : Nat := bits r 48 8
/-- PGT of a record. -/
def recPgt (r : Nat) : Nat := bits r 640 64
/-- Z of a record in bytes. -/
def recZ (r : Nat) : Nat := 4096 * bits r 56 8

/-- The levels of a record. -/
def recLevels (r : Nat) : List LevelDecl :=
  (List.range (recH r)).map (fun i => let l := recLevel r i; { extent := bits l 0 16 + 1, domain := bits l 16 3, gang := bit l 19 })

/-- Domains rise strictly from level 0 upward (R83). -/
def domainsRise : List LevelDecl → Bool
  | a :: b :: l => decide (a.domain < b.domain) && domainsRise (b :: l)
  | _ => true

/-- Code 0x01 RECORD of R321. -/
def recBad (r : Nat) : Bool :=
  let ls := recLevels r
  bits r 1536 512 != 0 || bits r 608 32 != 0 || bits r 104 24 != 0 ||
    recH r == 0 || decide (8 < recH r) || bits r 56 8 == 0 || decide (192 < bits r 56 8) || bits r 64 16 == 0 ||
    (List.range 8).any (fun i => if i < recH r then bits (recLevel r i) 20 12 != 0 else recLevel r i != 0) ||
    ls.any (fun l => l.domain == 7) || !domainsRise ls ||
    bits r 384 64 % 64 != 0 || bits r 448 64 % 64 != 0 || bits r 704 64 % 4096 != 0 ||
    (ls.any (fun l => l.domain == 6) && recPgt r == 0)

/-- Slot n of a launch: the image's template unless the record overrides it (R320). -/
def recSlot (img : Image) (r n : Nat) : DWord :=
  match img.slots.find? (fun x => x.1 == n) with
  | some (_, d) => if bit r (80 + n) then BitVec.ofNat 64 (bits r (1024 + 64 * n) 64) else d
  | none => BitVec.ofNat 64 (bits r (1024 + 64 * n) 64)

/-! ### Launches across chips (R325) -/

/-- What a launch's process-group table gives this chip. -/
inductive Share where
  | whole
  | share (first count rank : Nat)
  | bad
deriving DecidableEq, Repr

/-- Read a process-group table's entries (R325): the chip's own, whose neighbours can be reached. -/
def State.shareOf (s : State) (extent : Nat) (es : List Nat) : Share :=
  match es.find? (fun e => bits e 0 32 == s.pkg.fabid.toNat) with
  | none => .bad
  | some e =>
    let count := bits e 224 32
    let first := bits e 192 32
    let near := ((List.range 8).map (fun i => bits e (64 + 16 * i) 16)).filter (· != 0xFFFF)
    let down := near.any (fun r => es.any (fun x => bits x 32 16 == r && s.unreachable (bits x 0 32)))
    if bits e 48 16 != 0 || count == 0 || decide (extent < first + count) || s.pkg.fabid == 0xFFFFFFFF || down then .bad
    else .share first count (bits e 32 16)

/-- The share of a launch: its table is read as the Eland reads (R319, R325). -/
def State.readShare (s : State) (c : Context) (who : ElandWho) (r : Nat) : State × Got × Share :=
  let ls := recLevels r
  if recPgt r == 0 then (s, .ok [], .whole)
  else
    match ls.getLast? with
    | some top =>
      if top.domain != 6 || top.gang || s.pkg.fabid == 0xFFFFFFFF then (s, .ok [], .bad)
      else
        (match s.elandRead c who (recPgt r) 8 1 with
         | (s1, .ok h) =>
           let n := leNat h
           if n == 0 || decide (4096 < n) then (s1, .ok [], .bad)
           else
             (match s1.elandRead c who (recPgt r + 8) (32 * n) 1 with
              | (s2, .ok l) => (s2, .ok [], s2.shareOf top.extent ((List.range n).map (fun i => leNat ((l.drop (32 * i)).take 32))))
              | (s2, g) => (s2, g, .bad))
         | (s1, g) => (s1, g, .bad))
    | none => (s, .ok [], .bad)

/-- The levels as this chip runs them: the top level's extent is the chip's share (R325). Where the table gives the chip none, the rows of R321
before PGT are judged for one unit, the least share there is: DESIGN CHOICE (R389; log entry 103). -/
def localLevels (ls : List LevelDecl) (sh : Share) : List LevelDecl :=
  let cut := fun n => ls.dropLast ++ (match ls.getLast? with | some t => [if t.domain == 6 then { t with extent := n } else t] | none => [])
  match sh with
  | .share _ count _ => cut count
  | .bad => cut 1
  | .whole => ls

/-! ### The checks of R321 -/

/-- A launch as a record gives it, its blocks still to come. -/
def launchOf (r : Nat) (img : Image) (c : Context) (q id : Nat) (sh : Share) (sig val : Nat) (irq : Bool) : Launch :=
  let ls := localLevels (recLevels r) sh
  let (first, rank, top) := match sh with
    | .share f _ k => (f, k, ((recLevels r).getLast?.map (fun (d : LevelDecl) => d.extent)).getD 0)
    | _ => (0, 0, 0)
  { id := id, ctx := c.ctx, part := c.part, qcb := q, image := img.handle, entry := bits r 32 16, levels := ls, z := recZ r, age := bits r 64 16,
    a := BitVec.ofNat 64 (bits r 128 64), s := bits r 192 32, p := bits r 224 32, td := bits r 88 16, m := bits r 256 64,
    argblk := BitVec.ofNat 64 (bits r 320 64), ra := BitVec.ofNat 64 (bits r 384 64), bsa := BitVec.ofNat 64 (bits r 448 64),
    sra := BitVec.ofNat 64 (bits r 704 64), slots := (List.range 8).map (recSlot img r), rank := rank, first := first, top := top,
    threads := ls.foldl (fun n (d : LevelDecl) => n * d.extent) 1, blocks := [], sigAddr := BitVec.ofNat 64 sig, sigVal := BitVec.ofNat 64 val, irq := irq }

/-- Cores of a partition (R304). -/
def State.partCores (s : State) : Nat := s.stacksPerPart * Config.coresPerCluster

/-- A limit of R85 other than the stack count is broken. -/
def State.limitBad (s : State) (l : Launch) : Bool :=
  decide (2048 < l.blockSize) ||
    (List.range l.levels.length).any (fun i =>
      match l.levels[i]? with
      | none => false
      | some d =>
        let n := l.blocksIn i
        (d.domain == 0 && decide (32 < l.unitSize i)) || (d.domain == 2 && decide (2 < n)) ||
          (d.domain == 3 && decide (128 < n)) || (d.domain == 4 && decide (256 < n)) ||
          (decide (2 ≤ d.domain) && decide (d.domain ≤ 4) && decide (s.partCores < n)) ||
          (d.gang && decide (l.blockLevel ≤ i) && decide (s.partCores < n)))

/-- The stack parameters fail R75, or the stack count is below the thread count (R85, R96). -/
def stackBad (l : Launch) : Bool :=
  l.a.toNat % 32 != 0 || l.s % 32 != 0 || decide (l.s < 64) || decide (l.s < 64 + 32 * l.td) ||
    l.p % 32 != 0 || decide (l.s < l.p + 32 + 32 * l.td) || decide (l.m < l.threads)

/-- A keep range of the image passes Z (R98). -/
def keepBad (img : Image) (z : Nat) : Bool := img.safes.any (fun e => e.keep.any (fun k => decide (z < k.1 + k.2)))

/-- The first failing row of R321 from 0x02 on, once the share is known; 0 where none fails. -/
def State.launchCode (s : State) (l : Launch) (img : Image) (sh : Share) : Nat :=
  if l.slots.any (fun d => !slotOk d) then 3
  else if s.limitBad l then 4
  else if stackBad l then 5
  else if keepBad img l.z then 6
  else if sh == .bad then 7
  else 0

/-! ### Making a launch (R104, R321, R322) -/

/-- What step 0 of LAUNCH or RESUME comes to. -/
inductive Made where
  | block
  | refuse (code addr : Nat)
  | launch (l : Launch) (rejected : List (Nat × Nat))

/-- Continuation records of a pool, 576 bytes apart (R99, R100, R104): by block, with those rejected (address and path). -/
def State.readPool (s : State) (c : Context) (who : ElandWho) (img : Image) : Nat → Nat → State × Got × List (Nat × ContRec) × List (Nat × Nat)
  | 0, _ => (s, .ok [], [], [])
  | n + 1, a =>
    match s.elandRead c who a 64 64 with
    | (s1, .ok b) =>
      let (s2, g, rs, bad) := State.readPool s1 c who img n (a + 576)
      (match s1.contRec img a b with
       | (k, .ok r) => (s2, g, (k, r) :: rs, bad)
       | (_, .error p) => (s2, g, rs, (a, p) :: bad))
    | (s1, g) => (s1, g, [], [])

/-- The blocks of a resumed launch, in increasing index, each with its records in pool order (R104). -/
def poolBlocks (rs : List (Nat × ContRec)) : List BlockRec :=
  ((rs.map Prod.fst).foldl setInsert []).map (fun k => { index := k, at_ := .waiting, records := (rs.filter (fun x => x.1 == k)).map Prod.snd })

/-- One past the greatest child number of the records of a cluster's ring from a position on, and of those before it (R95); none while one of them
cannot be reached (R369, R376). -/
def State.ringNext (s : State) (c : Context) (l : Launch) (k : Nat) : Nat → Nat → Nat → State × Option Nat
  | 0, _, acc => (s, some acc)
  | n + 1, pos, acc =>
    match s.gmRead (elandCl c.part) 0 c c.prot (ringRecord l k pos) 64 with
    | (s1, .ok (b, false)) => State.ringNext s1 c l k n (pos + 1) (max ((ringFields b).1 + 1) acc)
    | (s1, .error (.unreachable _)) => (s1, none)
    | (s1, _) => State.ringNext s1 c l k n (pos + 1) acc

/-- One past the greatest child number that the rings of a launch hold in some clusters (R95); a ring or record that has no page, is poisoned or
whose tag does not match counts for none. None while one of them cannot be reached (R369, R376). -/
def State.ringChild (s : State) (c : Context) (l : Launch) : List Nat → Nat → State × Option Nat
  | [], acc => (s, some acc)
  | k :: ks, acc =>
    match s.gmRead (elandCl c.part) 0 c c.prot (l.sra.toNat + 0x41000 * k) 8 with
    | (s1, .ok (b, false)) =>
      let head := bits (leNat b) 32 32
      (match s1.ringNext c l k (min 4096 ((bits (leNat b) 0 32 + 2 ^ 32 - head) % 2 ^ 32)) head acc with
       | (s2, some x) => State.ringChild s2 c l ks x
       | (s2, none) => (s2, none))
    | (s1, .error (.unreachable _)) => (s1, none)
    | (s1, _) => State.ringChild s1 c l ks acc

/-- The first child number of a resumed launch. The spec gives none: the model takes the first above those of its records and of its rings, so
that no stack number of the saved launch is used again (R96): DESIGN CHOICE (log entry 87). -/
def State.firstChild (s : State) (c : Context) (l : Launch) (rs : List (Nat × ContRec)) : State × Option Nat :=
  s.ringChild c l (if l.sra == 0 then [] else List.range' (c.part * s.stacksPerPart) s.stacksPerPart) ((rs.map (fun x => x.2.stack + 1 - l.threads)).foldl max 0)

/-- Step 0 of LAUNCH and RESUME: read the record, check it, and make the launch (R104, R320 to R322). -/
def State.makeLaunch (s : State) (c : Context) (q n record : Nat) (pool : Option (Nat × Nat)) : State × Made :=
  let who : ElandWho := (q, 0, 0)
  match s.elandRead c who record 256 64 with
  | (s1, .block) => (s1, .block)
  | (s1, .fail va) => (s1, .refuse 8 va)
  | (s1, .ok b) =>
    let r := leNat b
    if recBad r then (s1, .refuse 1 record)
    else
      match (s1.image? (bits r 0 32)).filter (fun i => i.ctx == c.ctx && (i.proc? (bits r 32 16)).isSome) with
      | none => (s1, .refuse 2 record)
      | some img =>
        match s1.readShare c who r with
        | (s2, .block, _) => (s2, .block)
        | (s2, g, sh) =>
          let (id, s3) := s2.freshId
          let l := launchOf r img c q id sh (sigAddr n) (sigVal n) (bit n 9)
          let fresh : Launch := { l with blocks := (List.range (l.threads / l.blockSize)).map (fun k => { index := k, at_ := .waiting }) }
          match s3.launchCode l img (match g with | .fail _ => .whole | _ => sh), g with
          | 0, .fail va => (s3, .refuse 8 va)
          | 0, _ =>
            let (from_, count) := pool.getD (bits r 512 64, bits r 576 32)
            if pool.isNone && count == 0 then (s3, .launch fresh [])
            else
              (match s3.readPool c who img count from_ with
               | (s4, .block, _, _) => (s4, .block)
               | (s4, .fail va, _, _) => (s4, .refuse 8 va)
               | (s4, .ok _, rs, bad) =>
                 match s4.firstChild c l rs with
                 | (s5, none) => (s5, .block)
                 | (s5, some next) =>
                   let old := (c.barriers.find? (fun x => x.1 == l.ra.toNat)).elim [] Prod.snd
                   (s5, .launch { l with resumed := true, blocks := poolBlocks rs, barriers := old, nextChild := next } bad))
          | code, _ => (s3, .refuse code record)

/-- A launch is refused: its signal receives the code, the record logs it, and the packet retires (R319, R321). -/
def State.refuseLaunch (s : State) (c : Context) (q code addr : Nat) : State :=
  let n := s.packet q
  match s.signal c (q, 3, 0) (sigAddr n) (2 ^ 63 + code) (bit n 9) with
  | (s1, .block) => s1.blockQ q
  | (s1, r) => (s1.logEland c code addr).signalledQ q r

/-- Step 0 of LAUNCH and RESUME (R317, R321, R323): the packet retires once the launch is made or refused. -/
def State.launchStep (s : State) (c : Context) (q n record : Nat) (pool : Option (Nat × Nat)) : State :=
  match s.makeLaunch c q n record pool with
  | (s1, .block) => s1.blockQ q
  | (s1, .refuse code addr) => s1.refuseLaunch c q code addr
  | (s1, .launch l bad) =>
    let s2 := bad.foldl (fun (st : State) x => st.logCtx (elandCl c.part) 0 c.ctx { kind := 5, cause := 0x16D, path := x.2, addr := x.1 }) s1
    { s2 with launches := s2.launches ++ [l] }.retireQ q

/-- PKT_LAUNCH (R317, R321, R322). -/
def execPktLaunch (q : Nat) (s : State) : Host.Outcome State Fault Refusal :=
  s.servePkt q (fun c n p => match p with | .launch record => some (s.launchStep c q n record none) | _ => none)

/-- PKT_RESUME: as LAUNCH, with the packet's pool in place of the record's (R104, R317). -/
def execPktResume (q : Nat) (s : State) : Host.Outcome State Fault Refusal :=
  s.servePkt q (fun c n p => match p with | .resume record pool count => some (s.launchStep c q n record (some (pool, count))) | _ => none)

/-! ### LAUNCH_END (R323) -/

/-- Every thread of a launch has ended or parked, every block is saved or ended, and its engine commands have completed; its
accesses have been performed before its signal (R323). Children in its rings are threads too: the last block of a cluster ends only once they
have been taken, where no save holds them (R94, R95). -/
def State.launchDone (s : State) (l : Launch) : Bool :=
  l.blocks.all (fun b => b.at_ == .saved || b.at_ == .ended) && !s.cmds.any (fun x => x.launch == l.id) && !s.accs.any (fun a => a.launch == l.id)

/-- What the barrier area keeps of a launch that ends: the barriers above the block of one with saved blocks (R89). -/
def State.keepBarriers (s : State) (l : Launch) : State :=
  s.onCtx l.ctx (fun c =>
    let rest := c.barriers.filter (fun x => x.1 != l.ra.toNat)
    { c with barriers := if l.blocks.any (fun b => b.at_ == .saved) then rest ++ [(l.ra.toNat, l.barriers)] else rest })

/-- LAUNCH_END: the launch ends and its signal is written; where the signal's page is unmapped the write waits (R319, R323). -/
def execLaunchEnd (id : Nat) (s : State) : Host.Outcome State Fault Refusal :=
  match s.launch? id with
  | none => .refused .notEnabled
  | some l =>
    if !s.launchDone l then .refused .notEnabled
    else
      let c := s.ctxOf l.ctx
      let gone := fun (st : State) => { st.keepBarriers l with launches := st.launches.filter (fun x => x.id != id) }
      match s.signal c (0, 1, id) l.sigAddr.toNat l.sigVal.toNat l.irq with
      | (s1, .done) => .next (gone s1)
      | (s1, .block) => .next (s1.onLaunch id (fun x => { x with ended := true }))
      | (s1, .fail) =>
        let s2 := gone s1
        .next (if (s2.part? l.part).any (fun p => p.queues.contains l.qcb) then s2.haltQ l.qcb else s2)

end Sys2Proof.Machine
end

