-- ==== Sys2Proof/Machine/Walks.lean ====
section
/-! DEFINITION. Walks as steps of their own, the fault ring and its answers, invalidation, and accesses from other chips
(R331 to R336). -/

namespace Sys2Proof.Machine

/-! ### TABLE_WALK (R331) -/

/-- An access of a kind may have its translation loaded: none is held, or one with D clear for a write (R331, R333). -/
def State.walkDue (s : State) (cl co ctx va : Nat) (acc : AccessKind) : Bool :=
  match s.tlbFind cl co ctx va with
  | none => true
  | some t => (acc == .write || acc == .atomic) && !bit t.leaf.toNat 52

/-- A leaf allows an access of a kind. -/
def Leaf.allows (l : Leaf) : AccessKind → Bool
  | .read => l.r
  | .write => l.w
  | .atomic => l.r && l.w
  | .fetch => l.x

/-- TABLE_WALK: a miss walks the tables; A is set, and D for a write that its leaf allows (R331). -/
def execTableWalk (cl co ctx va : Nat) (acc : AccessKind) (s : State) : Host.Outcome State Fault Refusal :=
  match s.ctx? ctx with
  | none => .refused .notEnabled
  | some c =>
    if !canonicalVa va || !s.walkDue cl co ctx (va % 2 ^ 57) acc then .refused .notEnabled
    else
      match s.translate cl co c va (acc == .write || acc == .atomic) with
      | (s1, .error _) => .next s1
      | (s1, .ok l) => .next (if (acc == .write || acc == .atomic) && l.allows acc then s1.markDirty cl co c va else s1)

/-! ### The fault ring (R333 to R335) -/

/-- Two stalls share a fault entry: one context and page of one cluster (R333, R334). -/
def Stall.joins (a b : Stall) : Bool := a.cl == b.cl && a.ctx == b.ctx && a.va / 4096 == b.va / 4096

/-- A stall whose entry is still to be written: no stall it joins has one (R333, R334). -/
def State.entryDue (s : State) (st : Stall) : Bool := !st.fail && !s.stalls.any (fun x => x.joins st && x.written)

/-- SRC of a stall (R334). -/
def Stall.srcCode (st : Stall) : Nat := if st.src == 0 && st.acc == .fetch then 1 else st.src

/-- ACC of an access (R106). -/
def accCode : AccessKind → Nat
  | .read => 0
  | .write => 1
  | .atomic => 2
  | .fetch => 3

/-- The 128 bits of a fault entry (R334). -/
def Stall.entry (st : Stall) : Nat :=
  st.va % 2 ^ 64 * 2 ^ 64 + st.ctx % 2 ^ 16 * 2 ^ 48 + (if st.src == 6 then 0xFF else st.cl % 256) * 2 ^ 40 + st.srcCode * 2 ^ 36 +
    accCode st.acc * 2 ^ 34 + 1

/-- The flat address of the ring's next place; none while it is full: the place still holds a FULL entry (R334). -/
def State.ringPlace (s : State) (part : Nat) : Option Nat :=
  match s.part? part with
  | none => none
  | some p =>
    match p.ringAddr with
    | none => none
    | some a =>
      let at_ := s.partBase part + a + 16 * (p.ringTail % 2 ^ p.ringK)
      if bit (s.mem.readLe at_ 1) 0 then none else some at_

/-- FAULT_ENTRY_WRITE: a fault entry is written to the partition's ring, and MSI-X vector 1 raised (R334). -/
def execFaultEntryWrite (id : Nat) (s : State) : Host.Outcome State Fault Refusal :=
  match s.stalls.find? (fun x => x.id == id) with
  | none => .refused .notEnabled
  | some st =>
    if !s.entryDue st then .refused .notEnabled
    else
      match s.ringPlace st.part with
      | none => .refused .notEnabled
      | some a =>
        let s1 := (s.storeLe a 16 st.entry).onPart st.part (fun p => { p with ringTail := (p.ringTail + 1) % 2 ^ p.ringK })
        let s2 : State := { s1 with stalls := mapIf (fun x => x.joins st) (fun x => { x with written := true }) s1.stalls }
        .next (s2.emit (.msix st.part 1))

/-- A stopped front goes on, or traps, when its stall is answered (R335). -/
def Front.answered (id : Nat) (dst : Option Stop) (f : Front) : Front := if f.stop == some (.stall id) then { f with stop := dst } else f

/-- The stop of a thread whose stall is answered FAIL (R334): class 4, for a fetch at its item (R209), and class 10 for a caller chunk (R82). -/
def Stall.failed (st : Stall) (t : Thread) (k : Nat) : Stop :=
  .trap (if st.saving then xferCause false (.translation true st.va) else 0x40 + accCode st.acc) k (BitVec.ofNat 64 st.va) (st.item.getD t.path)

/-- Answer a thread's stall: the access is made again, or faults as in trap mode (R334, R335). -/
def State.answerThread (s : State) (st : Stall) (fail : Bool) : State :=
  match st.who with
  | none => s
  | some (co, gs, k) =>
    let c := s.core st.cl co
    match c.group? gs with
    | none => s
    | some g =>
      let dst := if fail then (c.threadAt g k).map (fun t => st.failed t k) else none
      s.onGroup st.cl co gs (fun g => { g with fronts := g.fronts.map (Front.answered st.id dst) })

/-- Answer one stall (R335). -/
def State.answer (s : State) (st : Stall) (fail : Bool) : State :=
  match (if st.saving then 0 else st.src) with
  | 0 | 1 => (s.dropStall st.id).answerThread st fail
  | 2 =>
    let s1 := s.dropStall st.id
    (match fail, st.who with
     | true, some (co, _, x) =>
       (match (s1.core st.cl co).xfers.find? (fun y => y.id == x) with
        | some t => s1.xferFault st.cl co t { s1.ctxOf st.ctx with trapMode := true } (.translation true st.va)
        | none => s1)
     | _, _ => s1)
  | _ =>
    if s.cmds.any (fun c => c.stall == some st.id) then
      { s.dropStall st.id with cmds := mapIf (fun c => c.stall == some st.id) (fun c => let c1 : Cmd := { c with stall := none }; if fail then c1.failed st.va else { c1 with stuck := none }) s.cmds }
    else if fail then { s with stalls := mapIf (fun x => x.id == st.id) (fun x => { x with fail := true }) s.stalls }
    else s.dropStall st.id

/-- The fields of a write to 0x800 or 0x808 (R335, R336): the page's first byte, the context, bit 0. -/
def pageWrite (v : DWord) : Nat × Nat × Bool := (bits v.toNat 19 45 * 4096, bits v.toNat 3 16, v.getLsbD 0)

/-- FAULT_RESPONSE: every access of the context that is stalled on the page is made again, or completes as in trap mode; a write
that names no stalled page has no effect (R335). -/
def execFaultResponse (part : Nat) (v : DWord) (s : State) : Host.Outcome State Fault Refusal :=
  let (va, ctx, fail) := pageWrite v
  let l := s.stalls.filter (fun x => x.part == part && x.ctx == ctx && x.va % 2 ^ 57 / 4096 == va / 4096 && !x.fail)
  .next (l.foldl (fun st x => st.answer x fail) s)

/-! ### Invalidation (R336) -/

/-- A held translation covers a page of a context, or any page where ALL is set. -/
def TlbEntry.named (t : TlbEntry) (ctx va : Nat) (all : Bool) : Bool := t.ctx == ctx && (all || (decide (t.va ≤ va) && decide (va < t.va + t.size)))

/-- A kept non-leaf entry covers a page of a context, or any page where ALL is set. -/
def WalkEntry.named (e : WalkEntry) (ctx va : Nat) (all : Bool) : Bool := e.ctx == ctx && (all || e.va == walkKey e.level va)

/-- INVALIDATION_REQUEST: the partition's translations and kept non-leaf entries of the page, or of the context, are dropped (R336). -/
def execInvalidationRequest (part : Nat) (v : DWord) (s : State) : Host.Outcome State Fault Refusal :=
  let (va, ctx, all) := pageWrite v
  match s.part? part with
  | none => .refused .notEnabled
  | some _ =>
    let mine := (s.ctx? ctx).any (fun c => c.part == part)
    let (id, s1) := s.freshId
    let gone := fun (t : TlbEntry) => mine && t.named ctx va all
    let ranges := ((s1.tlb.filter gone).map (fun (t : TlbEntry) => (t.va, t.size)) ++ [(va, 4096)]).eraseDups
    let s2 : State := { s1 with tlb := s1.tlb.filter (fun t => !gone t), walks := s1.walks.filter (fun e => !(mine && e.named ctx va all)) }
    .next (s2.onPart part (fun p => { p with invPending := p.invPending ++ [⟨v, id, ranges⟩] }))

/-- An access issued before a request that may have used a dropped translation and is not yet performed: of a dropped page of any size, it may
lie anywhere on it. -/
def Access.uses (a : Access) (x : InvRequest) : Bool :=
  let (_, ctx, all) := pageWrite x.req
  decide (a.id < x.before) && a.ctx == ctx && a.space == .gm && a.real &&
    (all || x.dropped.any (fun (va, n) => decide (a.ea.toNat % 2 ^ 57 < va + n) && decide (va < a.ea.toNat % 2 ^ 57 + a.width)))

/-- The oldest invalidation request of a partition is complete (R336). -/
def State.invDone (s : State) (p : Partition) : Bool :=
  match p.invPending with
  | [] => false
  | x :: _ => !s.accs.any (fun a => a.uses x) && !s.cmds.any (fun m => m.ctx == (pageWrite x.req).2.1 && !m.early.isEmpty)

/-- INVALIDATION_COMPLETE: every access that used a dropped translation has been performed, and what commands have acknowledged has landed;
INVSEQ increases (R336). -/
def execInvalidationComplete (part : Nat) (s : State) : Host.Outcome State Fault Refusal :=
  match s.part? part with
  | none => .refused .notEnabled
  | some p =>
    if s.invDone p then .next (s.onPart part (fun p => { p with invPending := p.invPending.drop 1, invSeq := (p.invSeq + 1) % 2 ^ 32 }))
    else .refused .notEnabled

/-! ### PEER_ACCESS (R332) -/

/-- PEER_ACCESS: an access from another chip to the partition's export window, or its refusal (R332). -/
def execPeerAccess (part off len : Nat) (acc : PeerOp) (s : State) : Host.Outcome State Fault Refusal :=
  match s.part? part with
  | none => .refused .notEnabled
  | some p =>
    if p.exportLen * 4096 < off + len then .next (s.emit (.peerRefused off))
    else
      let a := s.partBase part + p.exportBase * 4096 + off
      match acc with
      | .load => .next (s.emit (.peer off (s.mem.readBytes a len) (s.poisoned a len)))
      | .store data => .next ((s.store a (data.take len)).releasesOutside.emit (.peer off [] false))
      | .update op b c =>
        if s.poisoned a len then .next (s.emit (.peer off (s.mem.readBytes a len) true))
        else
          let s1 := s.emit (.peer off (s.mem.readBytes a len) false)
          match atomNew op (8 * len) (s.mem.readLe a len) b.toNat c.toNat with
          | some x => .next (s1.storeLe a len x).releasesOutside
          | none => .next s1

/-! ### What may happen next -/

/-- A queue's next step as a step of the machine. -/
def State.pktStep (s : State) (q : Nat) : Instr :=
  match pktOf (s.packet q), (s.queue q).step with
  | .launch _, _ => .pktLaunch q
  | .resume .., _ => .pktResume q
  | .write .., 0 => .pktWrite q
  | .wait .., 0 => .pktWait q
  | .imageLoad .., 0 => .pktImageLoad q
  | .imageLoad .., _ => .imageLoadResult q
  | .bad, _ => .pktWrite q
  | _, _ => .pktSignalWrite q

/-- A stall of the Eland is unanswered. -/
def State.elandHeld (s : State) (who : ElandWho) : Bool := (s.elandWaits who).any (fun x => !x.fail)

/-- A step of a queue would do something (R318). -/
def State.pktReady (s : State) (q : Nat) : Bool :=
  let x := s.queue q
  if !s.serves q || s.elandHeld (q, 0, 0) || s.elandHeld (q, 3, 0) then false
  else if s.fenced q then x.state == 1
  else if x.state == 1 then true
  else
    match pktOf (s.packet q), x.step with
    | .wait addr value cond, 0 =>
      (match (s.elandRead (s.ctxOf x.ctx) (q, 0, 0) addr 8 8).2 with | .ok l => waitHolds cond (leNat l) value | _ => true)
    | .imageLoad .., 1 => s.loads.any (fun t => t.qcb == q && t.answer.isSome)
    | _, _ => true

/-- The steps of the Eland, of walks and of launches that may be taken: queues in round robin (R318). -/
def State.elandSteps (s : State) : List Instr :=
  (s.parts.filterMap (fun p => (p.activeQ.find? s.pktReady).map s.pktStep)) ++
    (s.loads.filter (fun t => t.answer.isNone && !s.elandHeld (t.qcb, 2, t.id))).map (fun t => .imageLoadVerify t.id) ++
    (s.launches.filter (fun l => s.launchDone l && !s.elandHeld (0, 1, l.id))).map (fun l => .launchEnd l.id) ++
    (s.stalls.filter (fun x => s.entryDue x && (s.ringPlace x.part).isSome)).map (fun x => .faultEntryWrite x.id) ++
    (s.parts.filter s.invDone).map (fun p => .invalidationComplete p.idx)

end Sys2Proof.Machine
end

