-- ==== Sys2Proof/Machine/Slices.lean ====
section
/-! DEFINITION. Time slices: the schedule and the SLICE pin, the switch of a cluster from one context to another, and the
hardware clear sequence (R311 to R313, R324). -/

namespace Sys2Proof.Machine

/-- The context that a partition's schedule gives a cluster: none where the entry leaves it idle (R324). -/
def State.designated (s : State) (cl : Nat) : Option Nat :=
  let i := s.partOfCluster cl
  match s.part? i with
  | none => none
  | some p =>
    match p.entry[cl - i * s.stacksPerPart]? with
    | some n => if n == 0xFFFF then none else some n
    | none => none

/-- Ask for the saves of every block on a cluster, for a time slice (R99, R324). -/
def State.saveCluster (s : State) (cl : Nat) : State :=
  ((s.cores.filter (fun c => c.cl == cl)).map (fun c => c.co)).foldl (fun st co => st.requestSave cl co .slice) s

/-- Begin the switch of a cluster to the designated context; a switch under way holds the edge (R311, R324). -/
def State.startSwitch (s : State) (cl : Nat) : State :=
  let k := s.cluster cl
  let dst := s.designated cl
  if k.next.isSome || k.clearing then s.setCluster { k with held := true }
  else if dst == k.ctx || k.outOfService || k.failed then s
  else (s.setCluster { k with next := some dst }).saveCluster cl

/-- The clusters of a partition (R304). -/
def State.clustersOf (s : State) (part : Nat) : List Nat := List.range' (part * s.stacksPerPart) s.stacksPerPart

/-- Switch the clusters of a partition to its schedule's entry (R324). -/
def State.applySlice (s : State) (part : Nat) : State := (s.clustersOf part).foldl State.startSwitch s

/-- Advance a partition's schedule by one entry, cyclically (R324). -/
def State.advanceSlice (s : State) (p : Partition) : State :=
  if p.slices.isEmpty then s
  else (s.onPart p.idx (fun p => { p with slice := (p.slice + 1) % p.slices.length })).applySlice p.idx

/-- SLICE_EDGE: every partition's schedule advances, and clusters whose context changes are switched (R324). -/
def execSliceEdge (s : State) : Host.Outcome State Fault Refusal := .next (s.parts.foldl State.advanceSlice s)

/-- Every block of the outgoing context is off the cluster, its commands have completed and its accesses have been performed (R311 step 1). -/
def State.clusterEmpty (s : State) (cl : Nat) : Bool :=
  s.cores.all (fun c => c.cl != cl || c.block.isNone) && !s.cmds.any (fun x => x.cl == cl) && !s.accs.any (fun a => a.cl == cl)

/-- Either context is protected. -/
def State.eitherProt (s : State) (x y : Option Nat) : Bool := [x, y].any (fun o => (o.bind s.ctx?).any (fun c => c.prot))

/-- A held edge may take effect: the switched-in context has a block on the cluster, or none to place (R311). -/
def State.heldDue (s : State) (k : Cluster) : Bool :=
  k.held && k.next.isNone && !k.clearing &&
    (s.cores.any (fun c => c.cl == k.id && c.block.isSome) ||
     !s.launches.any (fun l => k.ctx == some l.ctx && !l.ended && l.blocks.any (fun b => b.at_ == .waiting)))

/-- The cluster's context becomes the one it was switched to (R311 step 3). -/
def State.endSwitch (s : State) (cl : Nat) : State :=
  let k := s.cluster cl
  match k.next with
  | some y => s.setCluster { k with ctx := y, next := none, clearing := false, wiping := none, failed := false }
  | none => s.setCluster { k with clearing := false, wiping := none, failed := false }

/-- Begin the clear sequence of a cluster: it takes 4,096 cycles (R312). -/
def State.startClear (s : State) (cl : Nat) : State :=
  let k := s.cluster cl
  s.setCluster { k with clearing := true, clearAt := s.now + 4096 }

/-- CLUSTER_SWITCH: once the outgoing blocks are saved or ended, the clear sequence starts where either context is protected,
else the switch ends; a held edge starts the next switch (R311). A cluster whose clear has failed is cleared again once it has been repaired
(R313; log entry 88). -/
def execClusterSwitch (cl : Nat) (s : State) : Host.Outcome State Fault Refusal :=
  let k := s.cluster cl
  match k.next with
  | some y =>
    if k.clearing || !s.clusterEmpty cl then .refused .notEnabled
    else if s.eitherProt k.ctx y then .next (s.startClear cl)
    else .next (s.endSwitch cl)
  | none =>
    if k.failed && k.repaired && !k.clearing then .next ((s.setCluster { k with next := some (s.designated cl), repaired := false }).startClear cl)
    else if s.heldDue k then .next ((s.setCluster { k with held := false }).startSwitch cl) else .refused .notEnabled

/-- Everything a clear sequence sets to zero on a cluster, its queues and what was in flight among it, and the outgoing context's translations
dropped; generations read 1 (R312). -/
def State.clearCluster (s : State) (cl : Nat) : State :=
  let s1 := (s.zero (spAddr cl 0 0) (128 * 2 ^ 20)).zero (Config.tileBase + cl * 128 * 4 * 65536) (128 * 4 * 65536)
  let gone := fun (t : TlbEntry) => (s.cluster cl).ctx == some t.ctx &&
    ((t.level == 0 && t.place / 128 == cl) || (t.level == 1 && t.place == cl) || (t.level == 2 && t.place == cl / 2))
  { s1 with
    tlb := s1.tlb.filter (fun t => !gone t), cmds := s1.cmds.filter (fun m => m.cl != cl), accs := s1.accs.filter (fun a => a.cl != cl),
    longs := s1.longs.filter (fun x => x.cl != cl), stalls := s1.stalls.filter (fun x => x.cl != cl),
    cores := s1.cores.map (fun c => if c.cl == cl then
      { c with gen := 1, cells := [], threads := [], groups := [], bins := [], ibuf := [], xfers := [], wants := [] } else c) }

/-- The clear of a cluster has failed: it is marked, and the partition's record and the Markhor log name it. It keeps its context, whose number
stays taken where that has been destroyed (R308, R313). -/
def State.clearFails (s : State) (cl : Nat) : State :=
  ((s.setCluster { s.cluster cl with clearing := false, failed := true, repaired := false, next := none }).logPart (s.partOfCluster cl) none
    { kind := 6, cause := 0x16A, cluster := cl }).emit (.log 3 10 cl)

/-- A clear has ended: the switch ends with it, but for one whose outgoing blocks are not all off the cluster; the clear was then another's, that of
a TDI's ERROR (R361), and the switch goes on from its step 1 (R311). -/
def State.clearDone (s : State) (cl : Nat) : State :=
  let s1 := s.clearCluster cl
  let k := s1.cluster cl
  if k.next.isSome && !s1.clusterEmpty cl then s1.setCluster { k with clearing := false, failed := false } else s1.endSwitch cl

/-- CLEAR_SEQUENCE_COMPLETE: after its 4,096 cycles the clear ends and the switch with it, or it has failed (R312, R313). -/
def execClearSequenceComplete (cl : Nat) (ok : Bool) (s : State) : Host.Outcome State Fault Refusal :=
  let k := s.cluster cl
  if k.clearing && decide (k.clearAt ≤ s.now) then
    if ok then .next (s.clearDone cl) else .next (s.clearFails cl)
  else .refused .notEnabled

/-- The steps of switches and clears that may be taken. -/
def State.sliceSteps (s : State) : List Instr :=
  s.clusters.flatMap (fun k =>
    (if k.clearing then (if k.clearAt ≤ s.now then [.clearSequenceComplete k.id true] else [])
     else if k.next.isSome then (if s.clusterEmpty k.id then [.clusterSwitch k.id] else [])
     else if (k.failed && k.repaired) || s.heldDue k then [.clusterSwitch k.id] else []))

end Sys2Proof.Machine
end

