-- ==== Sys2Proof/Machine/Mailbox.lean ====
section
/-! DEFINITION. The Markhor mailbox: submission, command blocks, completion, and the commands on contexts, queues,
partitions and slices (R304 to R310, R314, R315, R324, R332, R334, R347, R351, R353, R360, R365, R392). -/

namespace Sys2Proof.Machine

/-! ### Mailboxes (R309). Function 0 is the physical function, function i + 1 the virtual function of partition i. -/

/-- A function's mailbox. -/
def State.mailbox (s : State) (fn : Nat) : Mailbox := (s.mailboxes.find? (fun m => m.fn == fn)).getD { fn := fn }

/-- Put a mailbox in its place. -/
def putMailbox (m : Mailbox) : List Mailbox → List Mailbox
  | [] => [m]
  | x :: l => if x.fn == m.fn then m :: l else x :: putMailbox m l

/-- Put a mailbox in its place. -/
def State.setMailbox (s : State) (m : Mailbox) : State := { s with mailboxes := putMailbox m s.mailboxes }

/-- A write to 0xA00 that is dropped (R309). -/
def State.mailboxRefuses (s : State) (fn : Nat) (v : DWord) : Bool := (s.mailbox fn).busy || v.toNat % 4096 != 0

/-- The note of a dropped mailbox write; the physical function has no partition record (R309). -/
def State.dropMailbox (s : State) (fn : Nat) : State := if fn = 0 then s.emit (.log 3 11 0) else s.dropWrite (fn - 1) none

/-- A function of the package: the physical one, or the virtual one of a partition (R304). -/
def State.hasFunction (s : State) (fn : Nat) : Bool := fn == 0 || (s.part? (fn - 1)).isSome

/-- MBSTAT (R309): BUSY, and the number of commands completed. -/
def Mailbox.status (m : Mailbox) : BitVec 32 := BitVec.ofNat 32 ((if m.busy then 1 else 0) + m.count % 2 ^ 16 * 2 ^ 16)

/-- What a 32-bit read of a function's doorbell page returns: MBSTAT at 0xA08, INVSEQ of a virtual function at 0x810 (R309, R336). -/
def State.registerRead (s : State) (fn off : Nat) : Option (BitVec 32) :=
  if !s.hasFunction fn then none
  else if off == 0xA08 then some (s.mailbox fn).status
  else if off == 0x810 && fn != 0 then (s.part? (fn - 1)).map (fun p => BitVec.ofNat 32 p.invSeq)
  else none

/-- REGISTER_WRITE: a write of the doorbell page of a function; offset 0xA00 submits a command, other offsets have no behaviour here (R309). -/
def execRegisterWrite (fn off : Nat) (v : DWord) (s : State) : Host.Outcome State Fault Refusal :=
  if !s.hasFunction fn then .refused .notEnabled
  else if off != 0xA00 then .next s
  else if s.mailboxRefuses fn v then .next (s.dropMailbox fn)
  else .next (s.setMailbox { s.mailbox fn with busy := true, block := v.toNat, result := none })

/-- MAILBOX_WRITE_WHILE_BUSY: a write to 0xA00 while BUSY reads 1, or misaligned, is dropped and logged (R309). -/
def execMailboxWriteWhileBusy (fn : Nat) (v : DWord) (s : State) : Host.Outcome State Fault Refusal :=
  if s.hasFunction fn && s.mailboxRefuses fn v then .next (s.dropMailbox fn) else .refused .notEnabled

/-- The flat address of a function's command block in host memory. -/
def State.cmdAddr (s : State) (fn : Nat) : Nat := Config.hostBase + (s.mailbox fn).block

/-- OPCODE of the command under way. -/
def State.opcode (s : State) (fn : Nat) : Nat := s.mem.readLe (s.cmdAddr fn) 2

/-- LEN of the command under way. -/
def State.cmdLen (s : State) (fn : Nat) : Nat := s.mem.readLe (s.cmdAddr fn + 4) 2

/-- The payload bytes. -/
def State.payload (s : State) (fn : Nat) : List Byte := s.mem.readBytes (s.cmdAddr fn + 64) (s.cmdLen fn)

/-- A zero field of the block is not zero, or LEN is out of range (R309). -/
def State.blockBad (s : State) (fn : Nat) : Bool :=
  let a := s.cmdAddr fn
  s.mem.readLe (a + 2) 2 != 0 || s.mem.readLe (a + 6) 2 != 0 || s.mem.readLe (a + 16) 48 != 0 || decide (4032 < s.cmdLen fn)

/-- A command waits to be executed. -/
def State.cmdWaits (s : State) (fn opcode : Nat) : Bool := (s.mailbox fn).busy && (s.mailbox fn).result.isNone && s.opcode fn == opcode

/-- Statuses by word (R309). -/
abbrev stOk : Nat := 0
/-- INVALID. -/
abbrev stInvalid : Nat := 1
/-- NOSPACE. -/
abbrev stNospace : Nat := 2
/-- BUSY. -/
abbrev stBusy : Nat := 3
/-- SIGNATURE. -/
abbrev stSignature : Nat := 4
/-- ROLLBACK. -/
abbrev stRollback : Nat := 5
/-- DENIED. -/
abbrev stDenied : Nat := 6
/-- UNKNOWN. -/
abbrev stUnknown : Nat := 7

/-- The answer to a command: status, result, payload to write back. -/
structure Reply where
  status : Nat
  result : BitVec 56 := 0
  data : List Byte := []

/-- Note the answer of the command under way; it is written at its completion. -/
def State.reply (s : State) (fn : Nat) (r : Reply) : State := s.setMailbox { s.mailbox fn with result := some (r.status, r.result, r.data) }

/-- The functions that may issue a command (R309). -/
inductive Issuer where
  | virtual | physical | any
deriving DecidableEq, Repr

/-- A function may issue a command. -/
def Issuer.allows (i : Issuer) (fn : Nat) : Bool :=
  match i with | .virtual => fn != 0 | .physical => fn == 0 | .any => true

/-- Execute the command under way if it is of an opcode: DENIED for a function that may not issue it, INVALID for a broken block
(R309), else what it does with its payload, given as a number and as bytes. -/
def State.command (s : State) (fn opcode : Nat) (who : Issuer) (f : Nat → List Byte → State → State × Reply) : Host.Outcome State Fault Refusal :=
  if !(s.hasFunction fn && s.cmdWaits fn opcode) then .refused .notEnabled
  else if !who.allows fn then .next (s.reply fn { status := stDenied })
  else if s.blockBad fn then .next (s.reply fn { status := stInvalid })
  else let (s1, r) := f (leNat (s.payload fn)) (s.payload fn) s; .next (s1.reply fn r)

/-- An answer that changes nothing. -/
def State.only (s : State) (st : Nat) : State × Reply := (s, { status := st })

/-- The opcodes of R309. -/
def opcodes : List Nat := List.range' 1 8 ++ List.range' 0x10 12 ++ List.range' 0x20 6

/-- MAILBOX_UNKNOWN_OPCODE: a reserved opcode returns UNKNOWN (R309). -/
def execMailboxUnknownOpcode (fn : Nat) (s : State) : Host.Outcome State Fault Refusal :=
  if opcodes.contains (s.opcode fn) then .refused .notEnabled
  else s.command fn (s.opcode fn) .any (fun _ _ st => st.only stUnknown)

/-- MAILBOX_COMMAND_COMPLETE: STATUS, RESULT and any data are written into the block, BUSY falls, the count steps, and MSI-X
vector 0 of the function is raised (R309). -/
def execMailboxCommandComplete (fn : Nat) (s : State) : Host.Outcome State Fault Refusal :=
  let m := s.mailbox fn
  match m.result with
  | none => .refused .notEnabled
  | some (st, r, data) =>
    let a := s.cmdAddr fn
    let s1 := (s.storeLe (a + 8) 1 st).storeLe (a + 9) 7 r.toNat
    let s2 := (if data.isEmpty then s1 else s1.store (a + 64) data).setMailbox { m with busy := false, result := none, count := (m.count + 1) % 2 ^ 16 }
    .next (s2.emit (if fn = 0 then .pfMsix 0 else .msix (fn - 1) 0))

/-- A context that a function may name: its own, or any for the physical function; DENIED for another's, INVALID for none (R309). -/
def State.named (s : State) (fn ctx : Nat) : Except Nat Context :=
  match s.ctx? ctx with
  | none => .error stInvalid
  | some c => if fn != 0 && c.part + 1 != fn then .error stDenied else .ok c

/-! ### Keys (R360) -/

/-- The outcomes of four entropy collections (R360), an open choice. -/
def State.collections (s : State) : List Bool × State :=
  let (n, s1) := s.choose
  ((List.range 4).map (fun i => n / 2 ^ i % 2 == 0), s1)

/-- Key generation: the DRBG reseeds, a failed health test repeats the collection up to 3 times; after the fourth failure the
source is marked failed and the partitions' records say so (R360). -/
def State.generate (s : State) (health : List Bool) : State × Option (BitVec 256) :=
  if s.pkg.rngFail then (s, none)
  else if ((List.range 4).map (fun i => (health[i]?).getD true)).any id then
    ({ s with pkg := { s.pkg with drbgCount := s.pkg.drbgCount + 1 } }, some (Config.drbg s.pkg.drbgCount))
  else
    let s1 : State := { s with pkg := { s.pkg with rngFail := true } }
    (s1.parts.foldl (fun st p => st.notePart p.idx none 9 0 0 0) s1, none)

/-! ### Contexts (R306 to R308, R310) -/

/-- Bank window i of a descriptor. -/
def descWin (d i : Nat) : BankWin := { base := bits d (448 + 64 * i) 26, len := bits d (448 + 64 * i + 32) 27 }

/-- A bank window lies in the partition's bank memory (R304, R307). -/
def State.winOk (s : State) (part die : Nat) (w : BankWin) : Bool :=
  let lo := part * s.stacksPerPart
  let mine := decide (lo ≤ 2 * die + 1) && decide (2 * die < lo + s.stacksPerPart)
  let half := s.stacksPerPart == 1
  w.len == 0 || (mine && decide (w.base + w.len ≤ Config.bankDie) &&
    (!half || (decide (2 ^ 25 * (part % 2) ≤ w.base) && decide (w.base + w.len ≤ 2 ^ 25 * (part % 2) + 2 ^ 25))))

/-- Two windows of one die share a byte. -/
def BankWin.meets (a b : BankWin) : Bool :=
  a.len != 0 && b.len != 0 && decide (a.base < b.base + b.len) && decide (b.base < a.base + a.len)

/-- Windows overlap those of another context, and one of the two is protected (R307). -/
def State.winClash (s : State) (prot : Bool) (ws : List BankWin) : Bool :=
  s.ctxs.any (fun c => (prot || c.prot) && (ws.zip c.bkwin).any (fun (a, b) => a.meets b))

/-- SVPROC and SVIMG name a handler for a context; `own` is the number of an existing context (R307, R310). -/
def State.handlerOk (s : State) (part : Nat) (prot : Bool) (own : Option Nat) (svimg svproc : Nat) : Bool :=
  svproc == 0xFFFF ||
    (match s.image? svimg with
     | none => false
     | some i => i.part == part && (!prot || own == some i.ctx) && (i.proc? svproc).any (fun p => p.args == 0))

/-- A zero field of a context descriptor is not zero (R306). -/
def descBad (d : Nat) : Bool :=
  bits d 960 64 != 0 || bits d 384 16 != 0 || bits d 64 256 != 0 || bits d 3 41 != 0 ||
    (List.range 6).any (fun i => bits d (448 + 64 * i + 26) 6 != 0 || bits d (448 + 64 * i + 59) 5 != 0)

/-- The lowest context number that is free; one whose clusters are still to be cleared of it is not (R307, R308). -/
def State.freeCtx (s : State) : Nat :=
  firstFree (s.ctxs.map (fun c => c.ctx) ++ s.clusters.filterMap (fun k => k.wiping)) 65536 0

/-- The context of a descriptor. -/
def ctxOfDesc (d n part : Nat) (keys : Option (BitVec 256)) : Context :=
  { ctx := n, part := part, errrec := BitVec.ofNat 64 (bits d 896 64), bararea := BitVec.ofNat 64 (bits d 832 64),
    bkwin := (List.range 6).map (descWin d), svimg := bits d 416 32,
    svproc := if bits d 400 16 == 0xFFFF then none else some (bits d 400 16),
    ptroot := bits d 320 64, pasid := bits d 44 20, replay := bit d 2, prot := bit d 1, trapMode := bit d 0,
    ke := keys.map (fun k => k.extractLsb' 0 128), kt := keys.map (fun k => k.extractLsb' 128 128) }

/-- The context number of an image whose own context has been destroyed. -/
abbrev noCtx : Nat := 2 ^ 16

/-- A thread executes in an image, or returns to it from its handler. -/
def State.imageRuns (s : State) (h : Nat) : Bool := s.cores.any (fun c => c.threads.any (fun t => t.image == h || t.frame.any (fun f => f.image == h)))

/-- An image of a destroyed context goes once no context descriptor names it as SVIMG and no thread runs its handler in it; while its context
exists, a launch record or pool in memory may name it (R301, R310; log entry 89). -/
def State.dropImages (s : State) : State :=
  { s with images := s.images.filter (fun i => i.ctx != noCtx || s.ctxs.any (fun x => x.svimg == i.handle) || s.imageRuns i.handle) }

/-- A context whose trap handler lies in an image of another context fetches it through its own page tables, in which the Markhor gives its code
pages their entries (R301, R307, R310); none where no code page is left for a table. -/
def State.mapHandler (s : State) (c : Context) : Option State :=
  match c.svproc, s.image? c.svimg with
  | some _, some i => if i.ctx == c.ctx then some s else s.mapCode c.ctx i
  | _, _ => some s

/-- CTX_CREATE (R306, R307, R349, R360): `health` are the outcomes of the entropy collections. -/
def execCtxCreate (fn : Nat) (health : List Bool) (s : State) : Host.Outcome State Fault Refusal :=
  s.command fn 1 .virtual (fun d _ st =>
    let part := fn - 1
    let ws := (List.range 6).map (descWin d)
    let prot := bit d 1
    if descBad d || d / 2 ^ 1024 != 0 || bits d 320 64 % 4096 != 0 || !(ws.zipIdx.all (fun (w, i) => st.winOk part i w)) || st.winClash prot ws ||
        !st.handlerOk part prot none (bits d 416 32) (bits d 400 16) then st.only stInvalid
    else if decide (256 ≤ (st.ctxs.filter (fun c => c.part == part)).length) then st.only stNospace
    else
      let (s1, keys) := if prot then st.generate health else (st, none)
      if prot && keys.isNone then s1.only 3
      else
        let n := s1.freeCtx
        let c := ctxOfDesc d n part keys
        match ({ s1 with ctxs := s1.ctxs ++ [c] }.onPart part (fun p => { p with ctxList := p.ctxList ++ [n] })).mapHandler c with
        | none => s1.only stNospace
        | some s2 =>
        let s3 := (s2.gmWriteAll (elandCl part) 0 c false 2 c.errrec.toNat (List.replicate 64 0)).1
        (s3, { status := stOk, result := BitVec.ofNat 56 n }))

/-- Something of a context is resident: a launch, and with it blocks, ring records and pools, or a queued packet (R308, R378). -/
def State.ctxBusy (s : State) (ctx : Nat) : Bool :=
  s.launches.any (fun l => l.ctx == ctx) || s.cores.any (fun c => c.block.any (fun b => b.ctx == ctx)) ||
    s.parts.any (fun p => p.queues.any (fun q => (s.queue q).ctx == ctx && (s.queue q).rd != (s.queue q).wr))

/-- Take queues away: from the table, and from those served. A launch of one goes on and belongs to no queue, where its control block may come
to describe another (R319). -/
def State.dropQueues (s : State) (part : Nat) (qs : List Nat) : State :=
  match s.part? part with
  | none => s
  | some p =>
    let base := p.qtable.getD 0
    let rows := if p.qtable.isNone then [] else (List.range (2 ^ p.qtableK)).filter (fun i => bit (s.qEntry p base i) 100 && qs.contains (bits (s.qEntry p base i) 0 64))
    let s1 := rows.foldl (fun st i => st.storeLe (st.phys part base + 16 * i) 16 0) s
    let s2 := s1.onPart part (fun p => { p with queues := p.queues.filter (fun q => !qs.contains q), activeQ := p.activeQ.filter (fun q => !qs.contains q) })
    { s2 with loads := s2.loads.filter (fun t => !qs.contains t.qcb), launches := mapIf (fun l => qs.contains l.qcb) (fun l => { l with qcb := 0 }) s2.launches,
              stalls := s2.stalls.filter (fun x => !(x.src == 6 && x.who.any (fun w => qs.contains w.1))) }

/-- The clusters of a protected context are cleared (R308, R361): where it leaves them, its number stays taken until they are (R308). One whose
clear has failed waits for its repair (R313). -/
def State.clearFor (s : State) (ctx : Nat) (leave : Bool) : State :=
  ((s.clusters.filter (fun k => k.ctx == some ctx)).map (fun k => k.id)).foldl (fun st cl =>
    let k := st.cluster cl
    let s1 := if leave then st.setCluster { k with wiping := some ctx, next := if k.next.isNone && !k.failed then some none else k.next } else st
    if k.clearing || k.failed then s1 else s1.startClear cl) s

/-- No cluster serves a context number any longer: a new context that is given it comes to a cluster by a switch (R311). -/
def State.leaveClusters (s : State) (ctx : Nat) : State :=
  { s with clusters := mapIf (fun k => k.ctx == some ctx) (fun k => { k with ctx := none }) s.clusters }

/-- The switches to a context lead to none. -/
def State.noSwitchTo (s : State) (ctx : Nat) : State :=
  { s with clusters := mapIf (fun k => k.next == some (some ctx)) (fun k => { k with next := some none }) s.clusters }

/-- Destroy a context: its number, translations, queues and images go; a protected one's key is erased and its clusters
are cleared (R301, R308). -/
def State.destroyCtx (s : State) (c : Context) : State :=
  let qs := ((s.part? c.part).map (fun p => p.queues.filter (fun q => (s.queue q).ctx == c.ctx))).getD []
  let s1 := s.dropQueues c.part qs
  let rest := s1.ctxs.filter (fun x => x.ctx != c.ctx)
  let s2 : State :=
    { s1 with ctxs := rest, tlb := s1.tlb.filter (fun t => t.ctx != c.ctx), walks := s1.walks.filter (fun e => e.ctx != c.ctx), sessions := s1.sessions.filter (fun x => x.ctx != c.ctx),
              images := mapIf (fun i => i.ctx == c.ctx) (fun i => { i with ctx := noCtx }) s1.images }
  let s3 := s2.onPart c.part (fun p => { p with ctxList := p.ctxList.filter (· != c.ctx) })
  let s4 := s3.noSwitchTo c.ctx
  if c.prot then s4.clearFor c.ctx true else s4.leaveClusters c.ctx

/-- CTX_DESTROY (R308). -/
def execCtxDestroy (fn : Nat) (s : State) : Host.Outcome State Fault Refusal :=
  s.command fn 2 .virtual (fun d _ st =>
    if d / 2 ^ 16 != 0 then st.only stInvalid
    else
      match st.named fn (bits d 0 16) with
      | .error e => st.only e
      | .ok c => if st.ctxBusy c.ctx then st.only stBusy else (st.destroyCtx c, { status := stOk }))

/-- CTX_SUPERVISOR (R310). -/
def execCtxSupervisor (fn : Nat) (s : State) : Host.Outcome State Fault Refusal :=
  s.command fn 3 .virtual (fun d _ st =>
    if d / 2 ^ 64 != 0 then st.only stInvalid
    else
      match st.named fn (bits d 0 16) with
      | .error e => st.only e
      | .ok c =>
        if !st.handlerOk c.part c.prot (some c.ctx) (bits d 32 32) (bits d 16 16) then st.only stInvalid
        else
          let x := bits d 16 16
          let c1 := { c with svimg := bits d 32 32, svproc := if x == 0xFFFF then none else some x }
          match (st.onCtx c.ctx (fun _ => c1)).mapHandler c1 with
          | none => st.only stNospace
          | some s1 => (s1, { status := stOk }))

/-! ### Queues (R314, R315) -/

/-- The first invalid slot of the 8 of a key (R315). -/
def State.freeSlotOf (s : State) (p : Partition) (base pasid qnum : Nat) : Option Nat :=
  ((List.range 8).map (fun j => queueHash pasid qnum p.qtableK + j)).find? (fun i => !bit (s.qEntry p base i) 100)

/-- A control block's first free place (log entry 22). -/
def Partition.freeQcb (p : Partition) : Nat := Config.qcbBase + p.idx * 2 ^ 24 + 64 * firstFree (p.queues.map (fun q => q % 2 ^ 24 / 64)) (2 ^ 18) 0

/-- The bytes of a new control block (R314). -/
def newQcb (ring log2n ctx : Nat) : Nat := ctx % 2 ^ 16 * 2 ^ 176 + log2n % 2 ^ 8 * 2 ^ 64 + ring % 2 ^ 64

/-- QUEUE_CREATE (R314, R315). -/
def execQueueCreate (fn : Nat) (s : State) : Host.Outcome State Fault Refusal :=
  s.command fn 4 .virtual (fun d _ st =>
    let log2n := bits d 32 8
    let ring := bits d 64 64
    if bits d 40 24 != 0 || d / 2 ^ 128 != 0 then st.only stInvalid
    else
      match st.named fn (bits d 0 16), st.part? (fn - 1) with
      | .error e, _ => st.only e
      | .ok _, none => st.only stInvalid
      | .ok c, some p =>
        if decide (log2n < 4) || decide (16 < log2n) || ring % 4096 != 0 || decide (st.ordinaryCap p.idx < ring + 64 * 2 ^ log2n) then st.only stInvalid
        else
          match p.qtable with
          | none => st.only stNospace
          | some base =>
            match st.qSlot p base c.pasid (bits d 16 16), st.freeSlotOf p base c.pasid (bits d 16 16) with
            | none, some i =>
              let q := p.freeQcb
              let entry := 2 ^ 100 + bits d 16 16 * 2 ^ 84 + c.pasid % 2 ^ 20 * 2 ^ 64 + q % 2 ^ 64
              let s1 := (st.storeLe q 64 (newQcb ring log2n c.ctx)).storeLe (st.phys p.idx base + 16 * (i % 2 ^ p.qtableK)) 16 entry
              (s1.onPart p.idx (fun p => { p with queues := p.queues ++ [q] }), { status := stOk, result := BitVec.ofNat 56 (q / 64) })
            | _, _ => st.only stNospace)

/-- QUEUE_DESTROY (R314, R315). -/
def execQueueDestroy (fn : Nat) (s : State) : Host.Outcome State Fault Refusal :=
  s.command fn 5 .virtual (fun d _ st =>
    if d / 2 ^ 32 != 0 then st.only stInvalid
    else
      match st.named fn (bits d 0 16), st.part? (fn - 1) with
      | .ok c, some p =>
        (match st.findQueue p c.pasid (bits d 16 16) with
         | some q => (st.dropQueues p.idx [q], { status := stOk })
         | none => st.only stInvalid)
      | .error e, _ => st.only e
      | .ok _, none => st.only stInvalid)

/-! ### ATTENTION (R347) -/

/-- ATTENTION: an attention request to a group, or a note that the slot holds none of the context (R347). -/
def execAttention (fn : Nat) (s : State) : Host.Outcome State Fault Refusal :=
  s.command fn 8 .any (fun d _ st =>
    if bit d 31 || bits d 38 26 != 0 || d / 2 ^ 64 != 0 then st.only stInvalid
    else
      match st.named fn (bits d 0 16) with
      | .error e => st.only e
      | .ok c =>
        let cl := bits d 16 8
        let co := bits d 24 7
        let gs := bits d 32 6
        let mine := ((st.core cl co).group? gs).any (fun g => (st.launch? g.launch).any (fun l => l.ctx == c.ctx))
        (if mine then st.postAsync cl co gs 0x160
         else st.logCtx cl co c.ctx { kind := 6, cause := 0x16F, cluster := cl, core := co, gslot := gs }, { status := stOk }))

/-! ### Partitions (R304, R305, R351, R353, R355) -/

/-- A cluster that serves nothing; a clear under way goes on (R308). -/
def freshCluster (s : State) (cl : Nat) : Cluster :=
  let k := s.cluster cl
  { k with ctx := none, next := if k.clearing then some none else none, held := false, rings := [] }

/-- Divide the package into P partitions: HBM and bank memory are zeroed before the new functions exist (R305). Every virtual function is a new
one, so a command under way in an old one's mailbox is dropped: DESIGN CHOICE (log entry 102). -/
def State.setParts (s : State) (p : Nat) : State :=
  let s1 := (s.zero Config.hbmBase (12 * Config.hbmStack)).zero Config.bankBase (6 * Config.bankDie)
  { s1 with pkg := { s1.pkg with parts := some p, integPast := s1.integFails }, parts := (List.range p).map (fun i => { idx := i }),
            clusters := (List.range Config.clusters).map (freshCluster s1), tlb := [], walks := [], images := [], launches := [], loads := [], stalls := [],
            mailboxes := s1.mailboxes.filter (fun m => m.fn == 0), spdm := s1.spdm.filter (fun x => x.fn == 0) }

/-- PARTITION_SET: P of 1, 2, 3, 6, 12; refused with BUSY while a context exists (R304, R305). -/
def execPartitionSet (fn : Nat) (s : State) : Host.Outcome State Fault Refusal :=
  s.command fn 0x10 .physical (fun d _ st =>
    if !([1, 2, 3, 6, 12].contains d) then st.only stInvalid
    else if !st.ctxs.isEmpty then st.only stBusy
    else (st.setParts d, { status := stOk }))

/-- The metadata region of a carve-out of C bytes, rounded up to 1 GiB (R353). -/
def metaBytes (c : Nat) : Nat :=
  let leaves := c / 1024
  (c / 16 + 64 * (treeSizes 64 leaves).foldl (· + ·) 0 + 2 ^ 30 - 1) / 2 ^ 30 * 2 ^ 30

/-- CARVEOUT_SET (R353, R355): a carve-out gets an integrity key; without one none is set. -/
def execCarveoutSet (fn : Nat) (health : List Bool) (s : State) : Host.Outcome State Fault Refusal :=
  s.command fn 0x11 .physical (fun d _ st =>
    let part := bits d 0 4
    let c := bits d 16 16 * 2 ^ 30
    if bits d 4 12 != 0 || d / 2 ^ 32 != 0 || (st.part? part).isNone || decide (st.partCap < 2 * c) then st.only stInvalid
    else if st.ctxs.any (fun x => x.part == part && x.prot) then st.only stBusy
    else
      let (s1, key) := if c == 0 then (st, none) else st.generate health
      if c != 0 && key.isNone then s1.only stInvalid
      else
        (s1.onPart part (fun p => { p with carve := c, meta_ := if c == 0 then 0 else metaBytes c, ki := key.map (fun k => k.extractLsb' 0 128),
                                            root := List.replicate 8 0, nodes := [], written := [] }), { status := stOk }))

/-- The entries of a slice schedule in a payload: from bit 16 on, one number per cluster of the partition (R324; log entry 25). -/
def State.sliceEntries (s : State) (d n : Nat) : List (List Nat) :=
  (List.range n).map (fun i => (List.range s.stacksPerPart).map (fun j => bits d (16 + 16 * (i * s.stacksPerPart + j)) 16))

/-- SLICE_SET: a schedule of 1 to 64 entries, which takes effect at its first entry (R324; log entry 25). -/
def execSliceSet (fn : Nat) (s : State) : Host.Outcome State Fault Refusal :=
  s.command fn 0x12 .physical (fun d _ st =>
    let part := bits d 0 4
    let n := bits d 8 8
    let es := st.sliceEntries d n
    if bits d 4 4 != 0 || (st.part? part).isNone || n == 0 || decide (64 < n) || d / 2 ^ (16 + 16 * n * st.stacksPerPart) != 0 ||
        es.any (fun e => e.any (fun x => x != 0xFFFF && !(st.ctx? x).any (fun c => c.part == part))) then st.only stInvalid
    else ((st.onPart part (fun p => { p with slices := es, slice := 0 })).applySlice part, { status := stOk }))

/-- The partition and the power of two of FAULTRING_SET and QTABLE_SET; none where the payload is invalid. -/
def State.ringArgs (s : State) (d : Nat) : Option (Nat × Nat × Nat) :=
  let part := bits d 0 4
  let k := bits d 8 8
  let a := bits d 64 64
  if bits d 4 4 != 0 || bits d 16 48 != 0 || d / 2 ^ 128 != 0 || (s.part? part).isNone || decide (k < 8) || decide (16 < k) || a % 16 != 0 ||
      decide (s.ordinaryCap part < a + 16 * 2 ^ k) then none
  else some (part, k, a)

/-- FAULTRING_SET: the ring's entries start free (R334). -/
def execFaultringSet (fn : Nat) (s : State) : Host.Outcome State Fault Refusal :=
  s.command fn 0x13 .physical (fun d _ st =>
    match st.ringArgs d with
    | none => st.only stInvalid
    | some (part, k, a) =>
      ((st.zero (st.partBase part + a) (16 * 2 ^ k)).onPart part (fun p => { p with ringAddr := some a, ringK := k, ringTail := 0 }), { status := stOk }))

/-- QTABLE_SET: the table's entries start invalid (R315). -/
def execQtableSet (fn : Nat) (s : State) : Host.Outcome State Fault Refusal :=
  s.command fn 0x14 .physical (fun d _ st =>
    match st.ringArgs d with
    | none => st.only stInvalid
    | some (part, k, a) =>
      ((st.zero (st.partBase part + a) (16 * 2 ^ k)).onPart part (fun p => { p with qtable := some a, qtableK := k }), { status := stOk }))

/-- PERRREC_SET: the partition's error record, its header zero (R349, R351). -/
def execPerrrecSet (fn : Nat) (s : State) : Host.Outcome State Fault Refusal :=
  s.command fn 0x15 .physical (fun d _ st =>
    let part := bits d 0 4
    let a := bits d 64 64
    if bits d 4 60 != 0 || d / 2 ^ 128 != 0 || (st.part? part).isNone || a % 64 != 0 || decide (st.ordinaryCap part < a + 8256) then st.only stInvalid
    else ((st.zero (st.partBase part + a) 64).onPart part (fun p => { p with errrec := some a }), { status := stOk }))

/-- A policy word is in range (R365). -/
def policyOk (d : Nat) : Bool :=
  bits d 40 24 == 0 && bits d 18 14 == 0 && bits d 32 8 != 0 && bits d 8 8 != 0 && decide (bits d 8 8 ≤ 100)

/-- POLICY_SET (R365). -/
def execPolicySet (fn : Nat) (s : State) : Host.Outcome State Fault Refusal :=
  s.command fn 0x16 .physical (fun d _ st =>
    if d / 2 ^ 64 != 0 || !policyOk d then st.only stInvalid
    else ({ st with pkg := { st.pkg with policy := BitVec.ofNat 64 d } }, { status := stOk }))

/-- POWER_SET: 2.0 kW to 5.0 kW in steps of 50 W (R392). -/
def execPowerSet (fn : Nat) (s : State) : Host.Outcome State Fault Refusal :=
  s.command fn 0x17 .physical (fun d _ st =>
    if decide (d < 2000) || decide (5000 < d) || d % 50 != 0 then st.only stInvalid
    else ({ st with pkg := { st.pkg with powerW := d } }, { status := stOk }))

/-- PEER_SET: one entry of a partition's peer table (R332). -/
def execPeerSet (fn : Nat) (s : State) : Host.Outcome State Fault Refusal :=
  s.command fn 0x1A .physical (fun d _ st =>
    let part := bits d 0 4
    let e := bits d 64 128
    if bits d 4 12 != 0 || bits d 28 36 != 0 || d / 2 ^ 192 != 0 || bits e 65 63 != 0 || bits e 36 28 != 0 || decide (11 < bits e 32 4) ||
        (st.part? part).isNone then st.only stInvalid
    else
      let i := bits d 16 12
      (st.onPart part (fun p =>
        { p with peers := p.peers.filter (fun x => x.1 < i) ++ (if bit e 64 then [(i, { fabid := BitVec.ofNat 32 (bits e 0 32), part := bits e 32 4 })] else []) ++
                          p.peers.filter (fun x => i < x.1) }), { status := stOk }))

/-- EXPORT_SET: a partition's export window, below its metadata region (R332). -/
def execExportSet (fn : Nat) (s : State) : Host.Outcome State Fault Refusal :=
  s.command fn 0x1B .physical (fun d _ st =>
    let part := bits d 0 4
    let base := bits d 32 32
    let len := bits d 64 32
    if bits d 4 28 != 0 || d / 2 ^ 96 != 0 || (st.part? part).isNone || decide (st.ordinaryCap part < (base + len) * 4096) then st.only stInvalid
    else (st.onPart part (fun p => { p with exportBase := base, exportLen := len }), { status := stOk }))

end Sys2Proof.Machine
end

