-- ==== Sys2Proof/Machine/Security.lean ====
section
/-! DEFINITION. Owner, signers and firmware; attestation over SPDM; device interfaces and IDE streams
(R326, R361 to R364, R375). -/

namespace Sys2Proof.Machine

/-! ### Owner and signers (R364) -/

/-- A 64-byte string as a key or signature. -/
def bytes512 (l : List Byte) : BitVec 512 := BitVec.ofNat 512 (leNat (l.take 64))

/-- The message an owner signs: the command's bytes and the Markhor's command counter (R364; log entry 26). -/
def State.ownerSigns (s : State) (cmd sig : List Byte) : Bool :=
  match s.pkg.owner with
  | none => false
  | some k => s.pkg.ownerFuses == some (Config.sm3 (leBytes 64 k.toNat)) && Config.sm2Verify k [] (cmd ++ leBytes 8 s.pkg.cmdCounter) (bytes512 sig)

/-- OWNER_SET: the digest of the owner's key is burned once into blank fuses (R364); the key itself is kept for the signatures to come, and used
only while the fuses hold its digest. -/
def execOwnerSet (fn : Nat) (s : State) : Host.Outcome State Fault Refusal :=
  s.command fn 0x20 .physical (fun d l st =>
    if d / 2 ^ 512 != 0 || st.pkg.ownerFuses.isSome then st.only stInvalid
    else
      let key := bytes512 l
      ({ st with pkg := { st.pkg with owner := some key, ownerFuses := some (Config.sm3 (leBytes 64 key.toNat)) } }, { status := stOk }))

/-- A signer of a table. -/
def State.signer? (s : State) (id : BitVec 128) : Option Signer := s.pkg.signers.find? (fun x => x.id == id)

/-- The active signers. -/
def State.activeSigners (s : State) : Nat := (s.pkg.signers.filter (fun x => x.state == 1)).length

/-- SIGNER_ADD: under the owner's signature; a revoked signer is never added again (R364). -/
def execSignerAdd (fn : Nat) (s : State) : Host.Outcome State Fault Refusal :=
  s.command fn 0x21 .physical (fun d l st =>
    let id := BitVec.ofNat 128 (bits d 128 128)
    if d / 2 ^ (8 * 160) != 0 || bits d 0 128 != 0 && bits d 0 128 != 1 then st.only stInvalid
    else if !st.ownerSigns (l.take 96) (l.drop 96) then st.only stSignature
    else if (st.signer? id).isSome then st.only stInvalid
    else if decide (16 ≤ st.activeSigners) then st.only stNospace
    else
      ({ st with pkg := { st.pkg with signers := st.pkg.signers ++ [{ id := id, key := BitVec.ofNat 512 (bits d 256 512), state := 1 }],
                                      cmdCounter := st.pkg.cmdCounter + 1 } }, { status := stOk }))

/-- SIGNER_REVOKE: burns one of 64 fuses (R364). -/
def execSignerRevoke (fn : Nat) (s : State) : Host.Outcome State Fault Refusal :=
  s.command fn 0x22 .physical (fun d l st =>
    let id := BitVec.ofNat 128 (bits d 0 128)
    if d / 2 ^ (8 * 80) != 0 then st.only stInvalid
    else if !st.ownerSigns (l.take 16) (l.drop 16) then st.only stSignature
    else if !(st.signer? id).any (fun x => x.state == 1) then st.only stInvalid
    else if decide (64 ≤ st.pkg.fusesBurned) then st.only stNospace
    else
      ({ st with pkg := { st.pkg with
          signers := mapIf (fun x => x.id == id) (fun x => { x with state := 2, fuse := st.pkg.fusesBurned }) st.pkg.signers,
          fusesBurned := st.pkg.fusesBurned + 1, cmdCounter := st.pkg.cmdCounter + 1 } }, { status := stOk }))

/-- The 96 bytes of a table entry (R364). -/
def Signer.encode (x : Signer) : List Byte :=
  leBytes 96 (x.key.toNat * 2 ^ 256 + x.id.toNat * 2 ^ 128 + x.fuse % 256 * 256 + x.state % 256)

/-- SIGNER_LIST: the table of 16 entries, active ones first (R364). -/
def execSignerList (fn : Nat) (s : State) : Host.Outcome State Fault Refusal :=
  s.command fn 0x23 .physical (fun d _ st =>
    if d != 0 then st.only stInvalid
    else
      let l := (st.pkg.signers.filter (fun x => x.state == 1)) ++ st.pkg.signers.filter (fun x => x.state != 1)
      (st, { status := stOk, data := (((l.take 16).flatMap Signer.encode) ++ List.replicate 1536 0).take 1536 }))

/-! ### Firmware (R326, R375) -/

/-- The entries of a patch set that the patch RAM takes: 256, each for one of the 4,096 words of the control store (R326; log entry 23). -/
def patchSet (body : List Byte) : List (Nat × Nat) := ((Config.fwPatches body).filter (fun p => decide (p.1 < 4096))).take 256

/-- What the Eland executes for a word of its control store: the routine of the patch that names it, or the word (R326). -/
def State.controlWord (s : State) (a : Nat) : Nat := ((s.pkg.patches.find? (fun p => p.1 == a)).map Prod.snd).getD (Config.controlStore a)

/-- FW_STAGE: a signed object at a host-link address is verified and staged (R363, R375; log entry 23). -/
def execFwStage (fn : Nat) (s : State) : Host.Outcome State Fault Refusal :=
  s.command fn 0x24 .physical (fun d _ st =>
    if d / 2 ^ 96 != 0 then st.only stInvalid
    else if st.pkg.staged.isSome then st.only stBusy
    else
      let n := bits d 64 32
      let l := st.mem.readBytes (Config.hostBase + bits d 0 64) n
      let body := l.take (n - 64)
      if !Config.sm2Verify Config.deviceSigner [] body (bytes512 (l.drop (n - 64))) then st.only stSignature
      else if decide (Config.fwVersion body < st.pkg.fwSvn) then st.only stRollback
      else
        let x : Staged := { kernel := Config.fwKernel body, eland := Config.fwEland body, svn := Config.fwVersion body,
                            digests := [Config.fwDigest 2 body, Config.fwDigest 3 body], patches := patchSet body }
        ({ st with pkg := { st.pkg with staged := some x } }, { status := stOk }))

/-- FW_ABANDON: BUSY when nothing is staged (R375). -/
def execFwAbandon (fn : Nat) (s : State) : Host.Outcome State Fault Refusal :=
  s.command fn 0x25 .physical (fun d _ st =>
    if d != 0 then st.only stInvalid
    else if st.pkg.staged.isNone then st.only stBusy
    else ({ st with pkg := { st.pkg with staged := none } }, { status := stOk }))

/-- FW_COMMIT: at a quiescent point the new patch set takes effect and the new digests become current, in one step (R326, R363, R375). A step of the machine lies
between two packet steps; a kernel also waits until no mailbox command is executing. -/
def execFwCommit (s : State) : Host.Outcome State Fault Refusal :=
  match s.pkg.staged with
  | none => .refused .notEnabled
  | some x =>
    if x.kernel && s.mailboxes.any (fun m => m.busy) then .refused .notEnabled
    else
      let d := s.pkg.digests
      let at_ := fun i use => if use then (x.digests[i - 1]?).getD 0 else (d[i]?).getD 0
      let ps := if x.eland then x.patches else s.pkg.patches
      let s1 : State := { s with pkg := { s.pkg with staged := none, fwSvn := x.svn, patches := ps, patchesBefore := s.pkg.patches, digests := [(d[0]?).getD 0, at_ 1 x.kernel, at_ 2 x.eland] } }
      .next (s1.parts.foldl (fun st p => st.notePart p.idx none 8 0 0 0) s1)

/-! ### Attestation (R362, R363) -/

/-- The SPDM state of a function. -/
def State.spdmOf (s : State) (fn : Nat) : Spdm := (s.spdm.find? (fun x => x.fn == fn)).getD { fn := fn }

/-- Put a function's SPDM state in its place. -/
def putSpdm (x : Spdm) : List Spdm → List Spdm
  | [] => [x]
  | y :: l => if y.fn == x.fn then x :: l else y :: putSpdm x l

/-- Put a function's SPDM state in its place. -/
def State.setSpdm (s : State) (x : Spdm) : State := { s with spdm := putSpdm x s.spdm }

/-- Order contexts by number. -/
def insertCtx (c : Nat × Nat × BitVec 256) : List (Nat × Nat × BitVec 256) → List (Nat × Nat × BitVec 256)
  | [] => [c]
  | x :: l => if c.1 ≤ x.1 then c :: x :: l else x :: insertCtx c l

/-- The measurement blocks as they stand (R362). -/
def State.snapshot (s : State) : Snapshot :=
  { digests := (List.range 3).map (fun i => (s.pkg.digests[i]?).getD 0) ++
      [Config.sm3 (Config.mapBytes (s.pkg.parts.getD 0 :: s.parts.map (fun p => p.carve)))],
    status := BitVec.ofNat 64 (s.integFails % 2 ^ 32 * 4 + (if s.pkg.rngFail then 2 else 0) + (if s.pkg.staged.isSome then 1 else 0)),
    cmrs := (s.ctxs.map (fun c => (c.ctx, c.part, c.cmr))).foldl (fun l c => insertCtx c l) [] }

/-- Block i of a snapshot, for a function: its own contexts, or all for the physical function (R362, R363). -/
def measurement (fn : Nat) (x : Snapshot) (i : Nat) : List Byte :=
  if i == 5 then leBytes 8 x.status.toNat
  else if i == 6 then
    (x.cmrs.filter (fun c => fn == 0 || c.2.1 + 1 == fn)).flatMap (fun c => leBytes 2 c.1 ++ leBytes 32 c.2.2.toNat)
  else leBytes 32 ((x.digests[i - 1]?).getD 0).toNat

/-- What comes to a function's DOE mailbox or device interface: a virtual function is there once a partition map has been set (R304, R388). -/
def State.atFunction (s : State) (fn : Nat) (r : Host.Outcome State Fault Refusal) : Host.Outcome State Fault Refusal :=
  if s.hasFunction fn then r else .refused .notEnabled

/-- An answer of a DOE mailbox; response codes as SPDM numbers them (log entry 27). -/
def State.answerDoe (s : State) (fn code : Nat) (l : List Byte) : State := s.emit (.spdm fn code l)

/-- An SPDM error (log entry 27): 0x01 invalid request, 0x04 unexpected, 0x07 unsupported, 0x06 decrypt. -/
def State.doeError (s : State) (fn e : Nat) : State := s.answerDoe fn 0x7F [BitVec.ofNat 8 e]

/-- GET_VERSION ends a transcript and starts the negotiation afresh (R363). -/
def execGetVersion (fn : Nat) (s : State) : Host.Outcome State Fault Refusal :=
  s.atFunction fn <|
  .next ((s.setSpdm { s.spdmOf fn with version := true, caps := false, algs := false, transcript := none, session := none }).answerDoe fn 0x04 [0x00, 0x13])

/-- GET_CAPABILITIES (R362). -/
def execGetCapabilities (fn : Nat) (s : State) : Host.Outcome State Fault Refusal :=
  s.atFunction fn <|
  if (s.spdmOf fn).version then .next ((s.setSpdm { s.spdmOf fn with caps := true }).answerDoe fn 0x61 []) else .next (s.doeError fn 4)

/-- NEGOTIATE_ALGORITHMS: SM2, SM3-256 and SM4-GCM (R362). -/
def execNegotiateAlgorithms (fn : Nat) (offer : List SpdmAlg) (s : State) : Host.Outcome State Fault Refusal :=
  s.atFunction fn <|
  if !(s.spdmOf fn).caps then .next (s.doeError fn 4)
  else if offer.contains .sm2 && offer.contains .sm3 && offer.contains .sm4gcm then .next ((s.setSpdm { s.spdmOf fn with algs := true }).answerDoe fn 0x63 [])
  else .next (s.doeError fn 1)

/-- GET_DIGESTS: the digest of certificate slot 0 (R362). -/
def execGetDigests (fn : Nat) (s : State) : Host.Outcome State Fault Refusal :=
  s.atFunction fn <|
  if (s.spdmOf fn).algs then .next (s.answerDoe fn 0x01 (leBytes 32 (Config.sm3 Config.certChain).toNat)) else .next (s.doeError fn 4)

/-- GET_CERTIFICATE: slot 0 holds the device identity chain (R362). -/
def execGetCertificate (fn slot : Nat) (s : State) : Host.Outcome State Fault Refusal :=
  s.atFunction fn <|
  if !(s.spdmOf fn).algs then .next (s.doeError fn 4)
  else if slot != 0 then .next (s.doeError fn 1)
  else .next (s.answerDoe fn 0x02 Config.certChain)

/-- A responder nonce: SM3 over a secret and a counter (R360); how the two are joined stands in no rule (log entry 7). -/
def State.nonce (s : State) : BitVec 256 × State :=
  (Config.sm3 (Config.nonceSecret ++ leBytes 8 s.pkg.nonceCount), { s with pkg := { s.pkg with nonceCount := s.pkg.nonceCount + 1 } })

/-- CHALLENGE: a responder nonce, and a signature by the leaf key over the chain's digest and both nonces, which ends a
transcript (R360, R362, R363). -/
def execChallenge (fn slot : Nat) (nonce : BitVec 256) (s : State) : Host.Outcome State Fault Refusal :=
  s.atFunction fn <|
  if !(s.spdmOf fn).algs then .next (s.doeError fn 4)
  else if slot != 0 then .next (s.doeError fn 1)
  else
    let (x, s1) := s.nonce
    let own := leBytes 32 x.toNat
    .next ((s1.setSpdm { s1.spdmOf fn with transcript := none }).answerDoe fn 0x03 (own ++ leBytes 64 (Config.sm2Sign (leBytes 32 (Config.sm3 Config.certChain).toNat ++ leBytes 32 nonce.toNat ++ own)).toNat))

/-- GET_MEASUREMENTS: index 0 asks for the number of blocks, 0xFF for all; every response of a transcript comes from the snapshot
current at its first request, and a signed response, which carries a responder nonce, ends it (R360, R363). -/
def execGetMeasurements (fn index : Nat) (signed : Bool) (nonce : BitVec 256) (s : State) : Host.Outcome State Fault Refusal :=
  s.atFunction fn <|
  let x := s.spdmOf fn
  if !x.algs then .next (s.doeError fn 4)
  else if decide (6 < index) && index != 0xFF then .next (s.doeError fn 1)
  else
    let snap := x.transcript.getD s.snapshot
    let data : List Byte :=
      if index == 0 then [6] else if index == 0xFF then (List.range 6).flatMap (fun i => measurement fn snap (i + 1)) else measurement fn snap index
    if signed then
      let (v, s1) := s.nonce
      let own := leBytes 32 v.toNat
      .next ((s1.setSpdm { x with transcript := none }).answerDoe fn 0x60
        (data ++ own ++ leBytes 64 (Config.sm2Sign (data ++ leBytes 32 nonce.toNat ++ own)).toNat))
    else .next ((s.setSpdm { x with transcript := some snap }).answerDoe fn 0x60 data)

/-- KEY_EXCHANGE: the DRBG reseeds and gives the session's key, under the health tests of any key generation; refused while the entropy source is
marked failed. Its answer is signed, so a transcript ends (R360, R362, R363). -/
def execKeyExchange (fn : Nat) (share : BitVec 512) (s : State) : Host.Outcome State Fault Refusal :=
  s.atFunction fn <|
  if !(s.spdmOf fn).algs then .next (s.doeError fn 4)
  else if s.pkg.rngFail then .next (s.doeError fn 7)
  else
    let (health, s0) := s.collections
    match s0.generate health with
    | (s1, none) => .next (s1.doeError fn 7)
    | (s1, some key) =>
      let (v, s2) := s1.nonce
      let own := leBytes 32 v.toNat
      .next ((s2.setSpdm { s2.spdmOf fn with session := some 0, transcript := none, keyNo := s1.pkg.drbgCount }).answerDoe fn 0x64
        (own ++ leBytes 64 (Config.sm2Sign (leBytes 64 share.toNat ++ leBytes 32 key.toNat ++ own)).toNat))

/-- FINISH: the session is established when its verification data is right (R362). -/
def execFinish (fn : Nat) (verify : BitVec 256) (s : State) : Host.Outcome State Fault Refusal :=
  s.atFunction fn <|
  let x := s.spdmOf fn
  if x.session != some 0 then .next (s.doeError fn 4)
  else if verify == Config.finishMac x.keyNo then .next ((s.setSpdm { x with session := some 1 }).answerDoe fn 0x65 [])
  else .next ((s.setSpdm { x with session := none }).doeError fn 6)

/-- KEY_UPDATE, within a session (R362). -/
def execKeyUpdate (fn : Nat) (s : State) : Host.Outcome State Fault Refusal :=
  s.atFunction fn <|
  if (s.spdmOf fn).session == some 1 then .next (s.answerDoe fn 0x69 []) else .next (s.doeError fn 4)

/-- END_SESSION ends the session and the transcript (R362, R363). -/
def execEndSession (fn : Nat) (s : State) : Host.Outcome State Fault Refusal :=
  s.atFunction fn <|
  let x := s.spdmOf fn
  if x.session == some 1 then .next ((s.setSpdm { x with session := none, transcript := none }).answerDoe fn 0x6C []) else .next (s.doeError fn 4)

/-! ### Device interfaces and streams (R361) -/

/-- The moves of a TDI that a request may make (R361; log entry 28). -/
def tdiMove (frm dst : TdiState) : Bool :=
  match frm, dst with
  | .configUnlocked, .configLocked => true
  | .configLocked, .run => true
  | _, .configUnlocked => true
  | _, _ => false

/-- TDISP_REQUEST: a request within a secure session moves the TDI (R361; log entry 28). -/
def execTdispRequest (fn : Nat) (target : TdiState) (s : State) : Host.Outcome State Fault Refusal :=
  s.atFunction fn <|
  let x := s.spdmOf fn
  if fn == 0 || x.session != some 1 then .next (s.doeError fn 4)
  else if tdiMove x.tdi target then .next ((s.setSpdm { x with tdi := target }).answerDoe fn 0xFE [])
  else .next (s.doeError fn 1)

/-- IDE_KM_REQUEST: the key of one of 16 selective streams is set or dropped within a secure session (R361). -/
def execIdeKmRequest (fn stream : Nat) (key : Option (BitVec 256)) (s : State) : Host.Outcome State Fault Refusal :=
  s.atFunction fn <|
  let x := s.spdmOf fn
  let used := (s.spdm.map (fun y => y.streams.length)).foldl (· + ·) 0
  let old := x.streams.any (fun y => y.1 == stream)
  if x.session != some 1 then .next (s.doeError fn 4)
  else
    match key with
    | none => .next ((s.setSpdm { x with streams := x.streams.filter (fun y => y.1 != stream) }).answerDoe fn 0xFE [])
    | some k =>
      if decide (16 ≤ used) && !old then .next (s.doeError fn 1)
      else .next ((s.setSpdm { x with streams := x.streams.filter (fun y => decide (y.1 < stream)) ++ [(stream, k)] ++ x.streams.filter (fun y => decide (stream < y.1)) }).answerDoe fn 0xFE [])

/-- Kill every group of a context with class 22, detail 14 (R361). -/
def State.killCtx (s : State) (ctx : Nat) : State :=
  let gs := s.cores.flatMap (fun c => (c.groups.filter (fun g => (s.launch? g.launch).any (fun l => l.ctx == ctx))).map (fun g => (c.cl, c.co, g.slot)))
  gs.foldl (fun st (cl, co, g) => st.killGroup cl co g 0x16E 0 0 0 0) s

/-- What a TDI's ERROR does to a protected context: its queues halt, its groups are killed, its clusters are cleared, its keys are
erased (R361). -/
def State.tdiFail (s : State) (c : Context) : State :=
  let qs := ((s.part? c.part).map (fun p => p.queues.filter (fun q => (s.queue q).ctx == c.ctx))).getD []
  let s1 := (qs.foldl State.haltQ s).killCtx c.ctx
  (s1.clearFor c.ctx false).onCtx c.ctx (fun x => { x with ke := none, kt := none })

/-- TDI_ERROR (R361). -/
def execTdiError (fn : Nat) (s : State) : Host.Outcome State Fault Refusal :=
  s.atFunction fn <|
  if fn == 0 then .refused .notEnabled
  else
    let s1 := s.setSpdm { s.spdmOf fn with tdi := .error }
    .next ((s1.ctxs.filter (fun c => c.part + 1 == fn && c.prot)).foldl State.tdiFail s1)

end Sys2Proof.Machine
end

