-- ==== Sys2Proof/Machine/Service.lean ====
section
/-! DEFINITION. Reliability and service: errors found by ECC, HBM repair, in-field tests and spare cores, fabric ports, the clock
and the thermal trip, bring-up and recovery (R366 to R376, R388 to R393). -/

namespace Sys2Proof.Machine

/-! ### Errors and HBM repair (R368 to R370) -/

/-- A row's corrected errors. -/
def State.correctedOf (s : State) (r : Repair) : Nat := ((s.pkg.corrected.find? (fun x => x.1 == r)).map Prod.snd).getD 0

/-- Put a row's count in its place. -/
def putCorrected (r : Repair) (n : Nat) : List (Repair × Nat) → List (Repair × Nat)
  | [] => [(r, n)]
  | x :: l => if x.1 == r then (r, n) :: l else x :: putCorrected r n l

/-- A row lies in the package: 12 stacks of 32 channels (R2, R304). -/
def rowOk (stack channel : Nat) : Bool := decide (stack < 12) && decide (channel < 32)

/-- CORRECTABLE_ERROR: corrected in place and counted against its HBM row (R368). -/
def execCorrectableError (stack channel row : Nat) (s : State) : Host.Outcome State Fault Refusal :=
  if !rowOk stack channel then .refused .notEnabled
  else
    let r : Repair := ⟨stack, channel, row⟩
    .next { s with pkg := { s.pkg with corrected := putCorrected r (s.correctedOf r + 1) s.pkg.corrected } }

/-- UNCORRECTABLE_ERROR: every word of the granule is poisoned, and no other (R58, R368). -/
def execUncorrectableError (p : EccPlace) (s : State) : Host.Outcome State Fault Refusal :=
  match p with
  | .hbm a => .next (s.poisonBytes (a / 32 * 32) 32)
  | .bank die off => .next (s.poisonBytes (bankAddr die (off / 8 * 8)) 8)
  | .scratch cl co off => .next (s.poisonBytes (spAddr cl co (off / 8 * 8)) 8)
  | .vreg cl co t w => .next (s.onThread cl co t (fun x => x.setStk w { assocGet ⟨0, false⟩ x.stk w with poison := true }))
  | .greg cl co gs n => .next (s.onGroup cl co gs (fun g => g.setGP n { g.gReg n with poison := true }))
  | .pred cl co t n =>
    if n == 0 then .refused .notEnabled
    else .next (s.onThread cl co t (fun x => { x with preds := assocSet ⟨false, false⟩ x.preds n { x.p_ n with poison := true } }))
  | .qpred cl co gs n => .next (s.onGroup cl co gs (fun g => { g with q := assocSet ⟨false, false⟩ g.q n { g.qReg n with poison := true } }))

/-- The partition that owns an HBM stack (R304). -/
def State.partOfStack (s : State) (stack : Nat) : Nat := stack / s.stacksPerPart

/-- A repair of a row is due: asked for, or its corrected count has reached CETHR under AUTOPPR (R365, R369). -/
def State.repairDue (s : State) (r : Repair) : Bool :=
  s.pkg.wanted.contains r || (s.pkg.policy.getLsbD 17 && decide (bits s.pkg.policy.toNat 32 8 ≤ s.correctedOf r) && !s.pkg.hardRepair.contains r)

/-- The bank of a row has a spare row left (R369, R370). -/
def State.spareLeft (s : State) (r : Repair) : Bool :=
  decide ((s.pkg.spareRowsUsed.filter (fun x => x.stack == r.stack && x.channel == r.channel && Config.rowBank x.channel x.row == Config.rowBank r.channel r.row)).length < Config.spareRows)

/-- SOFT_REPAIR_START: the row's channel is quiesced, one of its stack at a time; a row whose bank has no spare row is scheduled
for hard repair (R369, R370). -/
def execSoftRepairStart (stack channel row : Nat) (s : State) : Host.Outcome State Fault Refusal :=
  let r : Repair := ⟨stack, channel, row⟩
  if !s.repairDue r || s.pkg.repairing.any (fun x => x.stack == stack) then .refused .notEnabled
  else
    let p := { s.pkg with wanted := s.pkg.wanted.filter (· != r), corrected := s.pkg.corrected.filter (fun x => x.1 != r) }
    if s.spareLeft r then .next ({ s with pkg := { p with repairing := p.repairing ++ [r] } }.notePart (s.partOfStack stack) none 5 0 0 0)
    else .next ({ s with pkg := { p with hardRepair := p.hardRepair ++ [r] } }.notePart (s.partOfStack stack) none 6 0 0 0)

/-- SOFT_REPAIR_DONE: the row's words stand in the spare row, with their poison, and the channel is released (R369). -/
def execSoftRepairDone (stack : Nat) (s : State) : Host.Outcome State Fault Refusal :=
  match s.pkg.repairing.find? (fun x => x.stack == stack) with
  | none => .refused .notEnabled
  | some r => .next { s with pkg := { s.pkg with repairing := s.pkg.repairing.filter (· != r), spareRowsUsed := s.pkg.spareRowsUsed ++ [r] } }

/-- REPAIR: a soft repair on the physical function's request (R369). -/
def execRepair (fn : Nat) (s : State) : Host.Outcome State Fault Refusal :=
  s.command fn 0x18 .physical (fun d _ st =>
    let r : Repair := ⟨bits d 0 4, bits d 8 8, bits d 32 32⟩
    if bits d 4 4 != 0 || bits d 16 16 != 0 || d / 2 ^ 64 != 0 || !rowOk r.stack r.channel then st.only stInvalid
    else ({ st with pkg := { st.pkg with wanted := if st.pkg.wanted.contains r then st.pkg.wanted else st.pkg.wanted ++ [r] } }, { status := stOk }))

/-! ### In-field tests and spare cores (R371 to R374) -/

/-- A service action holds the core, or it is out of use (R373, R374). -/
def CoreService.held (x : CoreService) : Bool := x.testing || x.testDue || x.replaceDue || x.fenced || x.failed

/-- A core of the package by logical number. -/
def coreOk (cl co : Nat) : Bool := decide (cl < Config.clusters) && decide (co < Config.coresPerCluster)

/-- IFT_DUE: a core's test is due, by its interval or brought forward by a mark; its block is asked to save, and the test starts
at once on a core that holds none (R366, R371, R373). -/
def execIftDue (cl co : Nat) (s : State) : Host.Outcome State Fault Refusal :=
  let c := s.core cl co
  if !coreOk cl co || c.svc.held || (bits s.pkg.policy.toNat 0 8 == 0 && !c.svc.forward) then .refused .notEnabled
  else if c.block.isNone then .next (s.onCore cl co (fun c => { c with svc := { c.svc with testing := true, forward := false } }))
  else .next ((s.onCore cl co (fun c => { c with svc := { c.svc with testDue := true, forward := false } })).requestSave cl co .test)

/-- Withdraw the save requests of a service action from a block and its GANG unit: a block that is saved is over no longer, and its parked threads
are relaunched into it, now or once what that reads can be read (R372). -/
def State.withdraw (s : State) (launch : Nat) (us : List Nat) : State :=
  s.cores.foldl (fun st c =>
    match c.block with
    | none => st
    | some b =>
      if b.launch == launch && us.contains b.index && (b.save == some .test || b.save == some .replace) then
        let st1 := st.onCore c.cl c.co (fun k => { k with block := k.block.map (fun b => { b with save := none, isOver := b.isOver && !b.parked }) })
        if !b.parked then st1
        else
          match st1.launch? launch with
          | some l => (match st1.unpark c b l with | (st2, none) => st2 | (_, some _) => st1)
          | none => st1
      else st) s

/-- DRAIN_LIMIT_EXPIRE: the save request is withdrawn, parked threads resume in the same block, the test is deferred (R372). -/
def execDrainLimitExpire (cl co : Nat) (s : State) : Host.Outcome State Fault Refusal :=
  let c := s.core cl co
  match c.block with
  | none => .refused .notEnabled
  | some b =>
    match s.launch? b.launch with
    | none => .refused .notEnabled
    | some l =>
      if !(c.svc.testDue || c.svc.replaceDue) || !(b.save == some .test || b.save == some .replace) then .refused .notEnabled
      else
        let s1 := s.withdraw l.id (l.unitBlocks b.index)
        .next ((s1.onCore cl co (fun c => { c with svc := { c.svc with testDue := false } })).noteCtx cl co l.ctx 1 0)

/-- IFT_COMPLETE: a pass returns the core to service; a core that fails is replaced under AUTOSPARE, else it waits for the
request (R371, R374). -/
def execIftComplete (cl co : Nat) (pass : Bool) (s : State) : Host.Outcome State Fault Refusal :=
  let c := s.core cl co
  if !c.svc.testing then .refused .notEnabled
  else
    let s1 := s.onCore cl co (fun c => { c with svc := { c.svc with testing := false, marks := 0, forward := false, failed := !pass } })
    if c.svc.replaceDue || (!pass && s.pkg.policy.getLsbD 16) then .next (s1.replaceCore cl co) else .next s1

/-- SPARE: a core is replaced on the physical function's request (R374). -/
def execSpare (fn : Nat) (s : State) : Host.Outcome State Fault Refusal :=
  s.command fn 0x19 .physical (fun d _ st =>
    let cl := bits d 0 4
    if bits d 4 4 != 0 || d / 2 ^ 15 != 0 || decide (Config.clusters ≤ cl) then st.only stInvalid
    else (st.startReplace cl (bits d 8 7), { status := stOk }))

/-! ### Ports, clock, heat (R376, R392, R393) -/

/-- A port by number. -/
def State.port? (s : State) (n : Nat) : Option Port := s.pkg.ports.find? (fun p => p.id == n)

/-- Change a port. -/
def State.onPort (s : State) (n : Nat) (f : Port → Port) : State := { s with pkg := { s.pkg with ports := mapIf (fun p => p.id == n) f s.pkg.ports } }

/-- PORT_RETRAIN_START: the port's routes are moved and it is retrained; a port that is down stays so (R376). Only the Markhor
log names the port: the entry has no address (R350). -/
def execPortRetrainStart (port : Nat) (s : State) : Host.Outcome State Fault Refusal :=
  match s.port? port with
  | none => .refused .notEnabled
  | some p =>
    if p.training || p.lanes == 0 then .refused .notEnabled
    else .next (s.parts.foldl (fun st x => (st.logPart x.idx none { kind := 6, cause := 0x167 }).emit (.log 3 7 port)) (s.onPort port (fun p => { p with training := true })))

/-- The Markhor log records that running launches stall on their accesses to a neighbour that has become unreachable (R376). -/
def State.logLost (s : State) (fabid : Nat) : State :=
  if s.unreachable fabid then ((s.launches.map (fun l => l.ctx)).eraseDups).foldl (fun st ctx => st.emit (.log 5 fabid ctx)) s else s

/-- PORT_RETRAIN_DONE: the port runs at 4 lanes, or at 2, or is down until reset (R376). -/
def execPortRetrainDone (port lanes : Nat) (s : State) : Host.Outcome State Fault Refusal :=
  match s.port? port with
  | none => .refused .notEnabled
  | some p =>
    if !p.training || !([0, 2, 4].contains lanes) then .refused .notEnabled
    else
      let s1 := s.onPort port (fun p => { p with training := false, lanes := lanes })
      .next (if lanes == 0 then s1.logLost (Config.portTo port) else s1)

/-- THERMAL_CLOCK_STEP: the clock moves by 100 MHz between 1.2 GHz and 2.5 GHz; only timing changes (R392). -/
def execThermalClockStep (up : Bool) (s : State) : Host.Outcome State Fault Refusal :=
  if up then (if 2500 ≤ s.pkg.clockMHz then .refused .notEnabled else .next { s with pkg := { s.pkg with clockMHz := s.pkg.clockMHz + 100 } })
  else (if s.pkg.clockMHz ≤ 1200 then .refused .notEnabled else .next { s with pkg := { s.pkg with clockMHz := s.pkg.clockMHz - 100 } })

/-- THERMAL_TRIP: issue stops, class 22, detail 14 is written for every resident group, and the package is held in reset (R393). -/
def execThermalTrip (s : State) : Host.Outcome State Fault Refusal :=
  if !s.pkg.up then .refused .notEnabled
  else
    let gs := s.cores.flatMap (fun c => c.groups.filterMap (fun g => (s.launch? g.launch).map (fun l => (c.cl, c.co, g.slot, l.ctx))))
    let s1 := gs.foldl (fun (st : State) (x : Nat × Nat × Nat × Nat) =>
      st.logCtx x.1 x.2.1 x.2.2.2 { kind := 6, cause := 0x16E, cluster := x.1, core := x.2.1, gslot := x.2.2.1 }) s
    .next ({ s1 with pkg := { s1.pkg with up := false, held := true } }.emit (.log 4 0 0))

/-! ### Bring-up (R388, R389) -/

/-- The package after a reset: what is kept in fuses, in flash, on NVMe and in memory stands (R304, R364, R374, R378, R388); a cluster whose clear has failed
serves again only after a repair and a clear (R313). -/
def State.rebooted (s : State) : State :=
  { State.reset with
    inputs := s.inputs, oracle := s.oracle, tick := s.tick, now := s.now, nextId := s.nextId, outputs := s.outputs, mem := s.mem, poison := s.poison,
    pkg := { State.reset.pkg with
      owner := s.pkg.owner, ownerFuses := s.pkg.ownerFuses, staged := s.pkg.staged, patches := s.pkg.patches, patchesBefore := s.pkg.patchesBefore, cmdCounter := s.pkg.cmdCounter, fusesBurned := s.pkg.fusesBurned, signers := s.pkg.signers, floors := s.pkg.floors,
      fwSvn := s.pkg.fwSvn, spareRowsUsed := s.pkg.spareRowsUsed, recordings := s.pkg.recordings, nextHandle := s.pkg.nextHandle, drbgCount := s.pkg.drbgCount, nonceCount := s.pkg.nonceCount },
    clusters := (List.range Config.clusters).map (fun k => let old := s.cluster k; { id := k, spares := old.spares, failed := old.failed, repaired := old.repaired }),
    cores := (s.cores.filter (fun c => c.svc.phys != c.co || c.svc.fenced)).map (fun c =>
      { Core.fresh c.cl c.co with svc := { c.svc with testing := false, testDue := false, replaceDue := false, marks := 0, forward := false } }) }

/-- The failures of bring-up that the Markhor log on NVMe records, by step: a copy in flash, the kernel, an HBM stack, a port, the entropy
source; none where its drives do not work (R388). -/
def bringUpNotes (b : BringUp) : List Output :=
  if !b.nvmeOk then []
  else
    (if b.firstStageOk then [] else [.log 6 1 0]) ++ (if b.kernelOk then [] else [.log 6 3 0]) ++
      (if !b.kernelOk && !b.previousOk then []
       else b.stackFails.map (fun h => .log 6 4 h) ++ ((b.portLanes.zipIdx.filter (fun x => x.1 == 0)).map (fun x => .log 7 4 x.2)) ++
         (if b.entropyOk then [] else [.log 6 5 0]))

/-- What the physical function answers to a configuration request: Request Retry Status until step 5 is complete (R388). -/
def State.configRetry (s : State) : Bool := !s.pkg.up

/-- BRING_UP: the five steps after reset; a failed first stage or kernel leaves only the recovery mailbox. What step 3 cannot
load from NVMe is the verified copy from before: the patch set before the last commit, and no staged firmware (R388, R389). A port has 4 lanes or 2, or is
down (R390). -/
def execBringUp (b : BringUp) (s : State) : Host.Outcome State Fault Refusal :=
  if s.pkg.up || b.portLanes.any (fun n => n != 0 && n != 2 && n != 4) then .refused .notEnabled
  else
    let s1 := s.rebooted
    if !(b.firstStageOk || b.secondCopyOk) then .next { s1 with pkg := { s1.pkg with recovery := true, hardRepair := s.pkg.hardRepair } }
    else if !(b.kernelOk || b.previousOk) then
      .next { s1 with pkg := { s1.pkg with recovery := true, nvme := b.nvmeOk, hardRepair := s.pkg.hardRepair }, outputs := s1.outputs ++ bringUpNotes b }
    else
      let fromNvme := b.nvmeOk && b.kernelOk
      .next { s1 with
        outputs := s1.outputs ++ bringUpNotes b
        pkg := { s1.pkg with up := true, staged := if fromNvme then s1.pkg.staged else none, patches := if fromNvme then s1.pkg.patches else s1.pkg.patchesBefore,
                              nvme := b.nvmeOk, rngFail := !b.entropyOk, fabid := b.fabid, digests := b.digests,
                             ports := (List.range 32).map (fun i => { id := i, lanes := (b.portLanes[i]?).getD 4 }) },
        clusters := s1.clusters.map (fun k => { k with outOfService := b.stackFails.any (fun h => h / 2 == k.id / 2) }) }

/-- RECOVERY_MAILBOX_IMAGE: the recovery mailbox accepts a flash image signed under the device signer (R388). -/
def execRecoveryMailboxImage (img : List Byte) (sig : BitVec 512) (s : State) : Host.Outcome State Fault Refusal :=
  if !s.pkg.recovery then .refused .notEnabled
  else if Config.sm2Verify Config.deviceSigner [] img sig then .next { s with pkg := { s.pkg with flashImage := true, recovery := false } }
  else .next s

/-- The rows whose repair may start. -/
def State.dueRows (s : State) : List Repair := (s.pkg.wanted ++ s.pkg.corrected.map Prod.fst).eraseDups.filter s.repairDue

/-- The steps of the Markhor that may be taken: a commit and repairs (R369, R375). -/
def State.markhorSteps (s : State) : List Instr :=
  (if s.pkg.staged.any (fun x => !(x.kernel && s.mailboxes.any (fun m => m.busy))) then [.fwCommit] else []) ++
    ((s.dueRows.filter (fun r => !s.pkg.repairing.any (fun x => x.stack == r.stack))).map (fun r => .softRepairStart r.stack r.channel r.row)) ++
    s.pkg.repairing.map (fun r => .softRepairDone r.stack)

/-- The cores whose test a mark has brought forward and that no test or replacement holds (R366). -/
def State.testsForward (s : State) : List (Nat × Nat) :=
  (s.cores.filter (fun c => c.svc.forward && !c.svc.held && coreOk c.cl c.co)).map (fun c => (c.cl, c.co))

end Sys2Proof.Machine
end

