-- ==== Sys2Proof/Machine/Sessions.lean ====
section
/-! DEFINITION. Record and replay sessions: their start and stop, the ring between the homes and NVMe, hash boundaries, and gates
(R378, R380 to R385). -/

namespace Sys2Proof.Machine

/-! ### SESSION_START and SESSION_STOP (R378) -/

/-- Bank range i of a session descriptor: address and length. -/
def sessBkr (d i : Nat) : Nat × Nat := (bits d (256 + 64 * i) 32, bits d (256 + 64 * i + 32) 26)

/-- A session descriptor has a zero field that is not zero, or a value out of range (R378). -/
def State.sessBad (s : State) (d : Nat) (c : Context) : Bool :=
  let mode := bits d 0 2
  let log := bits d 64 64
  let len := bits d 128 64
  let us := bits d 224 32
  bits d 2 2 != 0 || bits d 8 8 != 0 || bits d 192 32 != 0 || (List.range 4).any (fun i => bits d (256 + 64 * i + 58) 6 != 0) ||
    mode == 0 || mode == 3 || (mode == 1 && (bits d 16 32 != 0 || us != 0)) || (mode == 2 && (us == 0 || decide (1000000 < us))) ||
    len % 2 ^ 16 != 0 || decide (len < 2 ^ 20) || decide (2 ^ 32 < len) || log % 2 ^ 16 != 0 || decide (s.ordinaryCap c.part < log + len) ||
    !c.replay || c.prot || (List.range 4).any (fun i => let (a, n) := sessBkr d i; n != 0 && (bkPart c a n).isNone)

/-- A recording by number. -/
def State.recording? (s : State) (n : Nat) : Option Recording := s.pkg.recordings.find? (fun r => r.id == n)

/-- A session number not in use. -/
def State.freeSession (s : State) : Nat := firstFree (s.pkg.recordings.map (fun r => r.id) ++ s.sessions.map (fun x => x.id)) (2 ^ 32) 1

/-- A context holds a resident block, a spawn-ring record or a queued packet (R378). -/
def State.sessBusy (s : State) (ctx : Nat) : Bool :=
  s.cores.any (fun c => c.block.any (fun b => b.ctx == ctx)) ||
    s.clusters.any (fun k => k.rings.any (fun (l, head, tail) => head != tail && (s.launch? l).any (fun x => x.ctx == ctx))) ||
    s.parts.any (fun p => p.queues.any (fun q => (s.queue q).ctx == ctx && (s.queue q).rd != (s.queue q).wr))

/-- SESSION_START (R378, R388). -/
def execSessionStart (fn : Nat) (s : State) : Host.Outcome State Fault Refusal :=
  s.command fn 6 .virtual (fun d _ st =>
    if d / 2 ^ 512 != 0 then st.only stInvalid
    else
      match st.named fn (bits d 48 16) with
      | .error e => st.only e
      | .ok c =>
        let mode := bits d 0 2
        let old := st.recording? (bits d 16 32)
        if st.sessBad d c || (mode == 2 && old.any (fun r => r.ck != bits d 4 4)) then st.only stInvalid
        else if !st.pkg.nvme || (mode == 1 && !Config.recordingRoom st.pkg.recordings.length) then st.only stNospace
        else if (st.session? c.ctx).isSome || st.sessBusy c.ctx then st.only stBusy
        else if mode == 2 && old.isNone then st.only 4
        else
          let id := st.freeSession
          let x : Session :=
            { id := id, ctx := c.ctx, record := mode == 1, ck := bits d 4 4,
              bkr := ((List.range 4).map (sessBkr d)).filter (fun r => r.2 != 0),
              gateUs := bits d 224 32, ring := bits d 64 64, ringLen := bits d 128 64, follow := bits d 16 32,
              packets := if mode == 2 then (old.map (fun r => r.packets)).getD [] else [] }
          ({ st with sessions := st.sessions ++ [x] }, { status := stOk, result := BitVec.ofNat 56 id }))

/-- The words of a packet of the ring. -/
def State.ringPacket (s : State) (x : Session) (pos : Nat) : List DWord := (List.range 8).map (fun i => BitVec.ofNat 64 (s.ringWord x.ctx (pos + 8 * i)))

/-- The packets of a recording that stand in the ring. -/
def State.ringPackets (s : State) (x : Session) : List (List DWord) := (List.range ((x.tail - x.head) / 64)).map (fun i => s.ringPacket x (x.head + 64 * i))

/-- The records that a stream of a recording still holds: those that wait for a packet, and its run. -/
def Stream.waiting (t : Stream) : List LogRec := t.pending ++ (match t.run with | some (k, n) => [.run k n t.runBy] | none => [])

/-- A stream's records as packets. -/
def packetsOf : Nat → List LogRec → List (List LogRec)
  | 0, _ => []
  | fuel + 1, l => if l.isEmpty then [] else let (w, rest) := takeRecs 7 l; w :: packetsOf fuel rest

/-- What a recording's homes still hold goes into the ring, and the end marker behind it; a recording that has stopped before gets its end marker
alone (R378, R380, R381). -/
def State.endRecording (s : State) (x : Session) : State :=
  let s1 := if x.truncated then s else
    x.streams.foldl (fun st t => (packetsOf (t.waiting.length + 1) t.waiting).foldl (fun st l => st.writePacket x.ctx t l) st) s
  match s1.session? x.ctx, s1.ctx? x.ctx with
  | some y, some c => s1.putPacket c y ((⟨3, 0, 0, [], 0, none, [], false, []⟩ : Stream).word :: endWord :: List.replicate 6 padWord) []
  | _, _ => s1

/-- SESSION_STOP: a recording gets its end marker and is closed under its session number (R378). -/
def execSessionStop (fn : Nat) (s : State) : Host.Outcome State Fault Refusal :=
  s.command fn 7 .virtual (fun d _ st =>
    match st.sessions.find? (fun x => x.id == d) with
    | none => st.only stInvalid
    | some x =>
      match st.named fn x.ctx with
      | .error e => st.only e
      | .ok _ =>
        if st.sessBusy x.ctx then st.only stBusy
        else
          let close := fun (u : State) => { u with sessions := u.sessions.filter (fun y => y.id != x.id) }
          if x.record then
            let st1 := st.endRecording x
            let y := (st1.session? x.ctx).getD x
            let st2 := close st1
            ({ st2 with pkg := { st2.pkg with recordings := st2.pkg.recordings ++
                         [{ id := x.id, ck := x.ck, packets := y.packets ++ st1.ringPackets y, truncated := y.truncated }] } }, { status := stOk })
          else (close st, { status := stOk }))

/-! ### LOG_DRAIN and LOG_FILL (R378, R381, R385) -/

/-- LOG_DRAIN: a packet goes from the ring to NVMe; a failed drain is event 3, and recording stops (R378, R385). -/
def execLogDrain (ctx : Nat) (ok : Bool) (s : State) : Host.Outcome State Fault Refusal :=
  match s.session? ctx with
  | none => .refused .notEnabled
  | some x =>
    if !x.record || x.truncated || x.tail == x.head then .refused .notEnabled
    else
      let w := s.ringPacket x x.head
      if ok then .next (s.onSession ctx (fun y => { y with head := y.head + 64, packets := y.packets ++ [w], drains := y.drains.drop 1 }))
      else .next ((s.onSession ctx (fun y => { y with truncated := true })).diverge ctx 3 (bits ((w.headD 0).toNat) 14 2) (x.drains.headD []))

/-- The ring position below which every record has been used. -/
def Session.usedTo (x : Session) : Nat := (x.streams.flatMap (fun t => t.at_)).foldl min x.tail / 64 * 64

/-- The records of a packet that its stream's gate, or the compare of hashes, is to read, by their number in the packet: pads are none, and of the
hash stream only the hashes with their sums; `sum` tells that the word before is a hash (R380, R383, R384). -/
def packetRecs (hash : Bool) : Bool → Nat → List DWord → List Nat
  | _, _, [] => []
  | sum, i, d :: l =>
    if hash then
      if sum then i :: packetRecs hash false (i + 1) l
      else if d.toNat / 2 ^ 62 == 1 && !l.isEmpty then i :: packetRecs hash true (i + 1) l
      else packetRecs hash false (i + 1) l
    else if gateRec d.toNat == .pad then packetRecs hash false (i + 1) l
    else i :: packetRecs hash false (i + 1) l

/-- LOG_FILL: the next packet of the recording goes into the ring, ahead of the gates (R378). -/
def execLogFill (ctx : Nat) (s : State) : Host.Outcome State Fault Refusal :=
  match s.session? ctx with
  | none => .refused .notEnabled
  | some x =>
    match x.packets with
    | [] => .refused .notEnabled
    | w :: rest =>
      if x.record || decide (x.usedTo + x.ringLen < x.tail + 64) then .refused .notEnabled
      else
        let s1 := s.onSession ctx (fun y => { y with packets := rest })
        let follows := fun (h : Nat × Nat × Nat) => if h == hashHome then x.compares else !(x.stream h).open_
        let s2 := match (packetHome w).filter follows with
          | some h => s1.onSession ctx (fun y => let t := y.stream h; y.setStream { t with at_ := t.at_ ++ (packetRecs (h == hashHome) false 1 (w.drop 1)).map (fun i => y.tail + 8 * i) })
          | none => s1
        match s.ctx? ctx with
        | some c => .next (s2.putPacket c x w [])
        | none => .next s2

/-! ### HASH_BOUNDARY (R382, R384, R385) -/

/-- The next unconsumed hash of a key among the records of the hash stream: its count and sum, and the records left. -/
def findHash (read : Nat → Nat) (key : Nat) : List Nat → List Nat → Option (Nat × Nat × List Nat)
  | _, [] => none
  | _, [_] => none
  | pre, p :: q :: l =>
    let w := read p
    if w / 2 ^ 62 == 1 then (if bits w 32 24 == key then some (bits w 0 32, read q, pre ++ l) else findHash read key (pre ++ [p, q]) l)
    else findHash read key (pre ++ [p]) (q :: l)

/-- What becomes of a boundary: the state after it, or none while the Chamois cannot take it yet. -/
def State.boundary (s : State) (cl co gs : Nat) (g : Group) (x : Session) (n : Nat) (sum : DWord) : Option State :=
  let key := g.key.getD 0xFFFFFF
  if x.record then
    if x.truncated then some s
    else if x.room then
      some ((s.onSession x.ctx (fun y => let t := y.stream hashHome; y.setStream { t with pending := t.pending ++ [.hash key n sum [(cl, co, gs, g.born)]] })).flushStream x.ctx hashHome false)
    else none
  else if !x.compares then some s
  else
    match findHash (s.ringWord x.ctx) key [] (x.stream hashHome).at_ with
    | some (m, h, rest) =>
      let s1 := s.onSession x.ctx (fun y => let t := y.stream hashHome; y.setStream { t with at_ := rest, used := t.used + 2 })
      some (if m == n && h == sum.toNat then s1 else s1.diverge x.ctx 0 3 [(cl, co, gs, g.born)])
    | none => if x.allIn hashHome then some (s.diverge x.ctx 0 3 [(cl, co, gs, g.born)]) else none

/-- A boundary of a group waits for the Chamois: the state after it. -/
def State.boundaryNext (s : State) (cl co gs : Nat) : Option State :=
  match (s.core cl co).group? gs with
  | none => none
  | some g =>
    match g.bounds with
    | [] => none
    | (n, sum) :: _ =>
      let done := fun (st : State) => (st.onGroup cl co gs (fun g => { g with bounds := g.bounds.drop 1 })).groupGone cl co gs
      match (s.launch? g.launch).bind (fun l => s.session? l.ctx) with
      | none => some (done s)
      | some x => (s.boundary cl co gs g x n sum).map done

/-- HASH_BOUNDARY: the Chamois logs or compares a group's count and chunk sum (R382, R384). -/
def execHashBoundary (cl co gs : Nat) (s : State) : Host.Outcome State Fault Refusal :=
  match s.boundaryNext cl co gs with
  | some s1 => .next s1
  | none => .refused .notEnabled

/-! ### GATE_ADMIT and GATE_TIMEOUT (R383, R385) -/

/-- The parts of a unit of an access are performed at its home. -/
def State.performAt (s : State) (a : Access) (ps : List Part) : State :=
  match a.op, ps with
  | .update .., p :: _ => s.performUpdate a p
  | _, _ => s.performUnit a (ps, none)

/-- The gates, by home, that an access waits at in a replay and that its thread's order lets it pass next. -/
def State.atGates (s : State) (a : Access) : List (Nat × Nat × Nat) :=
  if (s.session? a.ctx).any (fun x => !x.record) then a.homes.filter (s.homeReady a) else []

/-- The state after a gate admits an access and performs it, where one does (R383). -/
def State.gateNext (s : State) (a : Access) : Option State :=
  (s.atGates a).findSome? (fun h => (s.gateTake a.ctx h a.key a.who).map (fun st => st.performAt a (a.partsAt h)))

/-- GATE_ADMIT: a held access whose key matches the current run is admitted, and performed there and then: a replay performs at each home the order
that the home logged (R383, R387). -/
def execGateAdmit (id : Nat) (s : State) : Host.Outcome State Fault Refusal :=
  match s.acc? id with
  | none => .refused .notEnabled
  | some a => match s.gateNext a with | some s1 => .next s1 | none => .refused .notEnabled

/-- The key of a stream's current run, where the gate follows one. -/
def State.runKey (s : State) (ctx : Nat) (t : Stream) : Option Nat :=
  match t.run with
  | some (k, _ + 1) => some k
  | _ =>
    match t.at_.find? (fun p => gateRec (s.ringWord ctx p) != .pad) with
    | none => none
    | some p => (match gateRec (s.ringWord ctx p) with | .run k _ => some k | _ => none)

/-- GATE_TIMEOUT: the run's key has presented no access for GATEUS while another is held at the gate of a session's stream: event 2,
and the gate stops following (R383, R385). -/
def execGateTimeout (ctx stream : Nat) (s : State) : Host.Outcome State Fault Refusal :=
  match s.session? ctx with
  | none => .refused .notEnabled
  | some x =>
    match x.streams[stream]? with
    | none => .refused .notEnabled
    | some t =>
      let h := (t.kind, t.die, t.index)
      let keys := (s.accsHeld ctx h).map (fun a => a.key) ++ (s.cmdsHeld ctx h).map (fun m => m.key)
      match s.runKey ctx t with
      | none => .refused .notEnabled
      | some k =>
        if x.record || t.open_ || keys.isEmpty || keys.contains k then .refused .notEnabled
        else .next ((s.openGate ctx h).diverge ctx 2 h.1 (s.heldAt ctx h))

/-- The steps of the Chamois that may be taken. -/
def State.chamoisSteps (s : State) : List Instr :=
  (s.cores.flatMap (fun c => (c.groups.filter (fun g => (s.boundaryNext c.cl c.co g.slot).isSome)).map (fun g => .hashBoundary c.cl c.co g.slot))) ++
    ((s.accs.filter (fun a => (s.gateNext a).isSome)).map (fun a => .gateAdmit a.id)) ++
    (s.sessions.filterMap (fun x =>
      if x.record then (if !x.truncated && x.tail != x.head then some (.logDrain x.ctx true) else none)
      else if !x.packets.isEmpty && decide (x.tail + 64 ≤ x.usedTo + x.ringLen) then some (.logFill x.ctx) else none))

end Sys2Proof.Machine
end

