-- ==== Sys2Proof/Machine/Install.lean ====
section
/-! DEFINITION. Loading an image: its checks, the translation to resident form, its installation (R42, R98, R290 to R302). -/

namespace Sys2Proof.Machine

/-! ### The header and the tables (R290 to R293) -/

/-- A range of bytes of an image. -/
structure Section where
  off : Nat
  len : Nat
deriving DecidableEq, Repr

/-- The bytes of a section. -/
def Section.of (x : Section) (l : List Byte) : List Byte := (l.drop x.off).take x.len

/-- Two sections share no byte. -/
def Section.apart (x y : Section) : Bool := x.len == 0 || y.len == 0 || decide (x.off + x.len ≤ y.off) || decide (y.off + y.len ≤ x.off)

/-- The fields of a header (R291). -/
structure ImageHdr where
  svn : Nat
  level : Nat
  signer : BitVec 128
  name : BitVec 512
  table : Section
  code : Section
  data : Section
  safe : Section
  slots : Assoc DWord
  contract : List Nat
deriving DecidableEq, Repr

/-- Read a header. -/
def imageHdr (h : Nat) : ImageHdr :=
  { svn := bits h 64 32, level := bits h 48 16, signer := BitVec.ofNat 128 (bits h 128 128), name := BitVec.ofNat 512 (bits h 256 512),
    table := ⟨bits h 800 32, 32 * (bits h 832 16 + 1)⟩, code := ⟨bits h 864 32, bits h 896 32⟩, data := ⟨bits h 928 32, bits h 960 32⟩,
    safe := ⟨bits h 992 32, bits h 1024 32⟩,
    slots := ((List.range 8).filter (fun n => bit h (1056 + n))).map (fun n => (n, BitVec.ofNat 64 (bits h (1088 + 64 * n) 64))),
    contract := (List.range 11).map (fun i => bits h (1600 + 16 * i) 16) }

/-- Pairwise disjoint sections. -/
def sectionsApart : List Section → Bool
  | [] => true
  | x :: l => l.all x.apart && sectionsApart l

/-- Step 1 of R295: MAGIC, FMT, the header's zero fields, IMGLEN, the sections. -/
def formatOk (h len : Nat) : Bool :=
  let x := imageHdr h
  let ss := [x.table, x.code, x.data, x.safe]
  decide (320 ≤ len) && bits h 0 32 == 0x4954594E && bits h 32 16 == 1 && bits h 96 32 == 0 && bits h 848 16 == 0 &&
    bits h 1064 24 == 0 && bits h 1776 272 == 0 && bits h 768 32 == len &&
    ss.all (fun y => y.off % 8 == 0 && decide (y.off + y.len ≤ len - 64)) && sectionsApart (⟨0, 256⟩ :: ss)

/-- The queue depths of the Saruz (R294). -/
def contractSaruz : List Nat := [12, 2, 32, 32, 8, 64, 4, 16, 64, 4096, 1]

/-- Cut a byte string into entries of a length. -/
def entries (len : Nat) : Nat → List Byte → List Nat
  | 0, _ => []
  | k + 1, l => leNat (l.take len) :: entries len k (l.drop len)

/-- A kernel header (R292): the procedure, whether its fields have their form, its entry as a number. -/
structure KernelHdr where
  proc : Proc
  raw : Nat
deriving DecidableEq, Repr

/-- Read a kernel header. -/
def kernelHdr (n : Nat) : KernelHdr :=
  { raw := n,
    proc := { num := bits n 0 16, f := bits n 16 8, args := bits n 24 8, handler := if bits n 32 16 == 0xFFFF then none else some (bits n 32 16),
              coff := bits n 64 32, clen := bits n 96 32, pool := bits n 128 32, poolLen := bits n 160 32, spIdx := bits n 192 32,
              spCnt := bits n 224 16 } }

/-- Read a safe-point entry (R293). -/
def safePointOf (n : Nat) : SafePoint :=
  { k := bits n 0 8, save := bits n 16 16, restore := bits n 32 16, mask := BitVec.ofNat 128 (bits n 64 128),
    keep := (List.range (bits n 8 8)).map (fun i => (bits n (192 + 64 * i) 32, bits n (224 + 64 * i) 32)) }

/-- The procedure of a number in a table. -/
def procIn (ps : List KernelHdr) (n : Nat) : Option Proc := (ps.map KernelHdr.proc).find? (fun p => p.num == n)

/-- Strictly rising numbers. -/
def rising : List Nat → Bool
  | a :: b :: l => decide (a < b) && rising (b :: l)
  | _ => true

/-- A kernel header within its sections, its handler a procedure without arguments (R28, R221, R292, R295). -/
def kernelOk (x : ImageHdr) (ps : List KernelHdr) (k : KernelHdr) : Bool :=
  let p := k.proc
  bits k.raw 48 16 == 0 && bits k.raw 240 16 == 0 && decide (8 ≤ p.f) && decide (p.f ≤ 128) && p.f % 8 == 0 && decide (p.args ≤ p.f) &&
    decide (p.coff + p.clen ≤ x.code.len) && p.pool % 16 == 0 && decide (p.poolLen ≤ 65536) && decide (p.pool + p.poolLen ≤ x.code.len) &&
    decide (p.spCnt ≤ 256) && decide (56 * (p.spIdx + p.spCnt) ≤ x.safe.len) &&
    (match p.handler with | none => true | some h => (procIn ps h).any (fun y => y.args == 0))

/-- The safe-point entries of a procedure (R293). -/
def safesOf (safe : List Byte) (p : Proc) : List Nat := entries 56 p.spCnt (safe.drop (56 * p.spIdx))

/-- A safe-point entry that the Markhor accepts (R98, R293). -/
def safeOk (ps : List KernelHdr) (p : Proc) (n : Nat) : Bool :=
  let e := safePointOf n
  let fits := fun (k : Nat) => (procIn ps k).any (fun y => y.f == p.f && y.args == 0)
  bits n 48 16 == 0 && decide (bits n 8 8 ≤ 4) && bits n (192 + 64 * bits n 8 8) (64 * (4 - bits n 8 8)) == 0 &&
    fits e.save && fits e.restore && e.mask.toNat / 2 ^ p.f == 0 && e.keep.all (fun r => decide (r.1 + r.2 ≤ 768 * 1024))

/-! ### Procedures as trees (R201 to R208) -/

/-- An operation of a clause: the instruction, its canonical fields, its bytes. -/
structure COp where
  ins : Instr
  opc : Nat
  ops : Ops
  bytes : List Byte
deriving DecidableEq, Repr

/-- A node in the order of the code: its depth, header, header bytes, and the operations of a clause. -/
structure CNode where
  depth : Nat
  hdr : Header
  head : List Byte
  ops : List COp
deriving DecidableEq, Repr

/-- Decode so many operations; none where an encoding is illegal or runs past the clause (R208). -/
def parseOps : Nat → List Byte → Option (List COp × List Byte)
  | 0, l => some ([], l)
  | n + 1, l =>
    match decodeOp l with
    | .op i rest =>
      (match Instr.fields i, parseOps n rest with
       | some (opc, _, o), some (xs, r) => some (⟨i, opc, o, l.take (l.length - rest.length)⟩ :: xs, r)
       | _, _ => none)
    | _ => none

/-- The body of a clause in portable form (R27, R203): one segment, no waits, no flags. -/
def parseClause (l : List Byte) : Option (List COp) :=
  match decodeSegment l with
  | .error _ => none
  | .ok sg =>
    if sg.wait != 0 || sg.set0.isSome || sg.set1.isSome then none
    else
      match parseOps sg.ops (l.drop 4) with
      | some (xs, []) => some xs
      | _ => none

/-- Decode so many sibling nodes of a depth, each of exactly its LEN (R30, R202). -/
def parseNodes : Nat → Nat → Nat → List Byte → Option (List CNode × List Byte)
  | 0, _, _, _ => none
  | _ + 1, _, 0, l => some ([], l)
  | fuel + 1, d, n + 1, l =>
    match decodeHeader l with
    | .error _ => none
    | .ok h =>
      if d > 16 || h.len > l.length then none
      else
        let body := (l.take h.len).drop h.size
        let inner : Option (List CNode) :=
          if h.kind == .clause then
            (if h.count == 1 then (parseClause body).map (fun xs => [⟨d, h, l.take h.size, xs⟩]) else none)
          else
            match parseNodes fuel (d + 1) h.count body with
            | some (xs, []) => some (⟨d, h, l.take h.size, []⟩ :: xs)
            | _ => none
        match inner, parseNodes fuel d n (l.drop h.len) with
        | some xs, some (ys, r) => some (xs ++ ys, r)
        | _, _ => none

/-- The tree of a procedure's code: one root of kind SEQ (R201, R292). -/
def parseProc (l : List Byte) : Option (List CNode) :=
  match parseNodes (l.length + 2) 0 1 l with
  | some (r :: xs, []) => if r.hdr.kind == .seq then some (r :: xs) else none
  | _ => none

/-! ### Structure checks (R24, R25, R37, R42, R93, R208) -/

/-- A loop (R29). -/
def nodeLoop : NodeKind → Bool
  | .loopWhile .. | .loopUntil .. | .loopCount .. => true
  | _ => false

/-- An exit scope (R39). -/
def nodeScope (k : NodeKind) : Bool := k == .block || nodeLoop k

/-- A call offset and a target (R25). -/
def callFits (ps : List KernelHdr) (f off target : Nat) : Bool :=
  decide (8 ≤ off) && decide (off ≤ f - 8) && (procIn ps target).any (fun y => decide (off + y.args ≤ f))

/-- The nodes inside a node, of those that follow it. -/
def inside (d : Nat) (rest : List CNode) : List CNode := rest.takeWhile (fun y => decide (d < y.depth))

/-- A node's own conditions. -/
def nodeOk (ps : List KernelHdr) (p : Proc) (safes : List SafePoint) (x : CNode) (rest : List CNode) : Bool :=
  nodeFits p.f x.hdr.kind &&
  (match x.hdr.kind with
   | .loopWhile .. | .loopUntil .. | .loopCount .. =>
     (loopBound x.hdr.kind).1.isSome || (inside x.depth rest).any (fun y => match y.hdr.kind with | .safe _ => true | _ => false)
   | .call t off => callFits ps p.f off t
   | .callI _ off ts => ts.all (callFits ps p.f off)
   | .safe n => safes.any (fun e => e.k == n)
   | _ => true)

/-- An operation's conditions, under the kinds of the nodes that enclose it (R18, R42, R93, R204). -/
def copOk (ps : List KernelHdr) (f : Nat) (up : List NodeKind) (o : COp) : Bool :=
  let k := o.ops.imm.toNat % 16
  specFits f o.ops.d && specFits f o.ops.a && specFits f o.ops.b && specFits f o.ops.c &&
  (match compact o.ins with
   | some (_, s, c) =>
     let pd := o.ops.d.names == .p
     (pd || decide (c.d.val < f)) && (s == .ri || decide (c.a.val < f)) && (s == .ri || s == .rri || s == .rrm || (decide (c.b.val < f) && decide (c.c.val < f)))
   | none => true) &&
  (if o.opc == 0x001 then decide (k ≤ (up.filter nodeScope).length)
   else if o.opc == 0x002 then decide (k ≤ (up.filter nodeLoop).length)
   else if o.opc == 0x00C then (procIn ps (o.ops.imm.toNat % 65536)).any (fun y => decide (3 ≤ y.args))
   else true)

/-- Every node and operation of a tree, with the kinds and depths of the nodes that enclose it. -/
def treeOk (ps : List KernelHdr) (p : Proc) (safes : List SafePoint) : List (Nat × NodeKind) → List CNode → Bool
  | _, [] => true
  | up, x :: rest =>
    let up1 := up.filter (fun y => decide (y.1 < x.depth))
    nodeOk ps p safes x rest && x.ops.all (copOk ps p.f (up1.map Prod.snd)) && treeOk ps p safes (up1 ++ [(x.depth, x.hdr.kind)]) rest

/-! ### Translation (R298, R300) -/

/-- The v and g words a field names: vn is word n, gn is word 128 + n (R298). -/
def wordsNamed (x : Spec) (n : Nat) : List Nat :=
  match x with
  | .v k => (List.range n).map (fun j => k.val + j)
  | .g k => (List.range n).map (fun j => 128 + k.val + j)
  | _ => []

/-- reads(o) of R298. -/
def COp.reads (o : COp) : List Nat :=
  let w := widths o.opc o.ops
  (if dIsSource o.opc then wordsNamed o.ops.d w.d else []) ++ wordsNamed o.ops.a w.a ++ wordsNamed o.ops.b w.b ++ wordsNamed o.ops.c w.c

/-- writes(o) of R298. -/
def COp.writes (o : COp) : List Nat := if dIsSource o.opc then [] else wordsNamed o.ops.d (widths o.opc o.ops).d

/-- A segment under construction. -/
structure TSeg where
  wait : List Nat := []
  sets : List Nat := []
  ops : List COp := []
deriving DecidableEq, Repr

/-- The translator's state in a clause: segments closed, the open one, pending pairs (f, w), live-out pairs. -/
structure TState where
  done : List TSeg := []
  cur : TSeg := {}
  pending : List (Nat × Nat) := []
  out : List (Nat × Nat) := []
deriving DecidableEq, Repr

/-- Union of two lists. -/
def unionOf {α : Type} [BEq α] (a b : List α) : List α := a ++ b.filter (fun x => !a.contains x)

/-- open(wait := W) of R298. -/
def TState.openSeg (t : TState) (w : List Nat) : TState :=
  if t.cur.ops.isEmpty then { t with cur := { t.cur with wait := unionOf t.cur.wait w } }
  else { t with done := t.done ++ [t.cur], cur := { wait := w } }

/-- Flags with no pending pair. -/
def TState.freeFlag (t : TState) : Option Nat := (List.range 12).find? (fun f => !t.pending.any (fun x => x.1 == f))

/-- A segment opens where the operation touches a pending word (R298). -/
def TState.hit (t : TState) (o : COp) : TState :=
  let fs := ((t.pending.filter (fun x => o.reads.contains x.2 || o.writes.contains x.2)).map Prod.fst).eraseDups
  if fs.isEmpty then t
  else let t1 := t.openSeg fs; { t1 with pending := t1.pending.filter (fun x => !fs.contains x.1) }

/-- A long operation takes a flag (R298). -/
def TState.take (t : TState) (o : COp) : TState :=
  if !isLong o.opc o.ops || o.writes.isEmpty then t
  else
    let t1 := if t.cur.sets.length == 2 then t.openSeg [] else t
    let t2 := match t1.freeFlag with
      | some _ => t1
      | none =>
        let f0 := (t1.pending.map Prod.fst).foldl min 11
        let t' := t1.openSeg [f0]
        { t' with pending := t'.pending.filter (fun x => x.1 != f0) }
    let f := t2.freeFlag.getD 0
    { t2 with cur := { t2.cur with sets := t2.cur.sets ++ [f] }, pending := t2.pending ++ o.writes.map (fun w => (f, w)) }

/-- One operation of a clause (R298). -/
def TState.step (t : TState) (o : COp) : TState :=
  let t1 := (t.hit o).take o
  { t1 with cur := { t1.cur with ops := t1.cur.ops ++ [o] }, out := if o.opc == 0x001 || o.opc == 0x002 then unionOf t1.out t1.pending else t1.out }

/-- segment(C) of R298: the segments of a clause and its live-out pairs. -/
def segmentClause (ops : List COp) : List TSeg × List (Nat × Nat) :=
  let t := ops.foldl TState.step {}
  (t.done ++ [t.cur], unionOf t.out t.pending)

/-- Words a clause reads before it writes them, or writes at all (R298). -/
def clauseTouches : List Nat → List COp → List Nat
  | _, [] => []
  | seen, o :: l => o.reads.filter (fun w => !seen.contains w) ++ o.writes ++ clauseTouches (seen ++ o.writes) l

/-- The segments of a clause, its first waiting for the flags of LIVEIN that it touches. -/
def residentSegs (livein : List (Nat × Nat)) (ops : List COp) : List TSeg :=
  let ws := clauseTouches [] ops
  match (segmentClause ops).1 with
  | [] => []
  | x :: l => { x with wait := unionOf x.wait (((livein.filter (fun y => ws.contains y.2)).map Prod.fst).eraseDups) } :: l

/-- A set of flags as a mask. -/
def flagMask (l : List Nat) : BitVec 12 := BitVec.ofNat 12 (l.eraseDups.foldl (fun n f => n + 2 ^ f) 0)

/-- The bytes of a segment (R203, R207). -/
def TSeg.bytes (x : TSeg) : List Byte :=
  encodeSegment ⟨flagMask x.wait, x.sets[0]?, x.sets[1]?, x.ops.length⟩ ++ x.ops.flatMap COp.bytes

/-- Segment headers that translation adds to the clauses of a list of nodes. -/
def addedSegs (livein : List (Nat × Nat)) (l : List CNode) : Nat :=
  (l.map (fun x => if x.hdr.kind == .clause then (residentSegs livein x.ops).length - 1 else 0)).foldl (· + ·) 0

/-- The resident bytes of the nodes of a tree: each LEN grown by 4 for each segment header added inside it (R300). -/
def residentNodes (livein : List (Nat × Nat)) : List CNode → List Byte
  | [] => []
  | x :: rest =>
    let segs := residentSegs livein x.ops
    let len := x.hdr.len + 4 * addedSegs livein (x :: inside x.depth rest)
    let count := if x.hdr.kind == .clause then segs.length else x.hdr.count
    x.head.take 1 ++ beBytes 1 count ++ beBytes 3 len ++ x.head.drop 5 ++
      (if x.hdr.kind == .clause then segs.flatMap TSeg.bytes else []) ++ residentNodes livein rest

/-- The resident code of a procedure (R298, R300). -/
def residentProc (xs : List CNode) : List Byte :=
  let livein := xs.foldl (fun l x => if x.hdr.kind == .clause then unionOf l (segmentClause x.ops).2 else l) []
  residentNodes livein xs

/-- Zero bytes up to a multiple of 16. -/
def pad16 (l : List Byte) : List Byte := l ++ List.replicate ((16 - l.length % 16) % 16) 0

/-- Lay procedures out in table order, each pool directly after its code (R300): the code section and the table. -/
def layOut (code : List Byte) : List Byte → List (KernelHdr × List CNode) → List Byte × List KernelHdr
  | acc, [] => (acc, [])
  | acc, (k, xs) :: l =>
    let body := residentProc xs
    let withCode := pad16 (acc ++ body)
    let pool := (code.drop k.proc.pool).take k.proc.poolLen
    let k' : KernelHdr :=
      { proc := { k.proc with coff := acc.length, clen := body.length, pool := withCode.length },
        raw := bits k.raw 0 64 + acc.length * 2 ^ 64 + body.length * 2 ^ 96 + withCode.length * 2 ^ 128 + bits k.raw 160 96 * 2 ^ 160 }
    let (all, ks) := layOut code (withCode ++ pool) l
    (all, k' :: ks)

/-! ### Verification and installation (R295 to R297, R301) -/

/-- The results of a load (R295). -/
inductive LoadStatus where
  | ok | format | signature | signer | rollback | level | contract | structure_ | nospace
deriving DecidableEq, Repr

/-- The status byte (R295). -/
def LoadStatus.code : LoadStatus → Nat
  | .ok => 0 | .format => 1 | .signature => 2 | .signer => 3 | .rollback => 4 | .level => 5 | .contract => 6 | .structure_ => 7 | .nospace => 8

/-- The floor of a signer and name (R297). -/
def State.floor (s : State) (signer : BitVec 128) (name : BitVec 512) : Option Nat :=
  (s.pkg.floors.find? (fun x => x.1 == signer && x.2.1 == name)).map (fun x => x.2.2)

/-- Raise a floor, never lower it (R297). -/
def State.raiseFloor (s : State) (x : ImageHdr) : State :=
  match s.floor x.signer x.name with
  | some n =>
    { s with pkg := { s.pkg with floors := mapIf (fun y => y.1 == x.signer && y.2.1 == x.name) (fun y => (y.1, y.2.1, max n x.svn)) s.pkg.floors } }
  | none => if x.svn == 0 then s else { s with pkg := { s.pkg with floors := s.pkg.floors ++ [(x.signer, x.name, x.svn)] } }

/-- Code pages of a partition that an image of so many bytes can have: the first that fit between those in use, for code or for its tables (R295,
R301). -/
def State.codeFrame (s : State) (part len : Nat) : Option Nat :=
  let pages := fun n => (n + 4095) / 4096
  let used := ((s.images.filter (fun i => i.part == part)).map (fun i => (i.frame, pages i.len))) ++
    (s.ctxs.filter (fun c => c.part == part)).flatMap (fun c => c.codeTables.map (fun x => (x / 4096, 1)))
  (0 :: used.map (fun u => u.1 + u.2)).find? (fun f =>
    decide (f + pages len ≤ Config.codePages) && used.all (fun u => decide (f + pages len ≤ u.1) || decide (u.1 + u.2 ≤ f)))

/-- An image in resident form. -/
structure Resident where
  hdr : ImageHdr
  code : List Byte
  procs : List KernelHdr
  safes : List SafePoint
  data : List Byte
  measurement : BitVec 256
deriving DecidableEq, Repr

/-- Steps 1 to 7 of R295, in order, and the translation. -/
def State.verify (s : State) (l : List Byte) (len : Nat) : Except LoadStatus Resident :=
  let h := leNat (l.take 256)
  let x := imageHdr h
  if l.length != len || !formatOk h len then .error .format
  else
    match s.pkg.signers.find? (fun y => y.id == x.signer && y.state == 1) with
    | none => .error .signer
    | some sg =>
      if !Config.sm2Verify sg.key ((l.drop 16).take 16) (l.take (len - 64)) (bytes512 (l.drop (len - 64))) then .error .signature
      else if x.level != 1 then .error .level
      else if decide (x.svn < (s.floor x.signer x.name).getD 0) then .error .rollback
      else if x.contract != contractSaruz then .error .contract
      else
        let code := x.code.of l
        let safe := x.safe.of l
        let ps := (entries 32 (x.table.len / 32) (x.table.of l)).map kernelHdr
        let ok := rising (ps.map (fun k => k.proc.num)) && ps.all (fun k =>
          let es := safesOf safe k.proc
          kernelOk x ps k && rising (es.map (fun n => bits n 0 8)) && es.all (safeOk ps k.proc))
        let trees := ps.filterMap (fun k => (parseProc ((code.drop k.proc.coff).take k.proc.clen)).map (fun xs => (k, xs)))
        if !ok || trees.length != ps.length || !trees.all (fun y => treeOk ps y.1.proc ((safesOf safe y.1.proc).map safePointOf) [] y.2) then
          .error .structure_
        else
          let (res, ks) := layOut code [] trees
          .ok { hdr := x, code := res, procs := ks, safes := (entries 56 (safe.length / 56) safe).map safePointOf, data := x.data.of l,
                measurement := Config.sm3 (l.take 256 ++ res ++ ks.flatMap (fun k => leBytes 32 k.raw) ++ safe ++ x.data.of l) }

/-- Give a load its answer: the status in [7:0], the handle in [63:32] (R317). -/
def State.answerLoad (s : State) (id : Nat) (st : LoadStatus) (handle : Nat) : State :=
  { s with loads := mapIf (fun t => t.id == id) (fun t => { t with answer := some (BitVec.ofNat 64 (handle * 2 ^ 32 + st.code)) }) s.loads }

/-- The image that a load makes: its pages, and the entries that the Markhor gives them (R301). -/
def State.newImage (s : State) (t : LoadTask) (part frame : Nat) (r : Resident) : Image :=
  { handle := s.pkg.nextHandle, ctx := t.ctx, part := part, va := Config.codeVa + frame * 4096, frame := frame, len := r.code.length,
    procs := r.procs.map KernelHdr.proc, safes := r.safes, slots := r.hdr.slots, measurement := r.measurement,
    leaves := (List.range ((r.code.length + 4095) / 4096)).map (fun i => s.codeLeaf (frame + i)) }

/-- The code of an image on its pages, and its entries in the page tables of its context; none where no code page is left for a table. -/
def State.putImage (s : State) (img : Image) (code : List Byte) : Option State :=
  let s1 := (s.zero (img.codeAddr 0) ((code.length + 4095) / 4096 * 4096)).store (img.codeAddr 0) code
  { s1 with images := s1.images ++ [img] }.mapCode img.ctx img

/-- Install a resident image on code pages, extend its context's measurements, raise the floor (R297, R301, R362); none where no code page is left for
a table. -/
def State.install (s : State) (t : LoadTask) (part frame : Nat) (r : Resident) : Option State :=
  (s.putImage (s.newImage t part frame r) r.code).map (fun s1 =>
    let h := s.pkg.nextHandle
    let s2 := { s1 with pkg := { s1.pkg with nextHandle := h + 1 } }
    let s3 := s2.onCtx t.ctx (fun c => { c with cmr := Config.sm3 (leBytes 32 c.cmr.toNat ++ leBytes 32 r.measurement.toNat) })
    (if t.commit then s3.raiseFloor r.hdr else s3).answerLoad t.id .ok h)

/-- A commit for a new pair finds no room in the store (R297, R389). -/
def State.floorFull (s : State) (t : LoadTask) (x : ImageHdr) : Bool :=
  t.commit && (!s.pkg.nvme || ((s.floor x.signer x.name).isNone && decide (4096 ≤ s.pkg.floors.length)))

/-- IMAGE_LOAD_VERIFY: the Markhor reads, verifies, translates and installs an image (R295 to R301); a failed check changes
nothing but the answer. -/
def execImageLoadVerify (id : Nat) (s : State) : Host.Outcome State Fault Refusal :=
  match s.loads.find? (fun t => t.id == id && t.answer.isNone) with
  | none => .refused .notEnabled
  | some t =>
    let c := s.ctxOf t.ctx
    let who : ElandWho := (t.qcb, 2, t.id)
    match s.elandRead c who t.img.toNat t.len 1 with
    | (s1, .block) => .next s1
    | (s1, .fail _) => .next (s1.answerLoad id .format 0)
    | (s1, .ok l) =>
      match s1.verify l t.len with
      | .error e => .next (s1.answerLoad id e 0)
      | .ok r =>
        match s1.codeFrame c.part r.code.length with
        | none => .next (s1.answerLoad id .nospace 0)
        | some frame =>
          if s1.floorFull t r.hdr then .next (s1.answerLoad id .nospace 0)
          else
            match s1.gmWriteAll (elandCl c.part) 0 c false (r.data.length / 4096 + 2) t.dataDst.toNat r.data with
            | (s2, .ok _) => .next ((s2.install t c.part frame r).getD (s1.answerLoad id .nospace 0))
            | (_, .error f) =>
              match s1.elandFault c .write who f with
              | (s3, .block) => .next s3
              | (s3, _) => .next (s3.answerLoad id .format 0)

end Sys2Proof.Machine
end

