-- ==== Sys2Proof/Machine/Dispatch.lean ====
section
/-! DEFINITION. The meaning of every instruction: one arm per constructor, each one call of its definition. -/

namespace Sys2Proof.Machine

def exec (i : Instr) (s : State) : Host.Outcome State Fault Refusal :=
  match i with
  | .nop o => Sys2Proof.Machine.execNop o s
  | .exit o => Sys2Proof.Machine.execExit o s
  | .next o => Sys2Proof.Machine.execNext o s
  | .ret o => Sys2Proof.Machine.execRet o s
  | .quit o => Sys2Proof.Machine.execQuit o s
  | .yield o => Sys2Proof.Machine.execYield o s
  | .barArrive o => Sys2Proof.Machine.execBarArrive o s
  | .barWait o => Sys2Proof.Machine.execBarWait o s
  | .barSync o => Sys2Proof.Machine.execBarSync o s
  | .spawn o => Sys2Proof.Machine.execSpawn o s
  | .trap o => Sys2Proof.Machine.execTrap o s
  | .tret o => Sys2Proof.Machine.execTret o s
  | .bkpt o => Sys2Proof.Machine.execBkpt o s
  | .movs o => Sys2Proof.Machine.execMovs o s
  | .ctlr o => Sys2Proof.Machine.execCtlr o s
  | .ctlw o => Sys2Proof.Machine.execCtlw o s
  | .add o => Sys2Proof.Machine.execAdd o s
  | .addc o => Sys2Proof.Machine.execAddc o s
  | .sub o => Sys2Proof.Machine.execSub o s
  | .subb o => Sys2Proof.Machine.execSubb o s
  | .mul o => Sys2Proof.Machine.execMul o s
  | .mulh o => Sys2Proof.Machine.execMulh o s
  | .mad o => Sys2Proof.Machine.execMad o s
  | .madw o => Sys2Proof.Machine.execMadw o s
  | .min o => Sys2Proof.Machine.execMin o s
  | .max o => Sys2Proof.Machine.execMax o s
  | .abs o => Sys2Proof.Machine.execAbs o s
  | .neg o => Sys2Proof.Machine.execNeg o s
  | .clamp o => Sys2Proof.Machine.execClamp o s
  | .idiv o => Sys2Proof.Machine.execIdiv o s
  | .irem o => Sys2Proof.Machine.execIrem o s
  | .shl o => Sys2Proof.Machine.execShl o s
  | .shr o => Sys2Proof.Machine.execShr o s
  | .sar o => Sys2Proof.Machine.execSar o s
  | .rotl o => Sys2Proof.Machine.execRotl o s
  | .fsh o => Sys2Proof.Machine.execFsh o s
  | .bfx o => Sys2Proof.Machine.execBfx o s
  | .bfi o => Sys2Proof.Machine.execBfi o s
  | .popc o => Sys2Proof.Machine.execPopc o s
  | .clz o => Sys2Proof.Machine.execClz o s
  | .ctz o => Sys2Proof.Machine.execCtz o s
  | .brev o => Sys2Proof.Machine.execBrev o s
  | .and o => Sys2Proof.Machine.execAnd o s
  | .or o => Sys2Proof.Machine.execOr o s
  | .xor o => Sys2Proof.Machine.execXor o s
  | .not o => Sys2Proof.Machine.execNot o s
  | .andn o => Sys2Proof.Machine.execAndn o s
  | .bool3 o => Sys2Proof.Machine.execBool3 o s
  | .mov o => Sys2Proof.Machine.execMov o s
  | .movi o => Sys2Proof.Machine.execMovi o s
  | .csel o => Sys2Proof.Machine.execCsel o s
  | .cmp o => Sys2Proof.Machine.execCmp o s
  | .setv o => Sys2Proof.Machine.execSetv o s
  | .lea o => Sys2Proof.Machine.execLea o s
  | .pand o => Sys2Proof.Machine.execPand o s
  | .por o => Sys2Proof.Machine.execPor o s
  | .pxor o => Sys2Proof.Machine.execPxor o s
  | .pnot o => Sys2Proof.Machine.execPnot o s
  | .pmov o => Sys2Proof.Machine.execPmov o s
  | .xprev o => Sys2Proof.Machine.execXprev o s
  | .xscan o => Sys2Proof.Machine.execXscan o s
  | .xred o => Sys2Proof.Machine.execXred o s
  | .xbcast o => Sys2Proof.Machine.execXbcast o s
  | .xpick o => Sys2Proof.Machine.execXpick o s
  | .xput o => Sys2Proof.Machine.execXput o s
  | .xget o => Sys2Proof.Machine.execXget o s
  | .vote o => Sys2Proof.Machine.execVote o s
  | .first o => Sys2Proof.Machine.execFirst o s
  | .actc o => Sys2Proof.Machine.execActc o s
  | .fadd o => Sys2Proof.Machine.execFadd o s
  | .fsub o => Sys2Proof.Machine.execFsub o s
  | .fmul o => Sys2Proof.Machine.execFmul o s
  | .ffma o => Sys2Proof.Machine.execFfma o s
  | .fmin o => Sys2Proof.Machine.execFmin o s
  | .fmax o => Sys2Proof.Machine.execFmax o s
  | .fdiv o => Sys2Proof.Machine.execFdiv o s
  | .fcmp o => Sys2Proof.Machine.execFcmp o s
  | .fclass o => Sys2Proof.Machine.execFclass o s
  | .frnd o => Sys2Proof.Machine.execFrnd o s
  | .ffrac o => Sys2Proof.Machine.execFfrac o s
  | .rcp o => Sys2Proof.Machine.execRcp o s
  | .rsq o => Sys2Proof.Machine.execRsq o s
  | .sqrt o => Sys2Proof.Machine.execSqrt o s
  | .exp2 o => Sys2Proof.Machine.execExp2 o s
  | .log2 o => Sys2Proof.Machine.execLog2 o s
  | .sin o => Sys2Proof.Machine.execSin o s
  | .cos o => Sys2Proof.Machine.execCos o s
  | .tanh o => Sys2Proof.Machine.execTanh o s
  | .erf o => Sys2Proof.Machine.execErf o s
  | .cvt o => Sys2Proof.Machine.execCvt o s
  | .cvtSc o => Sys2Proof.Machine.execCvtSc o s
  | .bscale o => Sys2Proof.Machine.execBscale o s
  | .pack o => Sys2Proof.Machine.execPack o s
  | .unpack o => Sys2Proof.Machine.execUnpack o s
  | .ld o => Sys2Proof.Machine.execLd o s
  | .st o => Sys2Proof.Machine.execSt o s
  | .ldk o => Sys2Proof.Machine.execLdk o s
  | .prf o => Sys2Proof.Machine.execPrf o s
  | .atom o => Sys2Proof.Machine.execAtom o s
  | .red o => Sys2Proof.Machine.execRed o s
  | .fenceR o => Sys2Proof.Machine.execFenceR o s
  | .fence o => Sys2Proof.Machine.execFence o s
  | .cctl o => Sys2Proof.Machine.execCctl o s
  | .copyBox o => Sys2Proof.Machine.execCopyBox o s
  | .copyT o => Sys2Proof.Machine.execCopyT o s
  | .copyFill o => Sys2Proof.Machine.execCopyFill o s
  | .layout o => Sys2Proof.Machine.execLayout o s
  | .mma o => Sys2Proof.Machine.execMma o s
  | .mmaP o => Sys2Proof.Machine.execMmaP o s
  | .mmaG o => Sys2Proof.Machine.execMmaG o s
  | .mmaS o => Sys2Proof.Machine.execMmaS o s
  | .accClr o => Sys2Proof.Machine.execAccClr o s
  | .accLd o => Sys2Proof.Machine.execAccLd o s
  | .accSt o => Sys2Proof.Machine.execAccSt o s
  | .accStx o => Sys2Proof.Machine.execAccStx o s
  | .bankop o => Sys2Proof.Machine.execBankop o s
  | .cexp o => Sys2Proof.Machine.execCexp o s
  | .cwait o => Sys2Proof.Machine.execCwait o s
  | .cacq o => Sys2Proof.Machine.execCacq o s
  | .cread o => Sys2Proof.Machine.execCread o s
  | .creset o => Sys2Proof.Machine.execCreset o s
  | .addS32Compact d a b => Sys2Proof.Machine.execAddS32Compact d a b s
  | .subS32Compact d a b => Sys2Proof.Machine.execSubS32Compact d a b s
  | .mulS32Compact d a b => Sys2Proof.Machine.execMulS32Compact d a b s
  | .madS32Compact d a b c => Sys2Proof.Machine.execMadS32Compact d a b c s
  | .minS32Compact d a b => Sys2Proof.Machine.execMinS32Compact d a b s
  | .maxS32Compact d a b => Sys2Proof.Machine.execMaxS32Compact d a b s
  | .minZ32Compact d a b => Sys2Proof.Machine.execMinZ32Compact d a b s
  | .maxZ32Compact d a b => Sys2Proof.Machine.execMaxZ32Compact d a b s
  | .andCompact d a b => Sys2Proof.Machine.execAndCompact d a b s
  | .orCompact d a b => Sys2Proof.Machine.execOrCompact d a b s
  | .xorCompact d a b => Sys2Proof.Machine.execXorCompact d a b s
  | .andnCompact d a b => Sys2Proof.Machine.execAndnCompact d a b s
  | .shlCompact d a b => Sys2Proof.Machine.execShlCompact d a b s
  | .shrCompact d a b => Sys2Proof.Machine.execShrCompact d a b s
  | .sarCompact d a b => Sys2Proof.Machine.execSarCompact d a b s
  | .movCompact d a => Sys2Proof.Machine.execMovCompact d a s
  | .faddCompact d a b => Sys2Proof.Machine.execFaddCompact d a b s
  | .fsubCompact d a b => Sys2Proof.Machine.execFsubCompact d a b s
  | .fmulCompact d a b => Sys2Proof.Machine.execFmulCompact d a b s
  | .ffmaCompact d a b c => Sys2Proof.Machine.execFfmaCompact d a b c s
  | .fminCompact d a b => Sys2Proof.Machine.execFminCompact d a b s
  | .fmaxCompact d a b => Sys2Proof.Machine.execFmaxCompact d a b s
  | .cmpEqS32Compact d a b => Sys2Proof.Machine.execCmpEqS32Compact d a b s
  | .cmpNeS32Compact d a b => Sys2Proof.Machine.execCmpNeS32Compact d a b s
  | .cmpLtS32Compact d a b => Sys2Proof.Machine.execCmpLtS32Compact d a b s
  | .cmpLeS32Compact d a b => Sys2Proof.Machine.execCmpLeS32Compact d a b s
  | .cmpGtS32Compact d a b => Sys2Proof.Machine.execCmpGtS32Compact d a b s
  | .cmpGeS32Compact d a b => Sys2Proof.Machine.execCmpGeS32Compact d a b s
  | .cmpLtZ32Compact d a b => Sys2Proof.Machine.execCmpLtZ32Compact d a b s
  | .cmpLeZ32Compact d a b => Sys2Proof.Machine.execCmpLeZ32Compact d a b s
  | .cmpGtZ32Compact d a b => Sys2Proof.Machine.execCmpGtZ32Compact d a b s
  | .cmpGeZ32Compact d a b => Sys2Proof.Machine.execCmpGeZ32Compact d a b s
  | .ldGmCompact d a b => Sys2Proof.Machine.execLdGmCompact d a b s
  | .stGmCompact d a b => Sys2Proof.Machine.execStGmCompact d a b s
  | .ldSpCompact d a b => Sys2Proof.Machine.execLdSpCompact d a b s
  | .stSpCompact d a b => Sys2Proof.Machine.execStSpCompact d a b s
  | .addImmCompact d a k => Sys2Proof.Machine.execAddImmCompact d a k s
  | .mulImmCompact d a k => Sys2Proof.Machine.execMulImmCompact d a k s
  | .andImmCompact d a k => Sys2Proof.Machine.execAndImmCompact d a k s
  | .orImmCompact d a k => Sys2Proof.Machine.execOrImmCompact d a k s
  | .xorImmCompact d a k => Sys2Proof.Machine.execXorImmCompact d a k s
  | .shlImmCompact d a k => Sys2Proof.Machine.execShlImmCompact d a k s
  | .shrImmCompact d a k => Sys2Proof.Machine.execShrImmCompact d a k s
  | .sarImmCompact d a k => Sys2Proof.Machine.execSarImmCompact d a k s
  | .moviCompact d k => Sys2Proof.Machine.execMoviCompact d k s
  | .cmpEqImmCompact d a k => Sys2Proof.Machine.execCmpEqImmCompact d a k s
  | .cmpNeImmCompact d a k => Sys2Proof.Machine.execCmpNeImmCompact d a k s
  | .cmpLtImmCompact d a k => Sys2Proof.Machine.execCmpLtImmCompact d a k s
  | .cmpLeImmCompact d a k => Sys2Proof.Machine.execCmpLeImmCompact d a k s
  | .cmpGtImmCompact d a k => Sys2Proof.Machine.execCmpGtImmCompact d a k s
  | .cmpGeImmCompact d a k => Sys2Proof.Machine.execCmpGeImmCompact d a k s
  | .ldGmImmCompact d a k => Sys2Proof.Machine.execLdGmImmCompact d a k s
  | .stGmImmCompact d a k => Sys2Proof.Machine.execStGmImmCompact d a k s
  | .ldSpImmCompact d a k => Sys2Proof.Machine.execLdSpImmCompact d a k s
  | .stSpImmCompact d a k => Sys2Proof.Machine.execStSpImmCompact d a k s
  | .nodeMove cl co t => Sys2Proof.Machine.execNodeMove cl co t s
  | .call cl co t => Sys2Proof.Machine.execCall cl co t s
  | .returnFrame cl co t => Sys2Proof.Machine.execReturnFrame cl co t s
  | .reform cl co t => Sys2Proof.Machine.execReform cl co t s
  | .safeArrival cl co t => Sys2Proof.Machine.execSafeArrival cl co t s
  | .instructionFetch cl co gs fi => Sys2Proof.Machine.execInstructionFetch cl co gs fi s
  | .longOpLands id => Sys2Proof.Machine.execLongOpLands id s
  | .accessPerform id => Sys2Proof.Machine.execAccessPerform id s
  | .homeAtomicPerform id => Sys2Proof.Machine.execHomeAtomicPerform id s
  | .trapDeliver cl co gs => Sys2Proof.Machine.execTrapDeliver cl co gs s
  | .asyncErrorDeliver cl co gs => Sys2Proof.Machine.execAsyncErrorDeliver cl co gs s
  | .binFile cl co t => Sys2Proof.Machine.execBinFile cl co t s
  | .binAgeLimit cl co b => Sys2Proof.Machine.execBinAgeLimit cl co b s
  | .threadSlotFree cl co t => Sys2Proof.Machine.execThreadSlotFree cl co t s
  | .chunkSpill cl co t x => Sys2Proof.Machine.execChunkSpill cl co t x s
  | .chunkFill cl co t x => Sys2Proof.Machine.execChunkFill cl co t x s
  | .chunkTransferDone id => Sys2Proof.Machine.execChunkTransferDone id s
  | .spawnRingTake cl co => Sys2Proof.Machine.execSpawnRingTake cl co s
  | .blockPlace launch block cl co => Sys2Proof.Machine.execBlockPlace launch block cl co s
  | .blockSaved cl co => Sys2Proof.Machine.execBlockSaved cl co s
  | .blockEnd cl co => Sys2Proof.Machine.execBlockEnd cl co s
  | .engineQueueEntry id => Sys2Proof.Machine.execEngineQueueEntry id s
  | .destExpectationArrive id dest => Sys2Proof.Machine.execDestExpectationArrive id dest s
  | .engineBytesLand id k => Sys2Proof.Machine.execEngineBytesLand id k s
  | .matrixRowFinal id row => Sys2Proof.Machine.execMatrixRowFinal id row s
  | .bankElementUpdate id k => Sys2Proof.Machine.execBankElementUpdate id k s
  | .commandFinish id => Sys2Proof.Machine.execCommandFinish id s
  | .commandAbort id => Sys2Proof.Machine.execCommandAbort id s
  | .cwaitReturn cl co gs fi => Sys2Proof.Machine.execCwaitReturn cl co gs fi s
  | .cacqTake cl co gs fi => Sys2Proof.Machine.execCacqTake cl co gs fi s
  | .faultEntryWrite id => Sys2Proof.Machine.execFaultEntryWrite id s
  | .invalidationComplete part => Sys2Proof.Machine.execInvalidationComplete part s
  | .pktLaunch qcb => Sys2Proof.Machine.execPktLaunch qcb s
  | .pktResume qcb => Sys2Proof.Machine.execPktResume qcb s
  | .pktWrite qcb => Sys2Proof.Machine.execPktWrite qcb s
  | .pktSignalWrite qcb => Sys2Proof.Machine.execPktSignalWrite qcb s
  | .pktWait qcb => Sys2Proof.Machine.execPktWait qcb s
  | .pktImageLoad qcb => Sys2Proof.Machine.execPktImageLoad qcb s
  | .imageLoadVerify id => Sys2Proof.Machine.execImageLoadVerify id s
  | .imageLoadResult qcb => Sys2Proof.Machine.execImageLoadResult qcb s
  | .launchEnd id => Sys2Proof.Machine.execLaunchEnd id s
  | .clusterSwitch cl => Sys2Proof.Machine.execClusterSwitch cl s
  | .clearSequenceComplete cl ok => Sys2Proof.Machine.execClearSequenceComplete cl ok s
  | .mailboxCommandComplete fn => Sys2Proof.Machine.execMailboxCommandComplete fn s
  | .fwCommit => Sys2Proof.Machine.execFwCommit s
  | .softRepairStart stack channel row => Sys2Proof.Machine.execSoftRepairStart stack channel row s
  | .softRepairDone stack => Sys2Proof.Machine.execSoftRepairDone stack s
  | .logDrain ctx ok => Sys2Proof.Machine.execLogDrain ctx ok s
  | .logFill ctx => Sys2Proof.Machine.execLogFill ctx s
  | .hashBoundary cl co gs => Sys2Proof.Machine.execHashBoundary cl co gs s
  | .gateAdmit id => Sys2Proof.Machine.execGateAdmit id s
  | .ctxCreate fn health => Sys2Proof.Machine.execCtxCreate fn health s
  | .ctxDestroy fn => Sys2Proof.Machine.execCtxDestroy fn s
  | .ctxSupervisor fn => Sys2Proof.Machine.execCtxSupervisor fn s
  | .queueCreate fn => Sys2Proof.Machine.execQueueCreate fn s
  | .queueDestroy fn => Sys2Proof.Machine.execQueueDestroy fn s
  | .sessionStart fn => Sys2Proof.Machine.execSessionStart fn s
  | .sessionStop fn => Sys2Proof.Machine.execSessionStop fn s
  | .attention fn => Sys2Proof.Machine.execAttention fn s
  | .partitionSet fn => Sys2Proof.Machine.execPartitionSet fn s
  | .carveoutSet fn health => Sys2Proof.Machine.execCarveoutSet fn health s
  | .sliceSet fn => Sys2Proof.Machine.execSliceSet fn s
  | .faultringSet fn => Sys2Proof.Machine.execFaultringSet fn s
  | .qtableSet fn => Sys2Proof.Machine.execQtableSet fn s
  | .perrrecSet fn => Sys2Proof.Machine.execPerrrecSet fn s
  | .policySet fn => Sys2Proof.Machine.execPolicySet fn s
  | .powerSet fn => Sys2Proof.Machine.execPowerSet fn s
  | .repair fn => Sys2Proof.Machine.execRepair fn s
  | .spare fn => Sys2Proof.Machine.execSpare fn s
  | .peerSet fn => Sys2Proof.Machine.execPeerSet fn s
  | .exportSet fn => Sys2Proof.Machine.execExportSet fn s
  | .ownerSet fn => Sys2Proof.Machine.execOwnerSet fn s
  | .signerAdd fn => Sys2Proof.Machine.execSignerAdd fn s
  | .signerRevoke fn => Sys2Proof.Machine.execSignerRevoke fn s
  | .signerList fn => Sys2Proof.Machine.execSignerList fn s
  | .fwStage fn => Sys2Proof.Machine.execFwStage fn s
  | .fwAbandon fn => Sys2Proof.Machine.execFwAbandon fn s
  | .mailboxUnknownOpcode fn => Sys2Proof.Machine.execMailboxUnknownOpcode fn s
  | .registerWrite fn off v => Sys2Proof.Machine.execRegisterWrite fn off v s
  | .mailboxWriteWhileBusy fn v => Sys2Proof.Machine.execMailboxWriteWhileBusy fn v s
  | .doorbell part tag v => Sys2Proof.Machine.execDoorbell part tag v s
  | .faultResponse part v => Sys2Proof.Machine.execFaultResponse part v s
  | .invalidationRequest part v => Sys2Proof.Machine.execInvalidationRequest part v s
  | .peerAccess part off len acc => Sys2Proof.Machine.execPeerAccess part off len acc s
  | .tableWalk cl co ctx va acc => Sys2Proof.Machine.execTableWalk cl co ctx va acc s
  | .sliceEdge => Sys2Proof.Machine.execSliceEdge s
  | .getVersion fn => Sys2Proof.Machine.execGetVersion fn s
  | .getCapabilities fn => Sys2Proof.Machine.execGetCapabilities fn s
  | .negotiateAlgorithms fn offer => Sys2Proof.Machine.execNegotiateAlgorithms fn offer s
  | .getDigests fn => Sys2Proof.Machine.execGetDigests fn s
  | .getCertificate fn slot => Sys2Proof.Machine.execGetCertificate fn slot s
  | .challenge fn slot nonce => Sys2Proof.Machine.execChallenge fn slot nonce s
  | .getMeasurements fn index signed nonce => Sys2Proof.Machine.execGetMeasurements fn index signed nonce s
  | .keyExchange fn share => Sys2Proof.Machine.execKeyExchange fn share s
  | .finish fn verify => Sys2Proof.Machine.execFinish fn verify s
  | .keyUpdate fn => Sys2Proof.Machine.execKeyUpdate fn s
  | .endSession fn => Sys2Proof.Machine.execEndSession fn s
  | .tdiError fn => Sys2Proof.Machine.execTdiError fn s
  | .correctableError stack channel row => Sys2Proof.Machine.execCorrectableError stack channel row s
  | .uncorrectableError place => Sys2Proof.Machine.execUncorrectableError place s
  | .iftDue cl co => Sys2Proof.Machine.execIftDue cl co s
  | .drainLimitExpire cl co => Sys2Proof.Machine.execDrainLimitExpire cl co s
  | .iftComplete cl co pass => Sys2Proof.Machine.execIftComplete cl co pass s
  | .portRetrainStart port => Sys2Proof.Machine.execPortRetrainStart port s
  | .portRetrainDone port lanes => Sys2Proof.Machine.execPortRetrainDone port lanes s
  | .thermalClockStep up => Sys2Proof.Machine.execThermalClockStep up s
  | .thermalTrip => Sys2Proof.Machine.execThermalTrip s
  | .bringUp b => Sys2Proof.Machine.execBringUp b s
  | .gateTimeout ctx stream => Sys2Proof.Machine.execGateTimeout ctx stream s
  | .tdispRequest fn target => Sys2Proof.Machine.execTdispRequest fn target s
  | .ideKmRequest fn stream key => Sys2Proof.Machine.execIdeKmRequest fn stream key s
  | .recoveryMailboxImage img sig => Sys2Proof.Machine.execRecoveryMailboxImage img sig s

end Sys2Proof.Machine
end

