-- ==== Sys2Proof/Machine/Enabled.lean ====
section
/-! DEFINITION. The steps of the machine that may be taken in a state. -/

namespace Sys2Proof.Machine

/-- The mailbox commands whose answers may be written (R309). -/
def State.mailboxSteps (s : State) : List Instr := (s.mailboxes.filter (fun m => m.result.isSome)).map (fun m => .mailboxCommandComplete m.fn)

/-- Every step of the machine, apart from issue, mailbox commands and inputs, whose cause stands. -/
def State.enabledSteps (s : State) : List Instr :=
  s.accessSteps ++ s.moveSteps ++ s.pagerSteps ++ s.binSteps ++ s.blockSteps ++ s.engineSteps ++ s.elandSteps ++ s.sliceSteps ++
    s.markhorSteps ++ s.chamoisSteps ++ s.mailboxSteps

end Sys2Proof.Machine
end

