-- ==== Sys2Proof/Machine/Run.lean ====
section
/-! DEFINITION. One step of the package: which of the lanes, the steps of the machine, the outside and the clock moves,
and a pass of one or two fronts (R14, R46, R49, R54, R64). -/

namespace Sys2Proof.Machine

/-! ### Passes -/

/-- A word that is no instruction, issued: class 1 at its first active thread (R208). -/
def runBad (d : Nat) (n : Next) (i : Issue) (s : State) : State :=
  let (s', i') := if n.uniform then serveUniform (illegal d) s i else serveAll (illegal d) 0 n.ops i.threads s i
  { s' with cur := some i' }

/-- Issue a front's instruction to the threads of an issue. -/
def runFront (s : State) (n : Next) (i : Issue) : Host.Outcome State Fault Refusal :=
  match n.dec with
  | .op ins _ => exec ins { s with cur := some i }
  | .bad d _ _ _ _ => .next (runBad d n i s)
  | .short => .next { s with cur := some i }

/-- The first slot whose thread takes a class-10 stop as it issues (R76, R81). -/
def State.firstPreStop (s : State) (i : Issue) : List Nat → Option (Nat × Thread × Halt)
  | [] => none
  | k :: l =>
    match s.slotThread i k with
    | none => State.firstPreStop s i l
    | some (_, _, t) =>
      match s.preStop t with
      | some h => some (k, t, h)
      | none => State.firstPreStop s i l

/-- The threads below one that stops as it issues are served first (R54), but those of an operation that acts for its front as one are not
(R53, R57). -/
def Next.whole (n : Next) : Bool := n.alone && !(decide (0x008 ≤ n.opc) && decide (n.opc ≤ 0x00A))

/-- What keeps a pass from reaching a higher thread: it has stopped, or has stalled; the wait of a barrier comes after all of them. -/
def Issue.isOver (i : Issue) : Bool := i.stop.isSome || i.wait.any (fun w => match w with | .bar .. => false | _ => true)

/-- Issue to a list of slots, stopping at a thread that takes a class-10 stop before its operation. -/
def runSlots (s : State) (n : Next) (i : Issue) (ks : List Nat) : Host.Outcome State Fault Refusal :=
  match s.firstPreStop i ks with
  | none => runFront s n { i with threads := ks }
  | some (k, t, h) =>
    let pre := if n.whole then [] else ks.takeWhile (· != k)
    let r := if pre.isEmpty then .next { s with cur := some { i with threads := [] } } else runFront s n { i with threads := pre }
    match r with
    | .next s1 =>
      (match s1.cur with
       | some i1 =>
         if i1.isOver then .next s1
         else
           let (s2, i2) := stopAt s1 i1 k t.path 0 h
           .next { s2.onThread i.cl i.co t.tid (fun x => { x with pagerFault := none }) with cur := some i2 }
       | none => .next s1)
    | r => r

/-- Serve the slots of a shared pass in increasing index, each by its own front's instruction (R49). -/
def runShared (s : State) (a b : Next × Issue) : List Nat → Host.Outcome (State × Issue × Issue) Fault Refusal
  | [] => .next (s, a.2, b.2)
  | k :: l =>
    let mine := a.2.front.contains k
    let (n, i) := if mine then a else b
    match runSlots s n { i with first := a.2.first && b.2.first } [k] with
    | .fault f => .fault f
    | .refused r => .refused r
    | .next s1 =>
      match s1.cur with
      | none => .next (s1, a.2, b.2)
      | some i1 =>
        let a1 := if mine then (a.1, i1) else a
        let b1 := if mine then b else (b.1, i1)
        if i1.stop.isSome || i1.wait.isSome then .next (s1, a1.2, b1.2) else runShared s1 a1 b1 l

/-- The slots of a front whose guard is true. -/
def State.activeIn (s : State) (i : Issue) (n : Next) (ks : List Nat) : List Nat :=
  ks.filter (fun k => match s.slotThread i k with | some (_, _, t) => (guardVal n.ops t).val | none => false)

/-- The flag of a front's operation. -/
def State.frontFlag (s : State) (c : Core) (gs : Nat) (x : Front × Next) : Option Nat :=
  match c.group? gs with
  | none => none
  | some g => (x.1.tslots.head?.bind (c.threadAt g)).bind (fun t => s.flagOf t x.2)

/-- The threads of a front that are still to issue its operation. -/
def Core.restSlots (c : Core) (gs : Nat) (f : Front) : List Nat :=
  match c.group? gs with
  | none => []
  | some g => f.tslots.filter (fun k => match c.threadAt g k with | some t => t.act == .rest | none => false)

/-- The threads of a group in blocked fronts (R63). -/
def State.blockedSlots (s : State) (c : Core) (gs : Nat) : List Nat :=
  match c.group? gs with
  | none => []
  | some g => (g.fronts.filter (s.frontBlocked c g)).flatMap Front.tslots

/-- A lane issues the pass it has planned, to the threads that are still to issue it. -/
def State.runPlan (s : State) (cl co lane : Nat) (p : Plan) : Host.Outcome State Fault Refusal :=
  let c := s.core cl co
  let (pid, s0) := s.freshId
  let s1 := s0.openPass cl co lane p
  let held := s.blockedSlots c p.gs
  let ks := c.restSlots p.gs p.one.1
  let i1 := p.issue cl co pid (s.frontFlag c p.gs p.one) p.one ks held
  match p.two with
  | none =>
    (match runSlots s1 p.one.2 { i1 with peers := s1.activeIn i1 p.one.2 ks } ks with
     | .next s2 => .next (s2.closePass cl co lane p.gs [(p.one.2, s2.cur.getD i1)])
     | r => r)
  | some two =>
    let ks2 := c.restSlots p.gs two.1
    let i2 := p.issue cl co pid (s.frontFlag c p.gs two) two ks2 held
    let active := s1.activeIn i1 p.one.2 ks ++ s1.activeIn i2 two.2 ks2
    match runShared s1 (p.one.2, { i1 with peers := active }) (two.2, { i2 with peers := active }) (p.slots.filter (fun k => ks.contains k || ks2.contains k)) with
    | .next (s2, j1, j2) => .next (s2.closePass cl co lane p.gs [(p.one.2, j1), (two.2, j2)])
    | .fault f => .fault f
    | .refused r => .refused r

/-! ### What may happen next (log entry 5) -/

/-- What may move next: a lane, a step of the machine, a mailbox command, a test brought forward, something from outside, or the
clock. -/
inductive Cand where
  | lane (cl co n : Nat)
  | step (i : Instr)
  | command (fn : Nat)
  | test (cl co : Nat)
  | input (i : Instr)
  | tick
deriving DecidableEq, Repr

/-- The lanes that can issue in this cycle. -/
def State.lanesReady (s : State) : List Cand :=
  s.cores.flatMap (fun c => if c.groups.isEmpty then [] else
    ((List.range 16).filter (fun n => (s.lanePlan c n).isSome)).map (fun n => .lane c.cl c.co n))

/-- The functions whose mailbox command has not been executed (R309). -/
def State.commandsDue (s : State) : List Cand := (s.mailboxes.filter (fun m => s.hasFunction m.fn && m.busy && m.result.isNone)).map (fun m => .command m.fn)

/-- Execute the mailbox command of a function, by its opcode (R309). -/
def State.runCommand (s : State) (fn : Nat) : Host.Outcome State Fault Refusal :=
  match s.opcode fn with
  | 0x01 => let (h, s1) := s.collections; execCtxCreate fn h s1
  | 0x02 => execCtxDestroy fn s
  | 0x03 => execCtxSupervisor fn s
  | 0x04 => execQueueCreate fn s
  | 0x05 => execQueueDestroy fn s
  | 0x06 => execSessionStart fn s
  | 0x07 => execSessionStop fn s
  | 0x08 => execAttention fn s
  | 0x10 => execPartitionSet fn s
  | 0x11 => let (h, s1) := s.collections; execCarveoutSet fn h s1
  | 0x12 => execSliceSet fn s
  | 0x13 => execFaultringSet fn s
  | 0x14 => execQtableSet fn s
  | 0x15 => execPerrrecSet fn s
  | 0x16 => execPolicySet fn s
  | 0x17 => execPowerSet fn s
  | 0x18 => execRepair fn s
  | 0x19 => execSpare fn s
  | 0x1A => execPeerSet fn s
  | 0x1B => execExportSet fn s
  | 0x20 => execOwnerSet fn s
  | 0x21 => execSignerAdd fn s
  | 0x22 => execSignerRevoke fn s
  | 0x23 => execSignerList fn s
  | 0x24 => execFwStage fn s
  | 0x25 => execFwAbandon fn s
  | _ => execMailboxUnknownOpcode fn s

/-- The bins at their age limit that a free slot waits for: they are opened before anything else happens (R14). -/
def State.binsDue (s : State) : List Cand :=
  s.cores.filterMap (fun c => if s.coreRuns c then (s.dueBin c).map (fun b => Cand.step (.binAgeLimit c.cl c.co b)) else none)

/-- The node moves, calls, returns and REFORMs that threads of a group may make now: they cost no cycle and wait for nothing else, so they are
made before anything else happens (R14, R212). A SAFE node is passed among the other steps, so that a loop of SAFE nodes leaves them their turn;
once one thread of a front has passed it, the others follow (log entry 5). -/
def State.movesNow (s : State) : List Cand :=
  s.cores.flatMap (fun c => if !s.coreRuns c then [] else
    c.groups.filterMap (fun g =>
      if !s.movesDue c g then none
      else (c.firstOf g (fun t => (t.act != .safe || (c.frontOf t).any (fun u => u.act != .safe)) && (s.threadStep c t).isSome)).bind (fun t => (s.threadStep c t).map Cand.step)))

/-- Everything that may happen next. The clock ticks when no lane can issue in the cycle. -/
def State.candidates (s : State) : List Cand :=
  let inputs := match s.inputs with | [] => [] | i :: _ => [Cand.input i]
  if !s.pkg.up || s.pkg.held then (if inputs.isEmpty then [.tick] else inputs)
  else if !s.binsDue.isEmpty then s.binsDue
  else if !s.movesNow.isEmpty then s.movesNow
  else
    let lanes := s.lanesReady
    lanes ++ s.enabledSteps.map .step ++ s.commandsDue ++ s.testsForward.map (fun x => .test x.1 x.2) ++ inputs ++ (if lanes.isEmpty then [.tick] else [])

/-- A core takes over its context's breakpoint enable (R226), at a time of its own. -/
def State.spreadDebug (s : State) (c : Core) : State :=
  match c.block with
  | none => s
  | some b =>
    let x := (s.ctxOf b.ctx).bkpten
    if c.bkpten == x then s
    else
      let (n, s1) := s.choose
      if n % 2 == 0 then s1.onCore c.cl c.co (fun c => { c with bkpten := x }) else s1

/-- The clock ticks: a core that issued no pass in the cycle ages its bins (R90). -/
def State.tickOver (s0 : State) : State :=
  let s := s0.cores.foldl State.spreadDebug s0
  { s with now := s.now + 1,
           cores := s.cores.map (fun c => if c.passAt = s.now + 1 then c else { c with bins := c.bins.map Bin.older }) }

/-- After a step: fronts between passes brought up to date, the fills that are needed asked for (R80), error entries that waited for their records
written (R369, R376), fences that order nothing any more dropped. -/
def State.tidy (s : State) : State := let s1 := s.settle.askFills.dropImages.retryLogs; { s1 with accs := dropFences [] s1.accs }

/-- What a step leaves: a tidy state with no issue under way. Nothing in the package takes from what is still to come from
outside. -/
def State.after (s1 : State) (rest : List Instr) : State := { s1.tidy with cur := none, inputs := rest }

/-- The outcome of a step. -/
def settled (rest : List Instr) : Host.Outcome State Fault Refusal → Host.Outcome State Fault Refusal
  | .next s => .next (s.after rest)
  | .fault f => .fault f
  | .refused r => .refused r

/-- Whether something from outside reaches the machine: until step 5 of bring-up, and in the reset after a trip, only what starts
the package does (R388, R393). -/
def State.hears (s : State) (i : Instr) : Bool := (s.pkg.up && !s.pkg.held) || i.startsUp

/-- Take what happens next. Something from outside that has no cause in the state, or that does not reach the machine, is dropped. -/
def State.take (s : State) : Cand → Host.Outcome State Fault Refusal
  | .lane cl co n =>
    (match s.lanePlan (s.core cl co) n with
     | none => .next s
     | some p => settled s.inputs (s.runPlan cl co n p))
  | .step i => settled s.inputs (exec i s)
  | .command fn => settled s.inputs (s.runCommand fn)
  | .test cl co => settled s.inputs (execIftDue cl co s)
  | .input i =>
    let s0 := { s with inputs := s.inputs.drop 1 }
    if !s.hears i then .next s0
    else
      (match exec i s0 with
       | .refused _ => .next s0
       | r => settled s0.inputs r)
  | .tick => .next s.tickOver

/-- One step: the one thing that may happen, or an open choice among several. -/
def State.advance (s : State) : Host.Outcome State Fault Refusal :=
  match s.candidates with
  | [] => .next s.tickOver
  | [c] => s.take c
  | l =>
    let (n, s1) := s.choose
    match l[n % l.length]? with
    | some c => s1.take c
    | none => .next s1

/-! ### A program placed by hand (log entry 16) -/

/-- The code of a procedure whose one clause holds one operation: a root SEQ, a CLAUSE, a segment header, the bytes. -/
def oneOpCode (op : List Byte) : List Byte :=
  let len := (opLength (op.headD 0)).getD 13
  [0xC0, 1] ++ beBytes 3 (14 + len) ++ [0xCB, 1] ++ beBytes 3 (9 + len) ++ encodeSegment ⟨0, some 0, none, 1⟩ ++ op.take len

/-- The launch under which a placed program runs. -/
def placedLaunch : Launch :=
  { id := 1, ctx := 0, part := 0, qcb := 0, image := 1, entry := 1, levels := [⟨1, 0, false⟩, ⟨1, 1, false⟩], z := 2 ^ 20, age := 64,
    a := 0x100000, s := 2 ^ 20, p := 0, td := 0, m := 1, argblk := 0, ra := 0, bsa := 0, sra := 0, slots := [], threads := 1,
    blocks := [{ index := 0, at_ := .placed 0 0 }] }

/-- The one thread of a placed program, at rest at its operation. -/
def placedThread : Thread :=
  { tid := 1, launch := 1, block := 0, stackNo := 0, lidx := [0, 0, 0, 0, 0, 0, 0, 0], sptr := 0x100000, slim := 0x200000, image := 1,
    path := ⟨1, [0], 0⟩, act := .rest, gslot := some 0, fresh := false }

/-- The core that runs it. -/
def placedCore : Core :=
  { Core.fresh 0 0 with
    block := some { launch := 1, index := 0, z := 2 ^ 20, ctx := 0 }, threads := [placedThread],
    groups := [{ slot := 0, launch := 1, members := [(0, 1)], fronts := [{ tslots := [0] }] }], ibuf := [(0, ⟨1, [0], 0⟩)] }

/-- The page tables of a placed program, at partition offsets 0, 0x1000, … 0x4000: they give its code page the entry of R301. -/
def placedTables (leaf : DWord) (m : Memory) : Memory :=
  (((((m.writeLe (8 * bits Config.codeVa 48 9) 8 0x1001).writeLe (0x1000 + 8 * bits Config.codeVa 39 9) 8 0x2001).writeLe
    (0x2000 + 8 * bits Config.codeVa 30 9) 8 0x3001).writeLe (0x3000 + 8 * bits Config.codeVa 21 9) 8 0x4001).writeLe
    (0x4000 + 8 * bits Config.codeVa 12 9) 8 leaf.toNat)

/-- A state with one operation's bytes on a code page and one thread resting at it. -/
def State.place (s : State) (op : List Byte) : State :=
  let code := oneOpCode op
  let s := { s with pkg := { s.pkg with up := true, held := false, parts := some 1 } }
  let leaf := s.codeLeaf 0
  { s with
    parts := [{ idx := 0, ctxList := [0] }], ctxs := [{ ctx := 0, part := 0 }],
    images := [{ handle := 1, ctx := 0, part := 0, va := Config.codeVa, frame := 0, len := code.length,
                 procs := [{ num := 1, f := 128, args := 0, clen := code.length }], safes := [], leaves := [leaf] }],
    launches := [placedLaunch], clusters := [{ id := 0, ctx := some 0 }], cores := [placedCore], inputs := [], nextId := max s.nextId 2,
    mem := placedTables leaf (s.mem.writeBytes Config.codeBase code) }

end Sys2Proof.Machine
end

