-- ==== Sys2Proof/Safety.lean ====
section
/-! DEFINITION. What counts as a safe state and a safe run, and the terms that statements about passes use. -/

namespace Sys2Proof.Machine

/-- Memory, which every step must keep in its canonical form (log entry 1). -/
def State.memOk (s : State) : Prop := s.mem.wf = true

/-- A step that neither stops with a fault nor is refused. -/
def Moves (s : State) : Prop := ∃ t, step s = .next t

/-- Between steps: no issue is under way, and what is to come from outside is no operation of a program. -/
def State.settledInv (s : State) : Prop := s.cur = none ∧ ∀ x ∈ s.inputs, x.isOp = false

/-- What the threads of a pass look like once their operation has retired (R35, R46). -/
def retiredAll (s : State) (i : Issue) : State := i.threads.foldl (retireSlot i) s

/-- The issue after a pass whose threads all retired. -/
def Issue.finished (i : Issue) (u : Bool) : Issue := { i with done := i.done ++ i.threads, first := false, uniform := i.uniform || u }

/-- A thread and a group put in place after the threads of a pass retired. -/
def putBack (s : State) (i : Issue) (t : Thread) (g : Group) : State :=
  (retiredAll s i).setCore ((((retiredAll s i).core i.cl i.co).setThread t).setGroup g)

end Sys2Proof.Machine
end

