-- ==== Sys2Proof/WellFormed.lean ====
section
/-! DEFINITION. Well-formed instructions: those whose word no row of R208's class-1 table refuses. -/

namespace Sys2Proof

/-- A well-formed instruction: an operation with no class-1 detail (R208), or a step of the machine. -/
def Instr.wf (i : Instr) : Bool := i.detail.isNone

/-- A well-formed operation, one that has bytes in the code stream. -/
def Instr.wfOp (i : Instr) : Bool := i.isOp && i.wf

end Sys2Proof
end

