-- ==== Sys2Proof/Certificates/Slice0/Obligations.lean ====
section
/-! DEFINITION. The statements for the provers. -/

namespace Sys2Proof.Claims
open Sys2Proof Sys2Proof.Machine

/-- The outcome of a step of the model. -/
abbrev Out := Host.Outcome State Fault Refusal

/-! ### Terms of the statements about passes -/

/-- The pass under way serves slot k, holding thread t of group g on core c, with a guard that is true and no checker
mismatch: one thread of a front, or any whole front where the operation is uniform (R46, R47, R56). -/
structure Serves (s : State) (i : Issue) (k : Nat) (c : Core) (g : Group) (t : Thread) (opc : Nat) (o : Ops) : Prop where
  cur : s.cur = some i
  head : i.threads.head? = some k
  one : opUniform opc o = false → i.threads = [k]
  slot : s.slotThread i k = some (c, g, t)
  guard : guardVal o t = ⟨true, false⟩
  upset : s.upsetOf i k = none

/-- No word that the operation names of a thread whose guard is false is poisoned: nothing is logged for the threads it skips (R58). -/
def Unlogged (s : State) (i : Issue) (opc : Nat) (o : Ops) : Prop :=
  ∀ k ∈ i.threads, ∀ c g t, s.slotThread i k = some (c, g, t) → guardVal o t = ⟨false, false⟩ → sourcePoison t g o (widths opc o) 0 0 0 = none

/-- The operands of an operation can be read: nothing named is poisoned, pairs and quads are aligned (R58, R21). -/
abbrev Readable (opc : Nat) (o : Ops) (t : Thread) (g : Group) : Prop := operandHalt t g o (widths opc o) 0 0 0 = none

/-- The state after the pass in which every thread retired, with this thread and this group in place. -/
def After (s : State) (i : Issue) (u : Bool) (x : Thread × Group) : Out := .next { putBack s i x.1 x.2 with cur := some (i.finished u) }

/-- The operation completes and its destination takes the value (low words first), nothing else. -/
def Gives (ins : Instr) (opc : Nat) (o : Ops) (val : Env → Thread → Group → DWord) : Prop :=
  ∀ s i k c g t, Serves s i k c g t opc o → ins.detail = none → Readable opc o t g →
    exec ins s = After s i (opUniform opc o) (wrN (retire t) g o.d (widths opc o).d (val (Env.of s c g) t g))

/-- An integer operation of width n whose result is a formula of its operands as unsigned n-bit numbers, modulo 2^n (R228). -/
def GivesInt (mk : Ops → Instr) (opc : Nat) (f : Ops → Nat → Bool → DWord → DWord → DWord → Int) : Prop :=
  ∀ o, Gives (mk o) opc o (fun e t g =>
    let w := widths opc o
    let x := fun (p : Spec) (n : Nat) => rdN e o t g p n (opSigned o)
    wrapInt (opBits o) (f o (opBits o) (opSigned o) (x o.a w.a) (x o.b w.b) (x o.c w.c)))

/-- A bitwise operation: every bit of the operands, of which the destination takes the words it has. -/
def GivesBits (mk : Ops → Instr) (opc : Nat) (f : DWord → DWord → DWord → DWord) : Prop :=
  ∀ o, Gives (mk o) opc o (fun e t g =>
    let w := widths opc o
    let x := fun (p : Spec) (n : Nat) => rdN e o t g p n (opSigned o)
    f (x o.a w.a) (x o.b w.b) (x o.c w.c))

/-- A predicate operation completes and its destination takes the truth value, nothing else. -/
def GivesPred (ins : Instr) (opc : Nat) (o : Ops) (val : Env → Thread → Group → Bool) : Prop :=
  ∀ s i k c g t, Serves s i k c g t opc o → ins.detail = none → Readable opc o t g →
    exec ins s = After s i (opUniform opc o) (wrP (retire t) g o.d (val (Env.of s c g) t g))


/-- A compact form of three v registers: the destination takes this function of the two 32-bit sources. -/
def CompactRR (mk : Fin 64 → Fin 64 → Fin 64 → Instr) (opc : Nat) (f : Word → Word → Word) : Prop :=
  ∀ d a b s i k c g t, Serves s i k c g t opc (compactOps (mk d a b)) → (t.v a.val).poison = false → (t.v b.val).poison = false →
    exec (mk d a b) s = After s i false ((retire t).setV d.val (f (t.v a.val).val (t.v b.val).val), g)

/-- A compact form of four v registers. -/
def CompactRRR (mk : Fin 64 → Fin 64 → Fin 64 → Fin 64 → Instr) (opc : Nat) (f : Word → Word → Word → Word) : Prop :=
  ∀ d a b x s i k c g t, Serves s i k c g t opc (compactOps (mk d a b x)) → (t.v a.val).poison = false → (t.v b.val).poison = false →
    (t.v x.val).poison = false →
    exec (mk d a b x) s = After s i false ((retire t).setV d.val (f (t.v a.val).val (t.v b.val).val (t.v x.val).val), g)

/-- A compact form of two v registers and a signed 12-bit immediate. -/
def CompactImm (mk : Fin 64 → Fin 64 → BitVec 12 → Instr) (opc : Nat) (f : Word → Word → Word) : Prop :=
  ∀ d a n s i k c g t, Serves s i k c g t opc (compactOps (mk d a n)) → (t.v a.val).poison = false →
    exec (mk d a n) s = After s i false ((retire t).setV d.val (f (t.v a.val).val (n.signExtend 32)), g)

/-- A compact compare of two v registers into p0 to p7 (a write to p0 is discarded). -/
def CompactCmp (mk : Fin 64 → Fin 64 → Fin 64 → Instr) (f : Word → Word → Bool) : Prop :=
  ∀ d a b s i k c g t, Serves s i k c g t 0x0C3 (compactOps (mk d a b)) → d.val ≤ 7 → (t.v a.val).poison = false → (t.v b.val).poison = false →
    exec (mk d a b) s = After s i false ((retire t).setP d.val (f (t.v a.val).val (t.v b.val).val), g)

/-- A compact compare with a signed 12-bit immediate. -/
def CompactCmpImm (mk : Fin 64 → Fin 64 → BitVec 12 → Instr) (f : Word → Word → Bool) : Prop :=
  ∀ d a n s i k c g t, Serves s i k c g t 0x0C3 (compactOps (mk d a n)) → d.val ≤ 7 → (t.v a.val).poison = false →
    exec (mk d a n) s = After s i false ((retire t).setP d.val (f (t.v a.val).val (n.signExtend 32)), g)

/-- An operation on codes of f32, rounded to nearest even. -/
def onF32 (f : Nat → Nat → XVal) (x y : Word) : Word := BitVec.ofNat 32 (toF f32 .rne (f x.toNat y.toNat))

/-! ### Long operations, floating point, cross-thread operations -/

/-- A long operation of the served thread starts: the pass goes on, and the words named wait to land, counted in the flag
that the segment gives (R65, R199, R298). -/
def Started (s : State) (i : Issue) (t : Thread) (u : Bool) (dests : List Dest) (data : Option (List PWord)) : Out :=
  let r := retiredAll s i
  let fl := if dests.isEmpty then none else i.flag
  .next { r.onGroup i.cl i.co i.gs (fun g => g.setFlag fl) with
    nextId := r.nextId + 1, cur := some (i.finished u),
    longs := r.longs ++ [{ id := r.nextId, cl := i.cl, co := i.co, tid := t.tid, also := r.others i (retire t) u, gslot := i.gs,
                           flag := fl, dests := dests, data := data }] }

/-- The low and high words of a value, none poisoned. -/
def words2 (x : DWord) : List PWord := [⟨x.extractLsb' 0 32, false⟩, ⟨x.extractLsb' 32 32, false⟩]

/-- A long-latency operation completes by starting: its words will be those of the value. -/
def GivesLong (ins : Instr) (opc : Nat) (o : Ops) (val : Env → Thread → Group → DWord) : Prop :=
  ∀ s i k c g t, Serves s i k c g t opc o → ins.detail = none → Readable opc o t g →
    exec ins s = Started s i t (opUniform opc o) (longDests t o.d (widths opc o).d)
      (some ((words2 (val (Env.of s c g) t g)).take (widths opc o).d))

/-- The value of an operation of kind F by elements: one code, or two packed 16-bit codes under X2 (R245, R246). -/
def byElement (o : Ops) (f : FloatFmt → Rnd → Nat → Nat → Nat → Nat) (e : Env) (t : Thread) (g : Group) : DWord :=
  let x := fun (p : Spec) (j : Nat) => fcode e o t g o.t.val p j
  let r := fun (j : Nat) => f (fmtOf o.t.val) (opRnd o) (x o.a j) (x o.b j) (x o.c j)
  BitVec.ofNat 64 (if opX2 o then r 0 + 2 ^ 16 * r 1 else r 0)

/-- An operation of kind F in the lane. -/
def GivesF (mk : Ops → Instr) (opc : Nat) (f : FloatFmt → Rnd → Nat → Nat → Nat → Nat) : Prop :=
  ∀ o, Gives (mk o) opc o (byElement o f)

/-- A long-latency operation of kind F. -/
def GivesLongF (mk : Ops → Instr) (opc : Nat) (f : FloatFmt → Rnd → Nat → Nat) : Prop :=
  ∀ o, GivesLong (mk o) opc o (byElement o (fun ft md a _ _ => f ft md a))

/-- A conversion that names a slot that is bound (R147). -/
def GivesSlot (ins : Instr) (opc : Nat) (o : Ops) (val : Env → Thread → Group → DWord) : Prop :=
  ∀ s i k c g t, Serves s i k c g t opc o → ins.detail = none → Readable opc o t g → unbound (Env.of s c g) o.t.val = false →
    exec ins s = After s i (opUniform opc o) (wrN (retire t) g o.d (widths opc o).d (val (Env.of s c g) t g))

/-- Word j of source A; an immediate supplies every element (R256). -/
def word32 (e : Env) (o : Ops) (t : Thread) (g : Group) (j : Nat) : Nat :=
  match o.a with
  | .imm => o.imm.toNat
  | x => (wordOf e t g x j).toNat

/-- One element, or two under X2, the second above the first by n bits (R246, R256). -/
def elements (o : Ops) (n : Nat) (r : Nat → Nat) : DWord := BitVec.ofNat 64 (if opX2 o then r 0 + 2 ^ n * r 1 else r 0)

/-- A value rounded to an integer and clamped to a range; NaN gives 0 (R257). -/
def clampInt (md : Rnd) (lo hi : Int) : XVal → Int
  | .nan => 0
  | .inf true => lo
  | .inf false => hi
  | .fin neg m e _ => max lo (min hi (roundInt md neg m e))

/-- The form of cvt with this SUB completes with this value (R256). -/
def CvtGives (sub : Nat) (val : Ops → Env → Thread → Group → DWord) : Prop := ∀ o, opSub o = sub → Gives (.cvt o) 0x190 o (val o)

/-- cvt between floating formats: widening is exact, narrowing rounds under RM (R257). -/
def CvtFloats : Prop :=
  let widen := fun (f : FloatFmt) (ty : Nat) o e t g => elements o 32 (fun j => toF f32 .rne (decodeF f (fcode e o t g ty o.a j)))
  let narrow := fun (f : FloatFmt) o e t g => elements o 16 (fun j => toF f (opRnd o) (decodeF f32 (word32 e o t g j)))
  CvtGives 0 (widen f16 0) ∧ CvtGives 1 (widen bf16 1) ∧ CvtGives 2 (narrow f16) ∧ CvtGives 3 (narrow bf16) ∧
  CvtGives 4 (fun o e t g => BitVec.ofNat 64 (toF f64 .rne (decodeF f32 (word32 e o t g 0)))) ∧
  CvtGives 5 (fun o e t g => BitVec.ofNat 64 (toF f32 (opRnd o) (decodeF f64 (fcode e o t g 3 o.a 0))))

/-- cvt between integers of 32 or 64 bits and floating formats: rounded under RM, and into an integer clamped to its range (R257). -/
def CvtIntegers : Prop :=
  let bits := fun (o : Ops) => if o.mod.getLsbD 11 then 64 else 32
  let fromInt := fun (f : FloatFmt) (sg : Bool) (o : Ops) e t g =>
    BitVec.ofNat 64 (toF f (opRnd o) (xint (intVal (bits o) sg (rdN e o t g o.a (bits o / 32) sg))))
  let into := fun (sg : Bool) (x : XVal) (o : Ops) =>
    let n := bits o
    wrapInt n (if sg then clampInt (opRnd o) (-(2 ^ (n - 1) : Int)) (2 ^ (n - 1) - 1) x else clampInt (opRnd o) 0 (2 ^ n - 1) x)
  CvtGives 6 (fromInt f32 true) ∧ CvtGives 7 (fromInt f32 false) ∧ CvtGives 10 (fromInt f64 true) ∧ CvtGives 11 (fromInt f64 false) ∧
  CvtGives 8 (fun o e t g => into true (decodeF f32 (word32 e o t g 0)) o) ∧ CvtGives 9 (fun o e t g => into false (decodeF f32 (word32 e o t g 0)) o) ∧
  CvtGives 12 (fun o e t g => into true (decodeF f64 (fcode e o t g 3 o.a 0)) o) ∧ CvtGives 13 (fun o e t g => into false (decodeF f64 (fcode e o t g 3 o.a 0)) o)

/-- The pass under way is one of a cross-thread operation on the threads l: those of the front whose guard is true, in pass order, none
poisoned, none about to mismatch (R51, R53), or the whole front where the operation is uniform (R47). No word that the operation names of a
skipped thread is poisoned, so nothing is logged for it (R58). -/
structure ServesAll (s : State) (i : Issue) (c : Core) (g : Group) (l : List Thread) (opc : Nat) (o : Ops) : Prop where
  cur : s.cur = some i
  core : s.core i.cl i.co = c
  group : c.group? i.gs = some g
  active : opUniform opc o = false → crossActive o s i i.threads = (l, none)
  front : opUniform opc o = true → l = i.threads.filterMap (c.threadAt g) ∧ ∃ k t, i.threads.head? = some k ∧ c.threadAt g k = some t ∧ s.upsetOf i k = none
  slots : ∀ k ∈ i.threads, ∀ t, c.threadAt g k = some t → t.tslot = k
  upset : ∀ t ∈ l, s.upsetOf i t.tslot = none
  whole : ∀ k ∈ i.threads, ∀ t, c.threadAt g k = some t → guardVal o t = ⟨false, false⟩ → sourcePoison t g o (widths opc o) 0 0 0 = none

/-- The state after a cross-thread pass: every thread of the front retired, the active ones as given, the group as given; of a uniform
operation the group alone takes the result. -/
def AfterAll (s : State) (i : Issue) (u : Bool) (l : List Thread) (x : List Thread × Group) : Out :=
  let r := retiredAll s i
  if u then .next { r.onGroup i.cl i.co i.gs (fun _ => x.2) with cur := some (i.finished true) }
  else
    let slots := l.map (fun t => t.tslot)
    .next { (x.1.foldl (fun st t => st.onThread i.cl i.co t.tid (fun _ => retire t)) r).onGroup i.cl i.co i.gs (fun _ => x.2) with
      cur := some { i with done := i.done ++ slots, skipped := i.skipped ++ i.threads.filter (fun k => !slots.contains k), first := false } }

/-- A cross-thread operation on readable operands completes for all its active threads at once. -/
def GivesAll (ins : Instr) (opc : Nat) (o : Ops) (val : Env → Group → List Thread → List Thread × Group) : Prop :=
  ∀ s i c g l, ServesAll s i c g l opc o → ins.detail = none → (∀ t ∈ l, Readable opc o t g) →
    exec ins s = AfterAll s i (opUniform opc o) l (val (Env.of s c g) g l)

/-- Source A of a cross-thread operation as type T, and its words as they stand. -/
def srcA (e : Env) (o : Ops) (g : Group) (t : Thread) : DWord := crossSrc e o t g o.a
/-- The words of source A as they stand. -/
def rawA (e : Env) (o : Ops) (g : Group) (t : Thread) : DWord := rdN e o t g o.a (crossWords o) false

/-- A thread with its destination written. -/
def wroteD (o : Ops) (g : Group) (t : Thread) (x : DWord) : Thread := (wrN t g o.d (crossWords o) x).1

/-- A group with its destination written. -/
def wroteG (o : Ops) (t : Thread) (g : Group) (x : DWord) : Group := (wrN t g o.d (crossWords o) x).2

/-! ### Memory and control operations -/

/-- A load of the served thread issues (R116, R267): one access that waits to be performed, and the words that it will
write when it lands; memory is as the checks left it. The core has request entries for it (R116). -/
def Loads (ins : Instr) (o : Ops) : Prop :=
  ∀ s i k c g t s1, Serves s i k c g t 0x1C0 o → ins.detail = none → operandHalt t g o (widths 0x1C0 o) 1 1 0 = none →
    let e := Env.of s c g
    let r := retiredAll s i
    let ea := effAddr e o t g o.imm
    let chk := r.checkAccess e.cl e.co (r.ctxOf e.ctx) (retire t) (spOf o) 0 ea.toNat (memBytes o.t.val)
    let Done := fun (op : AccOp) (ps : List Part) (sx : Bool) =>
      ∃ u a l, exec ins s = .next u ∧ u.accs = s1.accs ++ [a] ∧ u.longs = s1.longs ++ [l] ∧ u.cur = some (i.finished (opUniform 0x1C0 o)) ∧
        u.mem = s1.mem ∧ a.op = op ∧ a.parts = ps ∧ a.ea = ea ∧ a.width = memBytes o.t.val ∧ a.tid = t.tid ∧ a.ord = ordOf o ∧ a.sext = sx ∧
        a.long = some l.id ∧ l.tid = t.tid ∧ l.dests = longDests t o.d (widths 0x1C0 o).d ∧ l.data = none
    (∀ ps, chk = (s1, .ok (.parts ps)) → s1.roomFor i .load ps = true → Done .load ps (o.t.val == 1 || o.t.val == 3)) ∧
    (∀ cl co tid w, chk = (s1, .ok (.reg cl co tid w)) → s1.roomFor i (.rgLoad cl co tid w) [] = true → t.level = .user →
      Done (.rgLoad cl co tid w) [] false)

/-- The accesses behind a fence that is issued: those before it as they were, but that a release fence covers writes which their loads have
missed (R123), and the fence. -/
def FenceAfter (l : List Access) (f : Access) : List Access := (if f.ord = .rel ∨ f.ord = .full then fenceMissed f l else l) ++ [f]

/-- A store of the served thread issues (R116, R268): one access with the bytes of its data words, lowest first; memory is
as the checks left it until the access is performed. A register store is a long operation that writes no word of its thread (R114). -/
def Stores (ins : Instr) (o : Ops) : Prop :=
  ∀ s i k c g t s1, Serves s i k c g t 0x1C1 o → ins.detail = none → operandHalt t g o (widths 0x1C1 o) 1 1 2 = none →
    let e := Env.of s c g
    let r := retiredAll s i
    let ea := effAddr e o t g (if o.b = .imm ∨ o.c = .imm then 0 else o.imm)
    let n := memBytes o.t.val
    let chk := r.checkAccess e.cl e.co (r.ctxOf e.ctx) (retire t) (spOf o) 1 ea.toNat n
    let words := storeWords e o t g (memWords o.t.val)
    let data := (words.flatMap (fun x => leBytes 4 x.toNat)).take n
    let Done := fun (op : AccOp) (ps : List Part) (longs : Access → List LongOp → Prop) =>
      ∃ u a, exec ins s = .next u ∧ u.accs = s1.accs ++ [a] ∧ u.cur = some (i.finished (opUniform 0x1C1 o)) ∧ u.mem = s1.mem ∧
        a.op = op ∧ a.parts = ps ∧ a.ea = ea ∧ a.width = n ∧ a.tid = t.tid ∧ a.ord = ordOf o ∧ longs a u.longs
    (∀ ps, chk = (s1, .ok (.parts ps)) → s1.roomFor i (.store data) ps = true → Done (.store data) ps (fun a l => a.long = none ∧ l = s1.longs)) ∧
    (∀ cl co tid w, chk = (s1, .ok (.reg cl co tid w)) → s1.roomFor i (.rgLoad cl co tid w) [] = true → t.level = .user →
      Done (.rgStore cl co tid w (words.take (n / 4))) [] (fun a l => ∃ x, l = s1.longs ++ [x] ∧ a.long = some x.id ∧ x.tid = t.tid ∧ x.dests = []))

/-- An operation after which the pass goes on with nothing changed but the retirement. -/
def NoEffect (ins : Instr) (s : State) (i : Issue) (u : Bool) : Prop := exec ins s = .next { retiredAll s i with cur := some (i.finished u) }

/-- The pass stops at thread k with a cause, before any effect (R54). -/
def StopsAt (ins : Instr) (s : State) (i : Issue) (cause k : Nat) (addr : DWord) (path : Path) : Prop :=
  exec ins s = .next { s with cur := some { i with stop := some (.trap cause k addr path) } }

/-- A step of the machine completes with this of the state after it. -/
def Then (ins : Instr) (s : State) (p : State → Prop) : Prop := ∃ u, exec ins s = .next u ∧ p u

/-- A pass stops at thread k with a page fault of a check (R264, R334), or waits: nothing is issued, the threads stand as they were. -/
def PageStops (ins : Instr) (s : State) (i : Issue) (c : Context) (acc k : Nat) (path : Path) (f : PageFault) : Prop :=
  let Kept := fun (p : State → Prop) => Then ins s (fun u => u.accs = s.accs ∧ u.longs = s.longs ∧ u.cores = s.cores ∧ u.cmds = s.cmds ∧ p u)
  let Traps := fun (cls va : Nat) => Kept (fun u => u.stalls = s.stalls ∧ u.cur = some { i with stop := some (.trap (16 * cls + acc) k (BitVec.ofNat 64 va) path) })
  match f with
  | .translation inv va =>
    if inv = true ∧ c.trapMode = false then Kept (fun u => ∃ x, u.stalls = s.stalls ++ [x] ∧ x.src = 0 ∧ x.va = va ∧ x.cl = i.cl ∧
      x.who = some (i.co, i.gs, k) ∧ x.acc = (if acc = 0 then .read else if acc = 1 then .write else .atomic) ∧ u.cur = some { i with stop := some (.stall x.id) })
    else Traps 4 va
  | .permission va => Traps 5 va
  | .protection va => Traps 6 va
  | .unreachable va => Kept (fun u => u.stalls = s.stalls ∧ u.cur = some { i with wait := some (.away va) })

/-- A failing check stops the pass at its thread, in the order of R264: the class by the check, the space and the kind of access as its detail (R106), the
address of the lowest byte that fails; nothing is issued. The pass waits where no request entry is free (R116). `ea` is the effective address. -/
def ChecksFail (ins : Instr) (opc acc : Nat) (o : Ops) (op : AccOp → Prop) (ea : Env → Thread → Group → Nat) : Prop :=
  ∀ s i k c g t, Serves s i k c g t opc o → ins.detail = none →
    operandHalt t g o (widths opc o) (sourceRoles opc).1 (sourceRoles opc).2.1 (sourceRoles opc).2.2 = none →
    let e := Env.of s c g
    let r := retiredAll s i
    let cx := r.ctxOf e.ctx
    let a := ea e t g
    let n := memBytes o.t.val
    let Stop := fun (cls addr : Nat) => StopsAt ins s i (16 * cls + 4 * spOf o + acc) k (BitVec.ofNat 64 addr) t.path
    (spOf o = 0 →
      let next := (a / 4096 + 1) * 4096
      let whole := canonicalVa a = true ∧ (next < a + n → canonicalVa (next % 2 ^ 64) = true)
      (canonicalVa a = false → Stop 4 a) ∧
      (canonicalVa a = true → next < a + n → canonicalVa (next % 2 ^ 64) = false → Stop 4 (next % 2 ^ 64)) ∧
      (whole → acc = 2 → a % n ≠ 0 → Stop 7 a) ∧
      (whole → (acc = 2 → a % n = 0) → ∀ s1 f, r.checkGm e.cl e.co cx ⟨acc, acc != 1, acc != 0, recordAccess cx (retire t) a n && acc != 2⟩ a n = (s1, .error f) →
        PageStops ins s i cx acc k t.path f)) ∧
    (spOf o = 1 → (r.spPart e.cl cx.ctx a n = none → Stop 8 a) ∧ (∀ p, r.spPart e.cl cx.ctx a n = some p → a % n ≠ 0 → Stop 7 a)) ∧
    (spOf o = 2 → (bkPart cx a n = none → Stop 9 a) ∧ (∀ p, bkPart cx a n = some p → a % n ≠ 0 → Stop 7 a)) ∧
    (spOf o = 3 →
      let core := a / 2 ^ 25 % 2 ^ 7
      let target := ((r.core e.cl core).group? (a / 2 ^ 19 % 2 ^ 6)).bind (fun h => (r.core e.cl core).threadAt h (a / 2 ^ 14 % 2 ^ 5))
      (target = none → Stop 4 a) ∧
      (∀ x, target = some x → let inside := a / 2 ^ 7 % 2 ^ 7 = 0 ∧ x.live = true ∧ a % 2 ^ 7 + n / 4 ≤ r.frameOf x
        (¬ inside → Stop 4 a) ∧
        (inside → t.level = .user → core ≠ e.co → Stop 5 a) ∧
        (inside → ¬ (t.level = .user ∧ core ≠ e.co) → n = 8 → a % 2 ^ 7 % 2 ≠ 0 → Stop 7 a))) ∧
    (∀ s1 f x, r.checkAccess e.cl e.co cx (retire t) (spOf o) acc a n = (s1, .ok f) → op x →
      (match f with | .parts ps => s1.roomFor i x ps | .reg cl co tid w => s1.roomFor i (.rgLoad cl co tid w) []) = false →
      Then ins s (fun u => u.accs = s.accs ∧ u.longs = s.longs ∧ u.cores = s.cores ∧ u.cur = some { i with wait := some .requests }))

/-- The effective address of a store, without the displacement where an immediate is its data or index (R196, R261). -/
def storeEa (o : Ops) (e : Env) (t : Thread) (g : Group) : Nat := (effAddr e o t g (if o.b = .imm ∨ o.c = .imm then 0 else o.imm)).toNat

/-- The effective address of an atomic, which has no index (R261, R271). -/
def atomEa (o : Ops) (e : Env) (t : Thread) (g : Group) : Nat :=
  let base : Int := if spOf o < 2 then (rd64 e o t g o.a false).toNat else (rd32 e o t g o.a).toNat
  (wrapInt (if spOf o < 2 then 64 else 32) (base + (if o.b = .imm ∨ o.c = .imm then 0 else o.imm).toInt)).toNat

/-- A load whose check fails. -/
def LoadFails (ins : Instr) (o : Ops) : Prop := ChecksFail ins 0x1C0 0 o (· = .load) (fun e t g => (effAddr e o t g o.imm).toNat)

/-- A store whose check fails. -/
def StoreFails (ins : Instr) (o : Ops) : Prop := ChecksFail ins 0x1C1 1 o (fun x => ∃ l, x = .store l) (storeEa o)

/-- The new value of an atomic on n-bit words (R271): w is the word, b and c the operands. -/
def atomicValue (op n : Nat) (w b c : Nat) : Option Nat :=
  let x := BitVec.ofNat n w
  let y := BitVec.ofNat n b
  let f := if n = 64 then f64 else f32
  match op with
  | 0 => some (x + y).toNat
  | 1 => some (if y.slt x then b else w)
  | 2 => some (if x.slt y then b else w)
  | 3 => some (min w b)
  | 4 => some (max w b)
  | 5 => some (x &&& y).toNat
  | 6 => some (x ||| y).toNat
  | 7 => some (x ^^^ y).toNat
  | 8 => some b
  | 9 => if w = b then some c else none
  | 10 => some (toF f .rne (xadd .rne (decodeF f w) (decodeF f b)))
  | 11 => some (minCode f w b)
  | 12 => some (maxCode f w b)
  | _ =>
    let h := if op = 13 then f16 else bf16
    let half := fun (j : Nat) => toF h .rne (xadd .rne (decodeF h (w / 2 ^ (16 * j) % 2 ^ 16)) (decodeF h (b / 2 ^ (16 * j) % 2 ^ 16)))
    some (half 0 + 2 ^ 16 * half 1)

/-- An access that is ready, in one unprotected part, fresh at its target, and not held for a replay. -/
structure Ready (s : State) (a : Access) (p : Part) : Prop where
  found : s.acc? a.id = some a
  one : a.parts = [p]
  ready : s.partsReady a = [p]
  fresh : s.stale p = false
  plain : p.prot = false
  held : a.held = false
  got : a.got = []

/-- The bytes of a part with their poison, as a load takes them. -/
def bytesOf (s : State) (p : Part) : List (Nat × Byte × Bool) :=
  (s.mem.readBytes p.addr p.len).zipIdx.map (fun x => (p.off + x.2, x.1, s.poison.contains ((p.addr + x.2) / 4)))

/-- What a thread that a state holds is after a step. -/
def ThreadIs (u : State) (i : Issue) (tid : Nat) (p : Thread → Prop) : Prop := ∃ t, u.thread? i.cl i.co tid = some t ∧ p t

/-! ### Barriers, cells, engine commands -/

/-- The operand of a command of the front: an immediate or a g register (R158). -/
def frontOperand (g : Group) (o : Ops) : Word :=
  match o.a with
  | .imm => o.imm
  | .g n => (g.gReg n.val).val
  | _ => 0

/-- A cell instruction completes for its front with this effect on its core, and no other. -/
def CellDoes (ins : Instr) (s : State) (i : Issue) (g : Group) (t : Thread) (f : Core → Core) : Prop :=
  exec ins s = .next { (putBack s i (retire t) g).onCore i.cl i.co f with cur := some (i.finished true) }

/-- A cell instruction blocks its front (R63). -/
def CellWaits (ins : Instr) (s : State) (i : Issue) (g : Group) (t : Thread) (f : Core → Core) (w : Wait) : Prop :=
  exec ins s = .next { (putBack s i (retire t) g).onCore i.cl i.co f with cur := some { i.finished true with wait := some w } }

/-- The registers that an engine command names are not poisoned and are aligned (R57, R282 to R287). -/
def CmdReadable (opc : Nat) (o : Ops) (t : Thread) (g : Group) : Prop :=
  operandHalt t g o { widths opc o with a := if opc = 0x202 then 3 else (widths opc o).a, d := if dIsSource opc then (widths opc o).d else 0 } 0 0 0 = none ∧
  (dIsSource opc = true → poisonOf t g o.d (widths opc o).d 0 = none)

/-- The command that a front issues (R279): its operands as read, its cell, the accesses that it must follow (R129), not yet
in its queue. -/
structure Issued (s : State) (i : Issue) (c : Core) (g : Group) (t : Thread) (x : Cmd) (kd : CmdKind) (eng : Engine) (cn : Option Nat) : Prop where
  kind : x.kind = kd
  engine : x.engine = eng
  cell : x.cell = cn
  epoch : x.epoch = match cn with | some n => (c.cell n).epoch | none => 0
  waiting : x.entered = false
  core : x.cl = i.cl ∧ x.co = i.co ∧ x.gen = c.gen
  group : x.gslot = i.gs ∧ x.launch = g.launch
  place : x.tslot = t.tslot ∧ x.path = t.path
  after : x.after = forkAfter s.accs (i.threads.filterMap (fun k => (s.slotThread i k).map (fun y => y.2.2.tid)))

/-- Issuing a command does nothing else. -/
def IssuesCmd (ins : Instr) (s : State) (i : Issue) (c : Core) (g : Group) (t : Thread) (kind : CmdKind) (eng : Engine) (cell : Option Nat) : Prop :=
  ∃ u x, exec ins s = .next u ∧ u.cmds = s.cmds ++ [x] ∧ Issued s i c g t x kind eng cell ∧ u.mem = s.mem ∧ u.poison = s.poison ∧
    u.cores = (retiredAll s i).cores ∧ u.accs = s.accs ∧ u.longs = s.longs ∧ u.cur = some (i.finished true)

/-- Whether a matrix command's slots keep the rules of R147. -/
def slotsOk (e : Env) (sa sb : Nat) : Prop :=
  (e.slot sa).elem ≠ .none ∧ (e.slot sb).elem ≠ .none ∧ matrixElem (e.slot sa).code = true ∧ matrixElem (e.slot sb).code = true ∧
    ((e.slot sa).scaled = true → (e.slot sb).scaled = true → (e.slot sa).sblk = (e.slot sb).sblk)

/-- An operand map from its registers (R178). -/
def mapOf (g : Group) (n : Nat) (aux : Bool) : OpMap :=
  let w := fun (j : Nat) => (g.gReg (n + j)).val
  ⟨((w 0).extractLsb' 0 20).toNat, ((w 1).extractLsb' 0 16).toNat, ((w 1).extractLsb' 16 16).toNat, ((w 2).extractLsb' 0 20).toNat,
    if aux then ((w 3).extractLsb' 0 20).toNat else 0⟩

/-- A matrix multiply issues. -/
def MmaIssues (mk : Ops → Instr) (v : MmaVar) : Prop :=
  ∀ o s i k c g t, Serves s i k c g t 0x208 o → (mk o).detail = none → CmdReadable 0x208 o t g →
    ∀ na nb d, o.a = .g na → o.b = .g nb → o.d = .a d → slotsOk (Env.of s c g) o.t.val (o.mod.extractLsb' 0 3).toNat →
    ∃ high, IssuesCmd (mk o) s i c g t (.mma v (o.mod.extractLsb' 5 2).toNat o.t.val (o.mod.extractLsb' 0 3).toNat d.val
      (mapOf g na.val true) (mapOf g nb.val false) high) .matrix
      (if o.imm.getLsbD 6 then none else some (o.imm.extractLsb' 0 6).toNat)

/-! ### Steps of the machine -/

/-- A thread of a core that a state holds. -/
def Has (u : State) (cl co tid : Nat) (p : Thread → Prop) : Prop := ∃ t, u.thread? cl co tid = some t ∧ p t

/-! ### Engines at work -/

/-- A command that counts in the cell of its own core: its generation and the cell's resets have not moved on (R111, R158). -/
structure Counts (s : State) (m : Cmd) (n : Nat) : Prop where
  cell : m.cell = some n
  gen : (s.core m.cl m.co).gen = m.gen
  epoch : ((s.core m.cl m.co).cell n).epoch = m.epoch

/-- The cell of a command's own core. -/
def cellIn (s : State) (m : Cmd) (n : Nat) : CCell := (s.core m.cl m.co).cell n

/-- Element k of a command, of n bytes, lands in a step that reaches p, and PEND of the command's cell falls by them. Where the model's open
choice has it so, PEND falls first, memory as it was, and a later step reaches p: a cell says that bytes have landed, not that another agent
sees them (R289). -/
def Lands (ins : Instr) (s : State) (m : Cmd) (j k n : Nat) (p : State → Prop) : Prop :=
  let y := cellIn s m j
  (m.isEarly k = false → s.choose.1 % 2 = 0 → Then ins s (fun u => p u ∧ cellIn u m j = { y with pend := y.pend - n })) ∧
  (m.isEarly k = false → s.choose.1 % 2 ≠ 0 → n ≤ m.owed → Then ins s (fun u => u.mem = s.mem ∧ cellIn u m j = { y with pend := y.pend - n } ∧
    ∃ m' co, u.cmd? m.id = some m' ∧ m'.early = m.early ++ [(k, co)] ∧ m'.todo = m.todo ∧ m'.owed = m.owed - n)) ∧
  (m.isEarly k = true → Then ins s (fun u => p u ∧ cellIn u m j = y))

/-- The state in which element k of a command does its work: the step may have taken the open choice of R289 first. -/
def landsFrom (s : State) (m : Cmd) (k : Nat) : State := if m.isEarly k then s else s.choose.2

/-- An engine finds n bytes in one unprotected part, and nothing of the cores and the commands is touched on the way. -/
structure PlainPart (s0 s1 : State) (p : Part) (n : Nat) : Prop where
  plain : p.prot = false
  len : p.len = n
  cores : s1.cores = s0.cores
  cmds : s1.cmds = s0.cmds

/-- Element k of a command is to land, and the issuer's cell j alone counts it; no fault is about to strike the engine. -/
structure Landing (s : State) (m : Cmd) (k j : Nat) : Prop where
  found : s.cmd? m.id = some m
  ready : s.landReady m k = true
  once : hasIndex k (takeIndex k m.todo) = false
  counts : Counts s m j
  dests : m.dests = []
  calm : s.engUpset m m.co = none

/-- Element k of a command lands: n bytes at a hold the list, every other byte of memory is as the checks left it, and the element is no more
to do. -/
def LandsAt (s : State) (m : Cmd) (j k : Nat) (s1 : State) (a n : Nat) (l : List Byte) : Prop :=
  Lands (.engineBytesLand m.id k) s m j k n (fun u =>
    (∀ x, a ≤ x → x < a + n → u.mem.read x = l.getD (x - a) 0) ∧ (∀ x, x < a ∨ a + n ≤ x → u.mem.read x = s1.mem.read x) ∧
    ∃ m', u.cmd? m.id = some m' ∧ ∀ i, hasIndex i m'.todo = (hasIndex i m.todo && i != k))

/-- One word of a fill lands: the pattern (R164). -/
def FillLands : Prop :=
  ∀ (s : State) (m : Cmd) (dst : DWord) (n : Nat) (pat : Word) (j k : Nat) (s1 : State) (p : Part) (y : Space),
    Landing s m k j → m.kind = .fill dst n pat → engSpace dst = some y →
    let base := landsFrom s m k
    base.engPart m true true y (engOff dst (4 * k)) 4 = (s1, .ok p) → PlainPart base s1 p 4 → s1.partlyPoisoned p = [] →
    LandsAt s m j k s1 p.addr 4 (leBytes 4 pat.toNat)

/-- One element of a box copy lands (R161): the element of the source box with the same indices, where it does not overlap the source. -/
def BoxLands : Prop :=
  ∀ (s : State) (m : Cmd) (src dst : DWord) (desc : Word) (b : Box) (j k : Nat) (s1 s2 : State) (p q : Part) (x y : Space)
    (e0 e1 e2 e3 e4 i0 i1 i2 i3 i4 : Nat) (a1 a2 a3 a4 d1 d2 d3 d4 : Int),
    Landing s m k j → m.kind = .box src dst desc b → b.mcast = [] → engSpace src = some x → engSpace dst = some y →
    b.ext = [e0, e1, e2, e3, e4] → b.sstr = [a1, a2, a3, a4] → b.dstr = [d1, d2, d3, d4] →
    i0 < e0 → i1 < e1 → i2 < e2 → i3 < e3 → i4 < e4 → k = i0 + e0 * (i1 + e1 * (i2 + e2 * (i3 + e3 * i4))) →
    let base := landsFrom s m k
    let so := engOff src (i0 * b.esize + i1 * a1 + i2 * a2 + i3 * a3 + i4 * a4)
    let dO := engOff dst (i0 * b.esize + i1 * d1 + i2 * d2 + i3 * d3 + i4 * d4)
    base.engPart m false (y == .sp) x so b.esize = (s1, .ok p) → PlainPart base s1 p b.esize → s1.poisoned p.addr b.esize = false →
    s1.engPart m true (x == .sp) y dO b.esize = (s2, .ok q) → PlainPart s1 s2 q b.esize → s2.partlyPoisoned q = [] →
    (x ≠ y ∨ ∀ i < b.esize, (base.namesOf m y (b.pages src) (dO + i)).any (b.reads src) = false) → 0 < b.esize →
    LandsAt s m j k s2 q.addr b.esize (s1.mem.readBytes p.addr b.esize)

/-- One thread's part of a per-thread copy lands (R163): its source's bytes, but for bytes that a higher thread index has written. -/
def CopyTLands : Prop :=
  ∀ (s : State) (m : Cmd) (size t : Nat) (pairs : List (Nat × DWord × DWord)) (a b : DWord) (j k : Nat) (s1 s2 : State) (p q : Part) (x y : Space),
    Landing s m k j → m.kind = .copyT size pairs → pairs[k]? = some (t, a, b) → engSpace a = some x → engSpace b = some y →
    let base := landsFrom s m k
    base.engPart m false (y == .sp) x (engOff a 0) size = (s1, .ok p) → PlainPart base s1 p size → s1.poisoned p.addr size = false →
    s1.engPart m true (x == .sp) y (engOff b 0) size = (s2, .ok q) → PlainPart s1 s2 q size → s2.poisoned q.addr size = false → 0 < size →
    LandsAt s m j k s2 q.addr size ((List.range size).map (fun i =>
      if m.writers.any (fun w => w.1 == q.addr + i && decide (t < w.2)) then s2.mem.read (q.addr + i) else s1.mem.read (p.addr + i)))

/-- One atom of a layout lands, of whole bytes (R171, R175): the source atom of its point, or the pad where the point lies outside the source and
EDGE is set; without EDGE nothing is written there. The points of a two-dimensional source that is not split are its elements, the axes of the
destination in the order of the mapping word (R170, R171). -/
def LayoutLands : Prop :=
  (∀ (s : State) (m : Cmd) (src dst : DWord) (ctl : Word) (map : BitVec 96) (sh : Shape) (j k n left : Nat) (s1 s2 : State) (p q : Part) (x y : Space)
    (i : Option Int) (d : Int),
    Landing s m k j → m.kind = .layout src dst ctl map sh → engSpace src = some x → engSpace dst = some y → sh.wa = 8 * n → 0 < n →
    m.stash = [(left, 0)] → 0 < left → layoutPoint map.toNat sh k = (i, d) →
    let base := landsFrom s m k
    let to_ := atomAt dst sh.wa d
    let Into := fun (st : State) (l : List Byte) => st.engPart m true false y to_.1 n = (s2, .ok q) → PlainPart st s2 q n → s2.partlyPoisoned q = [] →
      LandsAt s m j k s2 q.addr n l
    (∀ v, i = some v → base.engPart m false false x (atomAt src sh.wa v).1 n = (s1, .ok p) → PlainPart base s1 p n → s1.poisoned p.addr n = false →
      (x ≠ y ∨ layoutOverlaps map.toNat sh src (base.namesOf m y (layoutPages map.toNat sh src) to_.1) to_.2 sh.wa = false) →
      Into s1 (s1.mem.readBytes p.addr n)) ∧
    (i = none → sh.edge = true →
      (x ≠ y ∨ layoutOverlaps map.toNat sh src (base.namesOf m y (layoutPages map.toNat sh src) to_.1) to_.2 sh.wa = false) →
      Into base (leBytes n sh.pad.toNat)) ∧
    (i = none → sh.edge = false → Then (.engineBytesLand m.id k) s (fun u => u.mem = s.mem ∧ cellIn u m j = cellIn s m j ∧
      ∃ m', u.cmd? m.id = some m' ∧ ∀ i, hasIndex i m'.todo = (hasIndex i m.todo && i != k)))) ∧
  (∀ (map : Nat) (sh : Shape) (e0 e1 i0 i1 : Nat) (a0 a1 d0 d1 : Int) (swap : Bool), splitOf map 0 = 0 → splitOf map 1 = 0 → sh.ext = [e0, e1] →
    sh.sstr = [a0, a1] → sh.dstr.take 2 = [d0, d1] → sh.order = (if swap then [1, 0] else [0, 1]) → sh.merge = 0 → i0 < e0 → i1 < e1 →
    layoutPoint map sh (i0 + e0 * i1) = (some (i0 * a0 + i1 * a1), if swap then i1 * d0 + i0 * d1 else i0 * d0 + i1 * d1))

/-- A row of acc.ld: 512 bytes read in units of 64, none of them poisoned, become the 128 words of the tile's row (R188). -/
def AccRowLoads : Prop :=
  ∀ (s : State) (m : Cmd) (row k : Nat) (spc : Space) (base : DWord) (ad : Nat) (off : Nat → Nat) (p : Nat → Part),
    s.cmd? m.id = some m → s.rowReady m row = true → Counts s m k → m.kind = .accLd spc base ad →
    (∀ n < 8, accOff spc (base.toNat + 512 * row + 64 * n) = .ok (off n) ∧ s.engPart m false false spc (off n) 64 = (s, .ok (p n)) ∧
      PlainPart s s (p n) 64 ∧ s.poisoned (p n).addr 64 = false) →
    Then (.matrixRowFinal m.id row) s (fun u => cellIn u m k = { cellIn s m k with pend := (cellIn s m k).pend - 512 } ∧
      ∀ j < 128, u.tileAt m.cl m.co ad row j = s.mem.readLe ((p (j / 16)).addr + 4 * (j % 16)) 4)

/-- The code that acc.st stores of element n of a tile (R149, R188): the tile's own bits in an f32 slot without scales; else the element, divided by
the scale of its block where the slot has scales, in the slot's format. -/
def tileCode (s : State) (m : Cmd) (ad : Nat) (sl : Slot) (n : Nat) : Nat :=
  let x := s.tileAt m.cl m.co ad (n / 128) (n % 128)
  let block := n % 128 / (if sl.sblk = 0 then 16 else 32)
  if sl.elem = .flt f32 ∧ sl.scaled = false then x
  else convertSlot sl (if sl.scaled then xdiv (decodeF f32 x) (xs10 (s.tileScale m ad sl (n / 128) block)) else decodeF f32 x)

/-- Sixteen bytes of acc.st land (R188): the codes of the tile's elements in order, the scale containers after the last of them. -/
def AccStores : Prop :=
  ∀ (s : State) (m : Cmd) (j k : Nat) (spc : Space) (base : DWord) (ad slot off : Nat) (s1 : State) (p : Part),
    Landing s m k j → m.kind = .accSt spc base ad slot → accOff spc (base.toNat + 16 * k) = .ok off →
    (landsFrom s m k).engPart m true false spc off 16 = (s1, .ok p) → PlainPart (landsFrom s m k) s1 p 16 → s1.partlyPoisoned p = [] →
    let sl := s.cmdSlot m slot
    let w := elemWidth sl.elem
    let per := 128 / (if sl.sblk = 0 then 16 else 32)
    (16 * k < 2048 * w → LandsAt s m j k s1 p.addr 16 (leBytes 16 (((List.range (128 / w)).map (fun e =>
      tileCode s m ad sl (k * (128 / w) + e) * 2 ^ (w * e))).foldl (· + ·) 0))) ∧
    (2048 * w ≤ 16 * k → LandsAt s m j k s1 p.addr 16 ((List.range 8).flatMap (fun e =>
      let c := (16 * k - 2048 * w) / 2 + e
      leBytes 2 (s.tileScale m ad sl (c / per) (c % per)))))

/-- One word of acc.stx lands (R189): the tile's element times its row's multiplier, at its row's place; with `.add` it is added to what stands there,
in one rounding, at its bank (R132). -/
def AccScatters : Prop :=
  ∀ (s : State) (m : Cmd) (j k : Nat) (spc : Space) (add : Bool) (base : DWord) (ad list mul : Nat) (rows : List Nat) (off : Nat),
    let f := decodeF f32 (s.mem.readLe (spAddr m.cl m.co (mul + 4 * (k / 128))) 4)
    let x := decodeF f32 (s.tileAt m.cl m.co ad (k / 128) (k % 128))
    m.kind = .accStx spc add base ad list mul rows → s.poisoned (spAddr m.cl m.co (mul + 4 * (k / 128))) 4 = false →
    accOff (if add then .bk else spc) (base.toNat + 512 * rows.getD (k / 128) 0 + 4 * (k % 128)) = .ok off →
    (∀ s1 p, Landing s m k j → add = false → (landsFrom s m k).engPart m true false spc off 4 = (s1, .ok p) → PlainPart (landsFrom s m k) s1 p 4 →
      s1.partlyPoisoned p = [] → LandsAt s m j k s1 p.addr 4 (leBytes 4 (toF f32 .rne (xmul f x)))) ∧
    (∀ p, s.cmd? m.id = some m → m.going = true → hasIndex k m.todo = true → s.atHead m = true → hasIndex k (takeIndex k m.todo) = false → Counts s m j →
      m.dests = [] → s.session? m.ctx = none → s.engUpsets = [] → add = true → off < 2 ^ 32 → bkPart (s.ctxOf m.ctx) off 4 = some p → s.poisoned p.addr 4 = false →
      Lands (.bankElementUpdate m.id k) s m j k 4 (fun u =>
        u.mem.readLe p.addr 4 = toF f32 .rne (xfma .rne f x (decodeF f32 (s.mem.readLe p.addr 4))) % 2 ^ 32 ∧
        ∀ b, b < p.addr ∨ p.addr + 4 ≤ b → u.mem.read b = s.mem.read b))

/-- The value of a bank update (R165): y and x as codes of type ty, a the operand of axpy and scale. -/
def bankValue (op : BankOp) (ty : Nat) (rm : Rnd) (a : Word) (y x : Nat) : Nat :=
  if ty < 4 then
    let f := fmtOf ty
    let v := fun (n : Nat) => decodeF f n
    let sc := if ty = 2 then v a.toNat else v (toF f .rne (decodeF f32 a.toNat))
    match op with
    | .axpy => toF f rm (xfma rm sc (v x) (v y))
    | .scale => toF f rm (xmul sc (v y))
    | .add | .rsum => toF f rm (xadd rm (v x) (v y))
    | .min => minCode f x y
    | .max => maxCode f x y
  else
    let wx := BitVec.ofNat 32 x
    let wy := BitVec.ofNat 32 y
    match op with
    | .axpy => (a * wx + wy).toNat
    | .scale => (a * wy).toNat
    | .add | .rsum => (wx + wy).toNat
    | .min => if (if ty = 4 then wx.slt wy else wx.ult wy) then x else y
    | .max => if (if ty = 4 then wx.slt wy else wx.ult wy) then y else x

/-- The launch that a record's number r gives for packet n of queue q of a context, with an image (R317, R320). -/
structure LaunchOf (c : Context) (img : Image) (q n r : Nat) (l : Launch) : Prop where
  context : l.ctx = c.ctx ∧ l.part = c.part ∧ l.qcb = q
  image : l.image = img.handle ∧ l.image = r % 2 ^ 32 ∧ img.ctx = c.ctx ∧ (img.proc? l.entry).isSome = true
  entry : l.entry = r / 2 ^ 32 % 2 ^ 16
  scratch : l.z = 4096 * (r / 2 ^ 56 % 2 ^ 8)
  age : l.age = r / 2 ^ 64 % 2 ^ 16
  stack : l.a.toNat = r / 2 ^ 128 % 2 ^ 64 ∧ l.s = r / 2 ^ 192 % 2 ^ 32 ∧ l.p = r / 2 ^ 224 % 2 ^ 32 ∧ l.td = r / 2 ^ 88 % 2 ^ 16 ∧ l.m = r / 2 ^ 256 % 2 ^ 64
  areas : l.argblk.toNat = r / 2 ^ 320 % 2 ^ 64 ∧ l.ra.toNat = r / 2 ^ 384 % 2 ^ 64 ∧ l.bsa.toNat = r / 2 ^ 448 % 2 ^ 64 ∧ l.sra.toNat = r / 2 ^ 704 % 2 ^ 64
  signal : l.sigAddr.toNat = n / 2 ^ 64 % 2 ^ 64 ∧ l.sigVal.toNat = n / 2 ^ 128 % 2 ^ 64 ∧ l.irq = n.testBit 9
  levels : r / 2 ^ 640 % 2 ^ 64 = 0 → l.levels = (List.range (r / 2 ^ 48 % 2 ^ 8)).map (fun i =>
    let x := r / 2 ^ (768 + 32 * i)
    { extent := x % 2 ^ 16 + 1, domain := x / 2 ^ 16 % 2 ^ 3, gang := x.testBit 19 })
  threads : l.threads = (l.levels.map (fun d => d.extent)).foldl (· * ·) 1
  slots : ∀ j < 8, l.slots[j]? = some (match img.slots.find? (fun x => x.1 == j) with
    | some (_, d) => if r.testBit (80 + j) then BitVec.ofNat 64 (r / 2 ^ (1024 + 64 * j)) else d
    | none => BitVec.ofNat 64 (r / 2 ^ (1024 + 64 * j)))

/-- What a launch starts with: all of its blocks where its record has no pool, else the blocks of the pool's records, each record of which lies
in the pool (R104, R322). -/
def StartsWith (l : Launch) (pool : Option (Nat × Nat)) : Prop :=
  match pool with
  | none => l.resumed = false ∧ l.blocks.map (fun b => b.index) = List.range (l.threads / l.blockSize) ∧ (∀ b ∈ l.blocks, b.at_ = .waiting ∧ b.records = []) ∧
      l.nextChild = 0 ∧ l.barriers = []
  | some (from_, count) => l.resumed = true ∧ ∀ b ∈ l.blocks, b.at_ = .waiting ∧ b.records ≠ [] ∧
      ∀ y ∈ b.records, ∃ i < count, y.addr = BitVec.ofNat 64 (from_ + 576 * i)

/-! ### Mailbox commands, messages -/

/-- A command of a function waits in its mailbox: its opcode, a function that may issue it, a well-formed block, its payload as
a number (R309). -/
structure Submitted (s : State) (fn opcode : Nat) (d : Nat) : Prop where
  function : s.hasFunction fn = true
  waits : (s.mailbox fn).busy = true ∧ (s.mailbox fn).result = none
  opcode : s.opcode fn = opcode
  whole : s.blockBad fn = false
  payload : leNat (s.payload fn) = d

/-- The command of a function is answered OK with a result and data, and this of the state. -/
def Accepts (ins : Instr) (s : State) (fn : Nat) (result : BitVec 56) (p : State → Prop) : Prop :=
  ∃ u, exec ins s = .next u ∧ (u.mailbox fn).result = some (0, result, []) ∧ p u

/-- The command of a function is answered with a status, and nothing else changes. -/
def Answers (ins : Instr) (s : State) (fn status : Nat) : Prop :=
  exec ins s = .next (s.setMailbox { s.mailbox fn with result := some (status, 0, []) })

/-- A message of a function's DOE mailbox is answered with a response code. -/
def Responds (ins : Instr) (s : State) (fn code : Nat) (p : State → Prop) : Prop :=
  ∃ u data, exec ins s = .next u ∧ u.outputs = s.outputs ++ [.spdm fn code data] ∧ p u

end Sys2Proof.Claims

open Sys2Proof Sys2Proof.Machine Sys2Proof.Claims


/-! ### Encodings -/

/-- Every bit of a well-formed operation's encoding is read back (R193, R200, R204): decoding its bytes, whatever follows
them, gives the operation. -/
def Obligations.DecodeEncode : Prop :=
  ∀ (i : Instr) (rest : List Byte), i.wfOp = true → decodeOp (encode i ++ rest) = .op i rest


/-! ### Integer operations -/

/-- Integer arithmetic modulo 2^n for n of 32 or 64, in each of its operand forms (R230, R231, R233): sums, differences,
products and their high halves, the lesser, the greater, magnitude, negation and clamp. -/
def Obligations.IntegerResults : Prop :=
  GivesInt .add 0x040 (fun _ _ _ a b _ => a.toNat + b.toNat) ∧
  GivesInt .sub 0x042 (fun _ _ _ a b _ => (a.toNat : Int) - b.toNat) ∧
  GivesInt .mul 0x044 (fun _ _ _ a b _ => a.toNat * b.toNat) ∧
  GivesInt .mulh 0x045 (fun _ n sg a b _ => intVal n sg a * intVal n sg b / (2 ^ n : Int)) ∧
  GivesInt .mad 0x046 (fun _ _ _ a b c => a.toNat * b.toNat + c.toNat) ∧
  (∀ o, Gives (.madw o) 0x047 o (fun e t g => wrapInt 64
    (intVal 32 (opSigned o) ((rd32 e o t g o.a).zeroExtend 64) * intVal 32 (opSigned o) ((rd32 e o t g o.b).zeroExtend 64) +
      (rd64 e o t g o.c (opSigned o)).toNat))) ∧
  GivesInt .min 0x048 (fun _ n sg a b _ => min (intVal n sg a) (intVal n sg b)) ∧
  GivesInt .max 0x049 (fun _ n sg a b _ => max (intVal n sg a) (intVal n sg b)) ∧
  GivesInt .abs 0x04A (fun _ n _ a _ _ => (intVal n true a).natAbs) ∧
  GivesInt .neg 0x04B (fun _ _ _ a _ _ => -(a.toNat : Int)) ∧
  GivesInt .clamp 0x04C (fun _ n sg a b c => min (max (intVal n sg a) (intVal n sg b)) (intVal n sg c))

/-- Shifts, rotates, funnel shifts, fields and bit counts (R234, R235, R236): the cases of a count of n or more, of a length
of 0 or n, and of a zero operand are the rules' own. -/
def Obligations.ShiftResults : Prop :=
  GivesInt .shl 0x080 (fun _ n _ a b _ => if n ≤ b.toNat then 0 else a.toNat * 2 ^ b.toNat) ∧
  GivesInt .shr 0x081 (fun _ n _ a b _ => if n ≤ b.toNat then 0 else (a.toNat / 2 ^ b.toNat : Nat)) ∧
  GivesInt .sar 0x082 (fun _ n _ a b _ => intVal n true a / (2 ^ min b.toNat n : Int)) ∧
  GivesInt .rotl 0x083 (fun _ n _ a b _ => (a.toNat * 2 ^ (b.toNat % n) + a.toNat / 2 ^ (n - b.toNat % n) : Nat)) ∧
  GivesInt .fsh 0x084 (fun _ n _ a b c => ((b.toNat * 2 ^ n + a.toNat) / 2 ^ (c.toNat % n) : Nat)) ∧
  GivesInt .bfx 0x085 (fun _ n sg a b c =>
    let x := intVal n sg a / (2 ^ min b.toNat n : Int)
    if c.toNat = 0 then 0 else if n ≤ c.toNat then x else intVal c.toNat sg (wrapInt c.toNat x)) ∧
  GivesInt .bfi 0x086 (fun _ n _ a b c =>
    let pos := c.toNat % 2 ^ 8
    let len := c.toNat / 2 ^ 8 % 2 ^ 8
    let m := (2 ^ min len (n - pos) - 1) * 2 ^ pos
    if n ≤ pos ∨ len = 0 then b.toNat else (b.toNat - (b.toNat &&& m) + ((a.toNat * 2 ^ pos) &&& m) : Nat)) ∧
  GivesInt .popc 0x087 (fun _ n _ a _ _ => (((List.range n).filter (fun j => a.getLsbD j)).length : Nat)) ∧
  GivesInt .clz 0x088 (fun _ n _ a _ _ => (((List.range n).reverse.takeWhile (fun j => !a.getLsbD j)).length : Nat)) ∧
  GivesInt .ctz 0x089 (fun _ n _ a _ _ => (((List.range n).takeWhile (fun j => !a.getLsbD j)).length : Nat)) ∧
  GivesInt .brev 0x08A (fun _ n _ a _ _ =>
    (((List.range n).map (fun j => if a.getLsbD j then 2 ^ (n - 1 - j) else 0)).foldl (· + ·) 0 : Nat))

/-- Logic, moves and selects, bit by bit (R237, R238, R239), and lea, whose result is the effective address of its operands, added in 64 or in 32 bits
(R105, R241). -/
def Obligations.LogicResults : Prop :=
  GivesBits .and 0x090 (fun a b _ => a &&& b) ∧ GivesBits .or 0x091 (fun a b _ => a ||| b) ∧
  GivesBits .xor 0x092 (fun a b _ => a ^^^ b) ∧ GivesBits .not 0x093 (fun a _ _ => ~~~a) ∧
  GivesBits .andn 0x094 (fun a b _ => a &&& ~~~b) ∧
  GivesInt .bool3 0x095 (fun o n _ a b c => (((List.range n).map (fun j =>
    if o.imm.getLsbD ((if a.getLsbD j then 1 else 0) + (if b.getLsbD j then 2 else 0) + (if c.getLsbD j then 4 else 0)) then 2 ^ j
    else 0)).foldl (· + ·) 0 : Nat)) ∧
  GivesBits .mov 0x0C0 (fun a _ _ => a) ∧ GivesBits .movi 0x0C1 (fun a _ _ => a) ∧
  (∀ o, Gives (.csel o) 0x0C2 o (fun e t g =>
    if rdP o t g o.c then rdN e o t g o.a (widths 0x0C2 o).a (opSigned o) else rdN e o t g o.b (widths 0x0C2 o).b (opSigned o))) ∧
  (∀ o, Gives (.setv o) 0x0C4 o (fun _ t g => if rdP o t g o.a then 1 else 0)) ∧
  (∀ o, Gives (.lea o) 0x0C5 o (fun e t g => effAddr e o t g o.imm))

/-- Compares and predicate operations write the truth value of their condition (R240, R242, R251, R252). addc and subb write
the sum or difference with the carry, and then the carry out of n bits, in the predicate C (R230). -/
def Obligations.PredicateResults : Prop :=
  ((∀ o, GivesPred (.cmp o) 0x0C3 o (fun e t g =>
     let x := intVal (opBits o) (opSigned o) (rdN e o t g o.a (widths 0x0C3 o).a (opSigned o))
     let y := intVal (opBits o) (opSigned o) (rdN e o t g o.b (widths 0x0C3 o).b (opSigned o))
     match opSub o with
     | 0 => decide (x = y) | 1 => decide (x ≠ y) | 2 => decide (x < y) | 3 => decide (x ≤ y) | 4 => decide (x > y) | _ => decide (x ≥ y))) ∧
   (∀ o, GivesPred (.pand o) 0x0D0 o (fun _ t g => rdP o t g o.a && rdP o t g o.b)) ∧
   (∀ o, GivesPred (.por o) 0x0D1 o (fun _ t g => rdP o t g o.a || rdP o t g o.b)) ∧
   (∀ o, GivesPred (.pxor o) 0x0D2 o (fun _ t g => rdP o t g o.a ^^ rdP o t g o.b)) ∧
   (∀ o, GivesPred (.pnot o) 0x0D3 o (fun _ t g => !rdP o t g o.a)) ∧
   (∀ o, GivesPred (.pmov o) 0x0D4 o (fun _ t g => rdP o t g o.a)) ∧
   (∀ o, GivesPred (.fcmp o) 0x148 o (fun e t g =>
     let x := decodeF (fmtOf o.t.val) (fcode e o t g o.t.val o.a 0)
     let y := decodeF (fmtOf o.t.val) (fcode e o t g o.t.val o.b 0)
     if x.isNan || y.isNan then decide (opSub o = 1) || decide (opSub o = 7)
     else
       match opSub o with
       | 0 => !xlt false x y && !xlt false y x | 1 => xlt false x y || xlt false y x | 2 => xlt false x y | 3 => !xlt false y x
       | 4 => xlt false y x | 5 => !xlt false x y | 6 => true | _ => false)) ∧
   (∀ o, GivesPred (.fclass o) 0x149 o (fun e t g =>
     (rd32 e o t g o.b).getLsbD (classOf (fmtOf o.t.val) (fcode e o t g o.t.val o.a 0))))) ∧
  (∀ o s i k c g t,
     let e := Env.of s c g
     let n := opBits o
     let p : Int := if rdP o t g o.c then 1 else 0
     let u := fun (x : Spec) (w : Nat) => ((rdN e o t g x w (opSigned o)).toNat % 2 ^ n : Int)
     (Serves s i k c g t 0x041 o → (Instr.addc o).detail = none → Readable 0x041 o t g →
       let w := widths 0x041 o
       let sum := u o.a w.a + u o.b w.b + p
       let x := wrN (retire t) g o.d w.d (wrapInt n sum)
       exec (.addc o) s = After s i (opUniform 0x041 o) (wrP x.1 x.2 o.c (decide (2 ^ n ≤ sum)))) ∧
     (Serves s i k c g t 0x043 o → (Instr.subb o).detail = none → Readable 0x043 o t g →
       let w := widths 0x043 o
       let dif := u o.a w.a - u o.b w.b - p
       let x := wrN (retire t) g o.d w.d (wrapInt n dif)
       exec (.subb o) s = After s i (opUniform 0x043 o) (wrP x.1 x.2 o.c (decide (dif < 0)))))


/-! ### Compact forms -/

/-- The compact forms of v registers (R204): 32-bit arithmetic, logic, shifts and f32 arithmetic, with their results as
functions of 32-bit words. -/
def Obligations.CompactResults : Prop :=
  CompactRR .addS32Compact 0x040 (· + ·) ∧ CompactRR .subS32Compact 0x042 (· - ·) ∧ CompactRR .mulS32Compact 0x044 (· * ·) ∧
  CompactRRR .madS32Compact 0x046 (fun a b c => a * b + c) ∧
  CompactRR .minS32Compact 0x048 (fun a b => if a.slt b then a else b) ∧ CompactRR .maxS32Compact 0x049 (fun a b => if a.slt b then b else a) ∧
  CompactRR .minZ32Compact 0x048 (fun a b => if a.ult b then a else b) ∧ CompactRR .maxZ32Compact 0x049 (fun a b => if a.ult b then b else a) ∧
  CompactRR .andCompact 0x090 (· &&& ·) ∧ CompactRR .orCompact 0x091 (· ||| ·) ∧ CompactRR .xorCompact 0x092 (· ^^^ ·) ∧
  CompactRR .andnCompact 0x094 (fun a b => a &&& ~~~b) ∧
  CompactRR .shlCompact 0x080 (fun a b => a <<< b.toNat) ∧ CompactRR .shrCompact 0x081 (fun a b => a >>> b.toNat) ∧
  CompactRR .sarCompact 0x082 (fun a b => a.sshiftRight b.toNat) ∧
  (∀ d a s i k c g t, Serves s i k c g t 0x0C0 (compactOps (.movCompact d a)) → (t.v a.val).poison = false →
    exec (.movCompact d a) s = After s i false ((retire t).setV d.val (t.v a.val).val, g)) ∧
  CompactRR .faddCompact 0x140 (onF32 (fun x y => xadd .rne (decodeF f32 x) (decodeF f32 y))) ∧
  CompactRR .fsubCompact 0x141 (onF32 (fun x y => xadd .rne (decodeF f32 x) (xneg (decodeF f32 y)))) ∧
  CompactRR .fmulCompact 0x142 (onF32 (fun x y => xmul (decodeF f32 x) (decodeF f32 y))) ∧
  CompactRRR .ffmaCompact 0x143 (fun a b c => onF32 (fun x y => xfma .rne (decodeF f32 x) (decodeF f32 y) (decodeF f32 c.toNat)) a b) ∧
  CompactRR .fminCompact 0x144 (fun a b => BitVec.ofNat 32 (minCode f32 a.toNat b.toNat)) ∧
  CompactRR .fmaxCompact 0x145 (fun a b => BitVec.ofNat 32 (maxCode f32 a.toNat b.toNat))

/-- The compact compares (R204, R240): signed and unsigned orders of 32-bit words, into p0 to p7. The compact forms with an
immediate, extended by sign to 32 bits (R204); a shift count of 32 or more counts as one. -/
def Obligations.CompactComparesAndImmediates : Prop :=
  (CompactCmp .cmpEqS32Compact (fun a b => decide (a = b)) ∧ CompactCmp .cmpNeS32Compact (fun a b => decide (a ≠ b)) ∧
   CompactCmp .cmpLtS32Compact (fun a b => a.slt b) ∧ CompactCmp .cmpLeS32Compact (fun a b => a.sle b) ∧
   CompactCmp .cmpGtS32Compact (fun a b => b.slt a) ∧ CompactCmp .cmpGeS32Compact (fun a b => b.sle a) ∧
   CompactCmp .cmpLtZ32Compact (fun a b => a.ult b) ∧ CompactCmp .cmpLeZ32Compact (fun a b => a.ule b) ∧
   CompactCmp .cmpGtZ32Compact (fun a b => b.ult a) ∧ CompactCmp .cmpGeZ32Compact (fun a b => b.ule a) ∧
   CompactCmpImm .cmpEqImmCompact (fun a b => decide (a = b)) ∧ CompactCmpImm .cmpNeImmCompact (fun a b => decide (a ≠ b)) ∧
   CompactCmpImm .cmpLtImmCompact (fun a b => a.slt b) ∧ CompactCmpImm .cmpLeImmCompact (fun a b => a.sle b) ∧
   CompactCmpImm .cmpGtImmCompact (fun a b => b.slt a) ∧ CompactCmpImm .cmpGeImmCompact (fun a b => b.sle a)) ∧
  (CompactImm .addImmCompact 0x040 (· + ·) ∧ CompactImm .mulImmCompact 0x044 (· * ·) ∧ CompactImm .andImmCompact 0x090 (· &&& ·) ∧
   CompactImm .orImmCompact 0x091 (· ||| ·) ∧ CompactImm .xorImmCompact 0x092 (· ^^^ ·) ∧
   CompactImm .shlImmCompact 0x080 (fun a b => a <<< b.toNat) ∧ CompactImm .shrImmCompact 0x081 (fun a b => a >>> b.toNat) ∧
   CompactImm .sarImmCompact 0x082 (fun a b => a.sshiftRight b.toNat) ∧
   (∀ d n s i k c g t, Serves s i k c g t 0x0C1 (compactOps (.moviCompact d n)) →
     exec (.moviCompact d n) s = After s i false ((retire t).setV d.val (n.signExtend 32), g)))


/-! ### Floating point -/

/-- Floating-point arithmetic (R249, R253): each element is the exact result rounded once in the mode of the operation. -/
def Obligations.FloatResults : Prop :=
  GivesF .fadd 0x140 (fun f md a b _ => toF f md (xadd md (decodeF f a) (decodeF f b))) ∧
  GivesF .fsub 0x141 (fun f md a b _ => toF f md (xadd md (decodeF f a) (xneg (decodeF f b)))) ∧
  GivesF .fmul 0x142 (fun f md a b _ => toF f md (xmul (decodeF f a) (decodeF f b))) ∧
  GivesF .ffma 0x143 (fun f md a b c => toF f md (xfma md (decodeF f a) (decodeF f b) (decodeF f c))) ∧
  GivesF .fmin 0x144 (fun f _ a b _ => minCode f a b) ∧ GivesF .fmax 0x145 (fun f _ a b _ => maxCode f a b) ∧
  GivesF .frnd 0x14A (fun f md a _ _ => frndCode f md a) ∧ GivesF .ffrac 0x14B (fun f md a _ _ => ffracCode f md a)

/-- idiv and irem are long-latency, their words wait to land (R65); they give the quotient truncated toward zero and the remainder;
a divisor of 0 gives all ones and the dividend; the most negative number over −1 gives itself and 0 (R232). -/
def Obligations.DivisionResults : Prop :=
  ∀ o, let n := opBits o
    let u := fun (e : Env) (t : Thread) (g : Group) (opc : Nat) =>
      ((rdN e o t g o.a (widths opc o).a (opSigned o)), (rdN e o t g o.b (widths opc o).b (opSigned o)))
    let v := fun (x : DWord) => intVal n (opSigned o) x
    GivesLong (.idiv o) 0x04D o (fun e t g =>
      let x := u e t g 0x04D
      if x.2 = 0 then wrapInt n (2 ^ n - 1)
      else if opSigned o = true ∧ v x.1 = -(2 ^ (n - 1) : Int) ∧ v x.2 = -1 then x.1
      else wrapInt n ((v x.1).tdiv (v x.2))) ∧
    GivesLong (.irem o) 0x04E o (fun e t g =>
      let x := u e t g 0x04E
      if x.2 = 0 then x.1
      else if opSigned o = true ∧ v x.1 = -(2 ^ (n - 1) : Int) ∧ v x.2 = -1 then 0
      else wrapInt n (v x.1 - (v x.1).tdiv (v x.2) * v x.2))

/-- Division and the functions of floating point are long-latency: their words wait to land (R249, R254). The elementary functions
give the model's rounding of the function (log entry 8). -/
def Obligations.LongResults : Prop :=
  (∀ o, GivesLong (.fdiv o) 0x146 o (byElement o (fun f md a b _ => toF f md (xdiv (decodeF f a) (decodeF f b))))) ∧
  GivesLongF .rcp 0x180 (fun f md a => toF f md (xdiv (xint 1) (decodeF f a))) ∧
  GivesLongF .rsq 0x181 (fun f md a => toF f md (rsqX (decodeF f a))) ∧
  GivesLongF .sqrt 0x182 (fun f md a => toF f md (sqrtX (decodeF f a))) ∧
  (∀ o, GivesLong (.exp2 o) 0x183 o (byElement o (fun f md a _ _ => elemFn .exp2 o.t.val f md a))) ∧
  (∀ o, GivesLong (.log2 o) 0x184 o (byElement o (fun f md a _ _ => elemFn .log2 o.t.val f md a))) ∧
  (∀ o, GivesLong (.sin o) 0x185 o (byElement o (fun f md a _ _ => elemFn .sin o.t.val f md a))) ∧
  (∀ o, GivesLong (.cos o) 0x186 o (byElement o (fun f md a _ _ => elemFn .cos o.t.val f md a))) ∧
  (∀ o, GivesLong (.tanh o) 0x187 o (byElement o (fun f md a _ _ => elemFn .tanh o.t.val f md a))) ∧
  (∀ o, GivesLong (.erf o) 0x188 o (byElement o (fun f md a _ _ => elemFn .erf o.t.val f md a)))

/-- Conversions complete with the value of their SUB (R256, R257); those into and out of a slot, the scaled conversion, the choice of a scale,
packing and unpacking complete with theirs where the slot that they name is bound (R257 to R260), and stop with class 17 where it is not (R147);
unpack stops with class 3 at a field that the word does not hold (R260). -/
def Obligations.ConversionResults : Prop :=
  (CvtFloats ∧ CvtIntegers) ∧
  (∀ o, opSub o = 14 → GivesSlot (.cvt o) 0x190 o (fun e t g => BitVec.ofNat 64 (convertSlot (e.slot o.t.val) (decodeF f32 (word32 e o t g 0))))) ∧
  (∀ o, opSub o = 15 → GivesSlot (.cvt o) 0x190 o (fun e t g =>
    let el := (e.slot o.t.val).elem
    BitVec.ofNat 64 (toF f32 .rne (decodeElem el (word32 e o t g 0 % 2 ^ elemWidth el))))) ∧
  (∀ o, GivesSlot (.cvtSc o) 0x191 o (fun e t g => BitVec.ofNat 64 (convertSlot (e.slot o.t.val)
    (xdiv (decodeF f32 (rd32 e o t g o.a).toNat) (xs10 ((rd32 e o t g o.b).toNat % 2 ^ 16)))))) ∧
  (∀ o, GivesSlot (.bscale o) 0x192 o (fun e t g =>
    BitVec.ofNat 64 (chooseScale (e.slot o.t.val).elem (xabs (decodeF f32 (rd32 e o t g o.a).toNat))))) ∧
  (∀ o, GivesSlot (.pack o) 0x193 o (fun e t g =>
    let w := elemWidth (e.slot o.t.val).elem
    let x := convertSlot (e.slot o.t.val) (decodeF f32 (rd32 e o t g o.a).toNat)
    BitVec.ofNat 64 (if w < 32 then (rd32 e o t g o.b).toNat / 2 ^ w ||| x * 2 ^ (32 - w) else x))) ∧
  (∀ o s i k c g t, Serves s i k c g t 0x194 o → (Instr.unpack o).detail = none → Readable 0x194 o t g →
    let sl := (Env.of s c g).slot o.t.val
    let w := elemWidth sl.elem
    (sl.elem ≠ .none → opSub o < 32 / w →
      exec (.unpack o) s = After s i (opUniform 0x194 o) (wrN (retire t) g o.d (widths 0x194 o).d
        (BitVec.ofNat 64 (toF f32 .rne (decodeElem sl.elem ((rd32 (Env.of s c g) o t g o.a).toNat / 2 ^ (opSub o * w) % 2 ^ w)))))) ∧
    (sl.elem ≠ .none → 32 / w ≤ opSub o → StopsAt (.unpack o) s i (0x34 + qualifier i) k 0 t.path)) ∧
  (∀ o s i k c g t opc ins, (ins, opc) ∈ [(Instr.cvt o, 0x190), (.cvtSc o, 0x191), (.bscale o, 0x192), (.pack o, 0x193), (.unpack o, 0x194)] →
    Serves s i k c g t opc o → ins.detail = none → Readable opc o t g → (opc = 0x190 → 14 ≤ opSub o) → ((Env.of s c g).slot o.t.val).elem = .none →
    StopsAt ins s i (0x110 + qualifier i) k 0 t.path)


/-! ### Cross-thread operations -/

/-- Cross-thread operations act on every active thread of the front at once, in thread order (R51, R243): previous values,
scans and reductions, the exchange buffer (the last thread's word stands), votes, the lowest index and the count. xbcast and
xpick read slot k's thread, active or not, through its own window (R51, R243). -/
def Obligations.CrossResults : Prop :=
  ((∀ o, GivesAll (.xprev o) 0x100 o (fun e g l =>
     let c := match l with | [] => 0 | t :: _ => if o.b = .imm then crossSrc e o t g o.b else rdN e o t g o.b (crossWords o) false
     ((l.zip (c :: l.map (rawA e o g))).map (fun x => wroteD o g x.1 x.2), g))) ∧
   (∀ o, GivesAll (.xscan o) 0x101 o (fun e g l =>
     let f := combine (opSub o % 8) o.t.val (opBits o)
     let init := match l with | [] => 0 | t :: _ => crossSrc e o t g o.b
     let acc := fun (j : Nat) => ((l.take j).map (srcA e o g)).foldl f init
     (l.zipIdx.map (fun x => wroteD o g x.1 (acc (if (opSub o).testBit 3 then x.2 + 1 else x.2))), g))) ∧
   (∀ o, GivesAll (.xred o) 0x102 o (fun e g l =>
     let f := combine (opSub o % 8) o.t.val (opBits o)
     let x := match l with | [] => crossIdentity (opSub o % 8) o.t.val (opBits o) | t :: r => (r.map (srcA e o g)).foldl f (srcA e o g t)
     (l, match o.d with | .g n => if crossWords o = 2 then (g.setG n.val (x.extractLsb' 0 32)).setG (n.val + 1) (x.extractLsb' 32 32)
                                  else g.setG n.val (x.extractLsb' 0 32) | _ => g))) ∧
   (∀ o, GivesAll (.xput o) 0x105 o (fun e g l =>
     (l, { g with exch := l.foldl (fun ex t => exchPut o ex (rd32 e o t g o.b).toNat (rawA e o g t)) g.exch }))) ∧
   (∀ o, GivesAll (.xget o) 0x106 o (fun e g l => (l.map (fun t => wroteD o g t (exchGet o g.exch (rd32 e o t g o.a).toNat)), g))) ∧
   (∀ o, GivesAll (.vote o) 0x107 o (fun _ g l =>
     let yes := l.filter (fun t => rdP o t g o.a)
     (l, match o.d with
         | .q n => g.setQ n.val (if opSub o = 0 then !yes.isEmpty else decide (yes.length = l.length))
         | .g n => g.setG n.val (BitVec.ofNat 32 (if opSub o = 2 then yes.foldl (fun r t => r + 2 ^ t.tslot) 0 else yes.length))
         | _ => g))) ∧
   (∀ o, GivesAll (.first o) 0x108 o (fun _ g l =>
     (l, match o.d, l with | .g n, t :: _ => g.setG n.val (BitVec.ofNat 32 t.tslot) | _, _ => g))) ∧
   (∀ o, GivesAll (.actc o) 0x109 o (fun _ g l => (l, match o.d with | .g n => g.setG n.val (BitVec.ofNat 32 l.length) | _ => g)))) ∧
  (∀ o s i c g t r x,
     let e := Env.of s c g
     let k := (rd32 e o t g o.b).toNat
     poisonOf t g o.b 1 0 = none → k ≤ 31 → c.threadAt g k = some x → x.live = true → awayChunk x o.a (crossWords o) = none →
     poisonOf x g o.a (crossWords o) 0 = none → misaligned o.d (crossWords o) = false → misaligned o.a (crossWords o) = false →
     (ServesAll s i c g (t :: r) 0x103 o → (Instr.xbcast o).detail = none →
       exec (.xbcast o) s = AfterAll s i (opUniform 0x103 o) (t :: r) ((t :: r).map (fun y => wroteD o g y (rawA e o g x)), g)) ∧
     (ServesAll s i c g (t :: r) 0x104 o → (Instr.xpick o).detail = none →
       exec (.xpick o) s = AfterAll s i (opUniform 0x104 o) (t :: r) (t :: r, wroteG o t g (rawA e o g x))))


/-! ### Memory -/

/-- Loads issue (R116, R267), in their canonical and compact forms (R204). Stores issue (R116, R268), in their canonical and
compact forms (R204). One whose check fails stops its pass with the class, detail and address of R264, and issues nothing. -/
def Obligations.LoadsAndStoresIssue : Prop :=
  ((∀ o, LoadFails (.ld o) o) ∧ (∀ d a b, LoadFails (.ldGmCompact d a b) (compactOps (.ldGmCompact d a b))) ∧
   (∀ d a b, LoadFails (.ldSpCompact d a b) (compactOps (.ldSpCompact d a b))) ∧
   (∀ d a n, LoadFails (.ldGmImmCompact d a n) (compactOps (.ldGmImmCompact d a n))) ∧
   (∀ d a n, LoadFails (.ldSpImmCompact d a n) (compactOps (.ldSpImmCompact d a n)))) ∧
  ((∀ o, StoreFails (.st o) o) ∧ (∀ d a b, StoreFails (.stGmCompact d a b) (compactOps (.stGmCompact d a b))) ∧
   (∀ d a b, StoreFails (.stSpCompact d a b) (compactOps (.stSpCompact d a b))) ∧
   (∀ d a n, StoreFails (.stGmImmCompact d a n) (compactOps (.stGmImmCompact d a n))) ∧
   (∀ d a n, StoreFails (.stSpImmCompact d a n) (compactOps (.stSpImmCompact d a n)))) ∧
  ((∀ o, Loads (.ld o) o) ∧ (∀ d a b, Loads (.ldGmCompact d a b) (compactOps (.ldGmCompact d a b))) ∧
   (∀ d a b, Loads (.ldSpCompact d a b) (compactOps (.ldSpCompact d a b))) ∧
   (∀ d a n, Loads (.ldGmImmCompact d a n) (compactOps (.ldGmImmCompact d a n))) ∧
   (∀ d a n, Loads (.ldSpImmCompact d a n) (compactOps (.ldSpImmCompact d a n)))) ∧
  ((∀ o, Stores (.st o) o) ∧ (∀ d a b, Stores (.stGmCompact d a b) (compactOps (.stGmCompact d a b))) ∧
   (∀ d a b, Stores (.stSpCompact d a b) (compactOps (.stSpCompact d a b))) ∧
   (∀ d a n, Stores (.stGmImmCompact d a n) (compactOps (.stGmImmCompact d a n))) ∧
   (∀ d a n, Stores (.stSpImmCompact d a n) (compactOps (.stSpImmCompact d a n))))

/-- Atomics and reductions issue (R272, R273), with a word to land only where an atomic writes a register; ldk reads its pool
at once and its words land as a load's (R115, R269); prf changes no value, and is dropped or takes one request (R116, R270); cctl has no
effect (R278); a fence is added to its
thread's accesses (R276, R277). An atomic or a reduction whose check fails stops its pass with the class, detail and address of R264, and issues
nothing. -/
def Obligations.OtherAccessesIssue : Prop :=
  (∀ (red : Bool) o, ChecksFail (if red then .red o else .atom o) (if red then 0x1C5 else 0x1C4) 2 o (fun x => ∃ op b c, x = .update op b c red) (atomEa o)) ∧
  (∀ (red : Bool) o s i k c g t s1 ps, let opc := if red then 0x1C5 else 0x1C4
    let ins := if red then Instr.red o else Instr.atom o
    Serves s i k c g t opc o → ins.detail = none → operandHalt t g o (widths opc o) 1 2 2 = none →
    let e := Env.of s c g
    let r := retiredAll s i
    let base : Int := if spOf o < 2 then (rd64 e o t g o.a false).toNat else (rd32 e o t g o.a).toNat
    let ea := wrapInt (if spOf o < 2 then 64 else 32) (base + (if o.b = .imm ∨ o.c = .imm then 0 else o.imm).toInt)
    let op := AccOp.update (o.mod.extractLsb' 8 4).toNat (atomSrc e o t g o.b) (atomSrc e o t g o.c) red
    r.checkAccess e.cl e.co (r.ctxOf e.ctx) (retire t) (spOf o) 2 ea.toNat (memBytes o.t.val) = (s1, .ok (.parts ps)) → s1.roomFor i op ps = true →
    ∃ u a, exec ins s = .next u ∧ u.accs = s1.accs ++ [a] ∧ u.mem = s1.mem ∧ u.cur = some (i.finished (opUniform opc o)) ∧
      a.op = op ∧ a.parts = ps ∧ a.ea = ea ∧ a.tid = t.tid ∧
      (if red = true ∨ longDests t o.d (widths opc o).d = [] then a.long = none ∧ u.longs = s1.longs
       else ∃ l, u.longs = s1.longs ++ [l] ∧ a.long = some l.id ∧ l.dests = longDests t o.d (widths opc o).d ∧ l.data = none)) ∧
  (∀ o s i k c g t img p lf, Serves s i k c g t 0x1C2 o → (Instr.ldk o).detail = none → Readable 0x1C2 o t g →
    let e := Env.of s c g
    let r := retiredAll s i
    let off := (rd32 e o t g o.a).toNat
    let n := memBytes o.t.val
    r.codeOf t t.image = some img → r.proc? t.image t.path.proc = some p → off % n = 0 → off + n ≤ p.poolLen →
    r.codePage img (p.pool + off) = .ok lf → lf.prot = false → (p.pool + off) % 4096 + n ≤ 4096 →
    exec (.ldk o) s = Started s i t (opUniform 0x1C2 o) (longDests t o.d (widths 0x1C2 o).d)
      (some (loadWords (o.t.val == 1 || o.t.val == 3) n (bytesOf r { addr := lf.phys + (p.pool + off) % 4096, len := n })))) ∧
  (∀ o s i k c g t, Serves s i k c g t 0x1C3 o → (Instr.prf o).detail = none → operandHalt t g o (widths 0x1C3 o) 1 1 0 = none →
    let e := Env.of s c g
    let r := retiredAll s i
    let ea := effAddr e o t g o.imm
    let chk := r.checkGm e.cl e.co (r.ctxOf e.ctx) ⟨0, true, false, false⟩ ea.toNat 1
    (canonicalVa ea.toNat = false → NoEffect (.prf o) s i (opUniform 0x1C3 o)) ∧
    (canonicalVa ea.toNat = true → r.onCode e.ctx ea.toNat = false →
      (∀ s1 h, chk = (s1, .error h) → exec (.prf o) s = .next { s1 with cur := some (i.finished (opUniform 0x1C3 o)) }) ∧
      (∀ s1 ps, chk = (s1, .ok ps) → s1.roomFor i .prefetch ps = true → ∃ u a, exec (.prf o) s = .next u ∧ u.mem = s1.mem ∧ u.longs = s1.longs ∧
        u.accs = s1.accs ++ [a] ∧ a.op = .prefetch ∧ a.parts = ps ∧ a.ea = ea ∧ a.tid = t.tid ∧ u.cur = some (i.finished (opUniform 0x1C3 o))))) ∧
  (∀ o s i k c g t, Serves s i k c g t 0x1CA o → (Instr.cctl o).detail = none → poisonOf t g o.a 2 1 = none → poisonOf t g o.b 2 0 = none →
    NoEffect (.cctl o) s i (opUniform 0x1CA o)) ∧
  (∀ o s i k c g t, Serves s i k c g t 0x1C9 o → (Instr.fence o).detail = none →
    ∃ u a, exec (.fence o) s = .next u ∧ u.accs = FenceAfter s.accs a ∧ u.mem = s.mem ∧ a.op = .fence none 0 0 ∧ a.ord = ordOf o ∧ a.tid = t.tid) ∧
  (∀ o s i k c g t, Serves s i k c g t 0x1C8 o → (Instr.fenceR o).detail = none → poisonOf t g o.a (widths 0x1C8 o).a 1 = none →
    poisonOf t g o.b (widths 0x1C8 o).b 0 = none →
    let e := Env.of s c g
    let base := if spOf o < 2 then (rd64 e o t g o.a false).toNat else (rd32 e o t g o.a).toNat
    let lo := if spOf o = 1 then base - base / 2 ^ 34 % 2 ^ 6 * 2 ^ 34 else base
    ∃ u a, exec (.fenceR o) s = .next u ∧ u.accs = FenceAfter s.accs a ∧ u.mem = s.mem ∧ a.ord = ordOf o ∧ a.tid = t.tid ∧
      a.op = .fence (some (spaceOf (spOf o))) lo (min (lo + (rd64 e o t g o.b false).toNat) (2 ^ 64)))

/-- A store performed writes exactly its bytes (R120, R126): each byte of its part reads what the store gave it, every other
byte of memory reads as before, and the access is over. Where it is a release, every load behind an acquire of its bytes, the scope of each
including the threads of both, reads anew (R118, R123). -/
def Obligations.StorePerforms : Prop :=
  ∀ (s : State) (a : Access) (p : Part) (data : List Byte), Ready s a p → a.op = .store data → p.off + p.len ≤ data.length →
    s.partlyPoisoned p = [] →
    ∃ u, exec (.accessPerform a.id) s = .next u ∧ (∀ b ∈ u.accs, b.id ≠ a.id) ∧
      (∀ x, p.addr ≤ x → x < p.addr + p.len → u.mem.read x = data.getD (p.off + (x - p.addr)) 0) ∧
      (∀ x, x < p.addr ∨ p.addr + p.len ≤ x → u.mem.read x = s.mem.read x) ∧
      (a.ord = .rel → p.kind ≠ .uo → (s.accs.map (fun x => x.id)).Nodup → ∀ (i j : Nat) (x y : Access), s.accs[i]? = some x → s.accs[j]? = some y → i < j →
        x.ord = .acq → x.nonUo = true → y.nonUo = true → y.missed = [] → x.sharesOwner y = true → x.parts.any (fun q => q.meets p) = true →
        includes a.scope a.agent x.agent = true → includes x.scope a.agent x.agent = true → ∀ b ∈ u.accs, b.id = y.id → b.looked = [])

/-- A load performed takes the bytes of memory as they are (R119, R120): its long operation may land with the words they
form, poisoned where memory is (R58), and memory does not change. A load that only acquires of its thread hold back may read its bytes before them,
without effect yet; it takes them when it is performed, and an acquire that a later write has passed takes what it would have read then (R118, R123;
that they may is the model's reading, log entry 90). -/
def Obligations.LoadPerforms : Prop :=
  ∀ (s : State) (a : Access) (p : Part),
    (Ready s a p → a.op = .load →
      let Takes := fun (got : List (Nat × Byte × Bool)) => ∃ u, exec (.accessPerform a.id) s = .next u ∧ (∀ b ∈ u.accs, b.id ≠ a.id) ∧ u.mem = s.mem ∧
        (∀ l, a.long = some l.id → s.long? l.id = some l →
          u.long? l.id = some { l with data := some ((loadWords a.sext a.width got).take l.dests.length) })
      (a.fixed = false → a.looked = [] → Takes (bytesOf s p)) ∧ (∀ got, (if a.fixed then a.passed else a.looked) = [(p, got)] → Takes got)) ∧
    (s.acc? a.id = some a → a.op = .load → s.partsReady a = [] → s.partsAhead a = [p] → a.looked = [] → s.stale p = false → p.prot = false →
      ∃ u, exec (.accessPerform a.id) s = .next u ∧ u.mem = s.mem ∧ u.longs = s.longs ∧ u.acc? a.id = some { a with looked := [(p, bytesOf s p)] })

/-- An atomic performed at its home (R271, R272, R274) replaces its word by the operation's value, or leaves it where a
compare finds another value; every other byte reads as before, and the old value goes to the register that waits for it. -/
def Obligations.AtomicPerforms : Prop :=
  ∀ (s : State) (a : Access) (p : Part) (op : Nat) (b c : DWord) (red : Bool), Ready s a p → a.op = .update op b c red → s.poisoned p.addr p.len = false →
    (p.len = 4 ∨ p.len = 8) → b.toNat < 2 ^ (8 * p.len) → c.toNat < 2 ^ (8 * p.len) → s.session? a.ctx = none →
    let w := s.mem.readLe p.addr p.len
    ∃ u, exec (.homeAtomicPerform a.id) s = .next u ∧ (∀ x ∈ u.accs, x.id ≠ a.id) ∧
      u.mem.readLe p.addr p.len = (atomicValue op (8 * p.len) w b.toNat c.toNat).getD w % 2 ^ (8 * p.len) ∧
      (∀ x, x < p.addr ∨ p.addr + p.len ≤ x → u.mem.read x = s.mem.read x) ∧
      (∀ l, a.long = some l.id → s.long? l.id = some l →
        u.long? l.id = some { l with data := some (((List.range (a.width / 4)).map (fun j =>
          (⟨BitVec.ofNat 32 (w / 2 ^ (32 * j)), false⟩ : PWord))).take l.dests.length) })

/-- A long operation lands (R65): its stack words and its group's registers take its data, a word it does not name is as
before, and it is no longer in progress; memory does not change. -/
def Obligations.LongOpLands : Prop :=
  ∀ (s : State) (l : LongOp) (data : List PWord) (t : Thread) (g : Group), s.long? l.id = some l → l.data = some data → l.dests.Nodup →
    s.thread? l.cl l.co l.tid = some t → (s.core l.cl l.co).group? l.gslot = some g →
    ∃ u t' g', exec (.longOpLands l.id) s = .next u ∧ (∀ x ∈ u.longs, x.id ≠ l.id) ∧ u.mem = s.mem ∧
      u.thread? l.cl l.co l.tid = some t' ∧ (u.core l.cl l.co).group? l.gslot = some g' ∧
      (∀ (j w : Nat) (x : PWord), l.dests[j]? = some (Dest.v w) → data[j]? = some x → assocGet ⟨0, false⟩ t'.stk w = x) ∧
      (∀ w, Dest.v w ∉ l.dests → assocGet ⟨0, false⟩ t'.stk w = assocGet ⟨0, false⟩ t.stk w) ∧
      (∀ (j n : Nat) (x : PWord), l.dests[j]? = some (Dest.g n) → data[j]? = some x → g'.gReg n = x) ∧
      (∀ n, Dest.g n ∉ l.dests → g'.gReg n = g.gReg n)


/-! ### Control operations -/

/-- Clause controls (R214 to R218): what each makes its thread do next, and nothing else. -/
def Obligations.ClauseControls : Prop :=
  ∀ o s i k c g t,
    (Serves s i k c g t 0x000 o → (Instr.nop o).detail = none → exec (.nop o) s = After s i (opUniform 0x000 o) (retire t, g)) ∧
    (Serves s i k c g t 0x001 o → (Instr.exit o).detail = none →
      exec (.exit o) s = After s i (opUniform 0x001 o) ({ retire t with act := .move (.exit (o.imm.toNat % 16)) }, g)) ∧
    (Serves s i k c g t 0x002 o → (Instr.next o).detail = none →
      exec (.next o) s = After s i (opUniform 0x002 o) ({ retire t with act := .move (.next (o.imm.toNat % 16)) }, g)) ∧
    (Serves s i k c g t 0x003 o → (Instr.ret o).detail = none → exec (.ret o) s = After s i (opUniform 0x003 o) ({ retire t with act := .ret }, g)) ∧
    (Serves s i k c g t 0x004 o → (Instr.quit o).detail = none → t.frame = none → t.gslot = some i.gs → t.tslot = k →
      ∃ u, exec (.quit o) s = .next u ∧ ThreadIs u i t.tid (fun x => x.act = .ended ∧ x.gslot = none ∧ x.stk = t.stk)) ∧
    (Serves s i k c g t 0x005 o → (Instr.yield o).detail = none →
      let w := yieldSet ((retiredAll s i).core i.cl i.co) g (activeSlots o s i)
      ∃ u, exec (.yield o) s = .next u ∧ u.mem = s.mem ∧ ThreadIs u i t.tid (fun x => x = { retire t with demoted := !w.isEmpty, waitSet := w }))

/-- trap stops the pass at its first active thread with class 0 and the detail of its operand, before any effect on it or on a
later thread (R222, R54); bkpt stops it with class 21, detail 0 and its tag as the address where breakpoints are enabled,
and acts as nop where they are not (R223). -/
def Obligations.TrapsAndBreakpoints : Prop :=
  ∀ o s i k l c g t, s.cur = some i → i.threads = k :: l → s.slotThread i k = some (c, g, t) → guardVal o t = ⟨true, false⟩ → s.upsetOf i k = none →
    ((Instr.trap o).detail = none → StopsAt (.trap o) s i (o.imm.toNat % 16) k 0 t.path) ∧
    ((Instr.bkpt o).detail = none → c.bkpten = true → StopsAt (.bkpt o) s i 0x150 k (BitVec.ofNat 64 (o.imm.toNat % 2 ^ 16)) t.path) ∧
    ((Instr.bkpt o).detail = none → c.bkpten = false → l = [] → NoEffect (.bkpt o) s i false)

/-- tret with a valid trap frame gives the thread back what the trap took (R224): its position at rest, predicates, level,
image, window, and the trip counters of the record that the trap saved (R78); RETRY leaves it at that position, SKIP takes it past it, QUIT ends it. Without a valid
frame it stops with class 2. -/
def Obligations.TrapReturns : Prop :=
  ∀ o s i k c g t, Serves s i k c g t 0x011 o → (Instr.tret o).detail = none → opUniform 0x011 o = false → c.bkpten = false →
    (∀ fr, t.frame = some fr →
      let a := o.imm.toNat % 4
      let skip := a = 2 ∨ (a = 0 ∧ (fr.cause / 16 = 0 ∨ fr.cause / 16 = 21))
      ∃ u, exec (.tret o) s = .next u ∧ u.cur = some (i.finished false) ∧
        (if a = 3 then ThreadIs u i t.tid (fun x => x.act = .ended ∧ x.frame = none)
         else ThreadIs u i t.tid (fun x => x.frame = none ∧ x.path = fr.rest ∧ x.preds = fr.preds ∧ x.level = fr.fromLevel ∧ x.image = fr.image ∧
          x.wb = fr.wb ∧
          x.trips = fr.trips.zipIdx.map (fun y => (y.1.1, (assocGet [] t.tripRecs fr.depth).getD y.2 0)) ∧
          (¬ skip → x.act = fr.act) ∧ (skip → x.act = (if fr.act = .rest then .move .advance else .move .complete)) ∧
          (∀ w, w < fr.wb + fr.f → assocGet ⟨0, false⟩ x.stk w = assocGet ⟨0, false⟩ t.stk w)))) ∧
    (t.frame = none → StopsAt (.tret o) s i (0x20 + qualifier i) k 0 t.path)

/-- movs reads the thread's own path record and the fields of its trap frame, zero where no frame is valid (R225); ctlr reads
the context's number, its fault mode, ERRSUM, BKPTEN, and the interrupted window and predicates (R226). ctlw writes what R226
lets it write: CTX and FMODE ignore a write, ERRSUM clears the bits written as 1, DBGCTL sets BKPTEN, and the interrupted
window and predicates take the word; at user level the context's registers stop the thread with class 2 (R226, R338). -/
def Obligations.SystemRegisters : Prop :=
  (∀ o s i k c g t,
     let e := Env.of s c g
     (Serves s i k c g t 0x014 o → (Instr.movs o).detail = none → Readable 0x014 o t g →
       let sel := (rd32 e o t g o.a).toNat
       let w := (widths 0x014 o).d
       let word := fun (n : Nat) =>
         let p := fun (x : Path) (j : Nat) => x.encode / 2 ^ (32 * j) % 2 ^ 32
         if n < 4 then p t.path n
         else match t.frame with
           | none => 0
           | some fr => if n < 8 then p fr.path (n - 4) else if n = 8 then fr.cause % 512 else if n = 9 then fr.k
             else if n = 10 then fr.addr.toNat % 2 ^ 32 else if n = 11 then fr.addr.toNat / 2 ^ 32
             else if n = 12 then (if fr.level = .supervisor then 3 else 1) else 0
       sel ≤ 15 → (w = 2 → sel % 2 = 0) →
       exec (.movs o) s = After s i (opUniform 0x014 o) (wrN (retire t) g o.d w (BitVec.ofNat 64 (word sel + 2 ^ 32 * word (sel + 1))))) ∧
     (Serves s i k c g t 0x015 o → (Instr.ctlr o).detail = none → opUniform 0x015 o = false →
       let n := o.imm.toNat % 512
       let cx := s.ctxOf e.ctx
       let Reads := fun (x : Nat) => ∃ u, exec (.ctlr o) s = .next u ∧ u.mem = s.mem ∧ u.cur = some (i.finished false) ∧
         ThreadIs u i t.tid (fun y => y = (wrWord (retire t) g o.d 0 (BitVec.ofNat 32 x)).1)
       (t.level = .supervisor →
         (n = 0 → Reads (e.ctx % 2 ^ 16)) ∧ (n = 1 → Reads (if cx.trapMode then 1 else 0)) ∧
         (n = 2 → Reads ((match g.pend with | some x => x % 512 * 16 + 2 | none => 0) + (if cx.ovf then 4 else 0) + (if cx.latent then 1 else 0))) ∧
         (n = 3 → Reads (if c.bkpten then 1 else 0))) ∧
       (∀ fr, t.frame = some fr →
         (0x100 ≤ n → n < 0x180 → n - 0x100 < fr.f → t.spilled.contains ((fr.wb + (n - 0x100)) / 8) = false → (assocGet ⟨0, false⟩ t.stk (fr.wb + (n - 0x100))).poison = false →
           Reads (assocGet ⟨0, false⟩ t.stk (fr.wb + (n - 0x100))).val.toNat) ∧
         (n = 0x180 → Reads 1) ∧
         (0x180 < n → n ≤ 0x187 → (assocGet ⟨false, false⟩ fr.preds (n - 0x180)).poison = false →
           Reads (if (assocGet ⟨false, false⟩ fr.preds (n - 0x180)).val then 1 else 0))))) ∧
  (∀ o s i k c g t, Serves s i k c g t 0x016 o → (Instr.ctlw o).detail = none → Readable 0x016 o t g → opUniform 0x016 o = false → c.bkpten = false →
     let e := Env.of s c g
     let n := o.imm.toNat % 512
     let x := rd32 e o t g o.a
     let Next := fun (p : State → Prop) => ∃ u, exec (.ctlw o) s = .next u ∧ u.mem = s.mem ∧ u.cur = some (i.finished false) ∧ p u
     (t.level = .supervisor →
       (n ≤ 1 → Next (fun u => u.ctxs = s.ctxs)) ∧
       (n = 2 → Next (fun u => u.ctxs = mapIf (fun y => y.ctx == e.ctx) (fun y => { y with ovf := y.ovf && !x.getLsbD 2, latent := y.latent && !x.getLsbD 0 }) s.ctxs)) ∧
       (n = 3 → Next (fun u => (u.core i.cl i.co).bkpten = x.getLsbD 0 ∧ u.ctxs = mapIf (fun y => y.ctx == e.ctx) (fun y => { y with bkpten := x.getLsbD 0 }) s.ctxs))) ∧
     (t.level = .user → n ≤ 3 → StopsAt (.ctlw o) s i ((if n ≤ 1 then 0x24 else if n = 2 then 0x28 else 0x2C) + qualifier i) k 0 t.path) ∧
     (∀ fr, t.frame = some fr →
       (0x100 ≤ n → n < 0x180 → n - 0x100 < fr.f → t.spilled.contains ((fr.wb + (n - 0x100)) / 8) = false →
         Next (fun u => ThreadIs u i t.tid (fun y => y = (retire t).setStk (fr.wb + (n - 0x100)) ⟨x, false⟩))) ∧
       (n = 0x180 → Next (fun u => ThreadIs u i t.tid (fun y => y = retire t))) ∧
       (0x180 < n → n ≤ 0x187 → Next (fun u => ThreadIs u i t.tid (fun y =>
         y = { retire t with frame := some { fr with preds := assocSet ⟨false, false⟩ fr.preds (n - 0x180) ⟨x.getLsbD 0, false⟩ } })))))


/-! ### Barriers, spawn, completion cells -/

/-- bar.arrive counts an arrival and gives its thread a pending phase; the phase completes when its arrivals reach the
unended threads of the unit (all of which may have ended but those that arrived) and the accesses before each are performed (R128). bar.wait ends at once when the pending phase has completed, else it blocks the front; bar.sync
does both (R88, R219). -/
def Obligations.Barriers : Prop :=
  ∀ o s i k c g t l,
    let lev := o.imm.toNat % 8
    let n := l.unitOf lev t.linear
    let b := s.barrier i.cl i.co l lev n
    let all := (retiredAll s i).aliveIn l lev n ≤ b.arrived + 1 ∧ forkAfter s.accs [t.tid] = [] ∧ s.arrivalPends l.id lev n = false
    let After := fun (u : State) => u.mem = s.mem ∧
      ∃ l', u.launch? t.launch = some l' ∧ u.barrier i.cl i.co l' lev n = if all then { b with phase := b.phase + 1, arrived := 0 } else { b with arrived := b.arrived + 1 }
    let Here := fun (opc : Nat) (ins : Instr) => Serves s i k c g t opc o ∧ ins.detail = none ∧ i.threads = [k] ∧ i.done = [] ∧ i.stop = none ∧ i.wait = none ∧
      s.launch? t.launch = some l ∧ c.block.isSome = true ∧ barBad l t lev = false
    (Here 0x008 (.barArrive o) → pendingAt t lev = none →
      Then (.barArrive o) s (fun u => After u ∧ u.cur = some (i.finished false) ∧
        ThreadIs u i t.tid (fun x => x = { retire t with pending := t.pending ++ [(lev, b.phase)] }))) ∧
    (Here 0x009 (.barWait o) →
      (s.phaseDone i.cl i.co t lev = true → Then (.barWait o) s (fun u => u.mem = s.mem ∧ u.launches = s.launches ∧ u.cur = some (i.finished false) ∧
        ThreadIs u i t.tid (fun x => x = { retire t with pending := t.pending.filter (fun y => y.1 != lev) }))) ∧
      (s.phaseDone i.cl i.co t lev = false →
        exec (.barWait o) s = .next { retiredAll s i with cur := some { i.finished false with wait := some (.bar lev [k]) } })) ∧
    (Here 0x00A (.barSync o) → pendingAt t lev = none →
      Then (.barSync o) s (fun u => After u ∧
        (all → u.cur = some (i.finished false) ∧ ThreadIs u i t.tid (fun x => x = retire t)) ∧
        (¬ all → u.cur = some { i.finished false with wait := some (.bar lev [k]) } ∧
          ThreadIs u i t.tid (fun x => x = { retire t with pending := t.pending ++ [(lev, b.phase)] }))))

/-- spawn gives D the first child's number, then reads its argument, and creates its children at the start of the procedure, the argument in v0 and v1,
the child's number in v2, window base 0 (R93 to R97, R220); it stops with class 13 where a count is out of range, and leaves
everything as it is where neither slots nor the ring have room. A core with a free slot takes the record at HEAD of its
launch's ring: a child with the record's fields, and HEAD goes on (R94, R95). -/
def Obligations.SpawnedChildren : Prop :=
  (∀ o s i k c g t l, Serves s i k c g t 0x00C o → (Instr.spawn o).detail = none → opUniform 0x00C o = false → Readable 0x00C o t g →
     s.launch? t.launch = some l → t.overlay = .none → s.spawnHeld l i.cl i.co i.gs (i.front ++ i.peers) = false →
     let e := Env.of s c g
     let n := (rd32 e o t g o.a).toNat
     let arg := rd64 e o (wrWord t g o.d 0 (BitVec.ofNat 32 l.nextChild)).1 g o.b false
     (n ≤ 65536 → l.nextChild + n ≤ l.m - l.threads → n ≤ c.freeSlots → t.tid < s.nextId →
       Then (.spawn o) s (fun u => u.mem = s.mem ∧ u.cur = some (i.finished false) ∧
         ThreadIs u i t.tid (fun x => x = (wrWord (retire t) g o.d 0 (BitVec.ofNat 32 l.nextChild)).1) ∧
         (∃ l', u.launch? t.launch = some l' ∧ l'.nextChild = l.nextChild + n) ∧
         (u.core i.cl i.co).threads.length = c.threads.length + n ∧
         (∀ j < n, ∃ x ∈ (u.core i.cl i.co).threads, x.launch = l.id ∧ x.detached = true ∧ x.stackNo = l.threads + l.nextChild + j ∧ x.wb = 0 ∧
           x.path = ⟨o.imm.toNat % 2 ^ 16, [], 0⟩ ∧ x.act = .move .enter ∧ x.v 0 = ⟨arg.extractLsb' 0 32, false⟩ ∧
           x.v 1 = ⟨arg.extractLsb' 32 32, false⟩ ∧ x.v 2 = ⟨BitVec.ofNat 32 (l.nextChild + j), false⟩))) ∧
     (65536 < n → StopsAt (.spawn o) s i (0xD0 + qualifier i) k 0 t.path) ∧
     (n ≤ 65536 → l.m - l.threads < l.nextChild + n → StopsAt (.spawn o) s i (0xD4 + qualifier i) k 0 t.path) ∧
     (n ≤ 65536 → l.nextChild + n ≤ l.m - l.threads → l.sra = 0 → c.freeSlots < n →
       exec (.spawn o) s = .next { s with cur := some { i with wait := some (.spawnRing n) } })) ∧
  (∀ (s : State) (cl co : Nat) (l : Launch) (x : Context) (s1 : State) (bytes : List Byte), let c := s.core cl co
     c.cl = cl → c.co = co → s.ringHead c = .record l x →
     let ring := (s.cluster cl).ring l.id
     s.gmRead cl co x x.prot (l.sra.toNat + 0x41000 * cl + 0x1000 + 64 * (ring.1 % 4096)) 64 = (s1, .ok (bytes, false)) → s1.cores = s.cores →
     s1.clusters = s.clusters → bytes.length = 64 →
     let field := fun (lo n : Nat) => leNat bytes / 2 ^ lo % 2 ^ n
     Then (.spawnRingTake cl co) s (fun u => u.mem = s1.mem ∧ (u.cluster cl).ring l.id = ((ring.1 + 1) % 2 ^ 32, ring.2) ∧
       ∃ t, (u.core cl co).threads = c.threads ++ [t] ∧ t.detached = true ∧ t.path = ⟨field 80 16, [], 0⟩ ∧ t.stackNo = l.threads + field 96 32 ∧
         t.v 0 = ⟨BitVec.ofNat 32 (field 128 32), false⟩ ∧ t.v 1 = ⟨BitVec.ofNat 32 (field 160 32), false⟩ ∧
         t.v 2 = ⟨BitVec.ofNat 32 (field 96 32), false⟩))

/-- cexp adds to PEND, or sets ERR to COUNT where the sum is out of range; cread reads the cell; creset clears it (R154,
R158). cwait gives qd the truth of ERR = 0 where PEND is 0 and what it counted is seen (R289), and blocks the front where it is not; cacq takes n from DONE
where it holds as many, and blocks the front where it does not; n above 65,535 sets ERR to DESC and counts as 65,535 (R158).
-/
def Obligations.CellCommands : Prop :=
  (∀ o s i k c g t, i.stop = none → i.wait = none →
     let n := (o.mod.extractLsb' 0 6).toNat
     let x := (frontOperand g o).toInt
     (Serves s i k c g t 0x218 o → (Instr.cexp o).detail = none → Readable 0x218 o t g →
       CellDoes (.cexp o) s i g t (fun h => h.onCell n (fun y =>
         if -(2 ^ 39 : Int) ≤ y.pend + x ∧ y.pend + x ≤ 2 ^ 39 - 1 then { y with pend := y.pend + x } else if y.err = 0 then { y with err := 0x0A } else y))) ∧
     (Serves s i k c g t 0x21B o → (Instr.cread o).detail = none → Readable 0x21B o t g → ∀ d, o.d = .g d →
       let y := c.cell n
       let w := BitVec.ofNat 64 (y.done % 2 ^ 16 * 2 ^ 48 + y.err % 256 * 2 ^ 40 + (y.pend % (2 ^ 40 : Int)).toNat)
       CellDoes (.cread o) s i g t (fun h => h.onGroup i.gs (fun g => (g.setG d.val (w.extractLsb' 0 32)).setG (d.val + 1) (w.extractLsb' 32 32)))) ∧
     (Serves s i k c g t 0x21C o → (Instr.creset o).detail = none → Readable 0x21C o t g →
       CellDoes (.creset o) s i g t (fun h => h.onCell n (fun y => { done := 0, err := 0, pend := 0, epoch := y.epoch + 1 })))) ∧
  (∀ o s i k c g t, i.stop = none → i.wait = none →
     let n := (o.mod.extractLsb' 0 6).toNat
     let y := c.cell n
     let x := (frontOperand g o).toNat
     let desc := fun (z : CCell) => if z.err = 0 then { z with err := 0x09 } else z
     (Serves s i k c g t 0x219 o → (Instr.cwait o).detail = none → Readable 0x219 o t g → ∀ q, o.d = .q q →
       (y.pend = 0 → s.earlyIn c n = false → CellDoes (.cwait o) s i g t (fun h => h.onGroup i.gs (fun g => g.setQ q.val (decide (y.err = 0))))) ∧
       (y.pend ≠ 0 ∨ s.earlyIn c n = true → exec (.cwait o) s = .next { putBack s i (retire t) g with cur := some { i.finished true with wait := some (.cwait q.val n) } })) ∧
     (Serves s i k c g t 0x21A o → (Instr.cacq o).detail = none → Readable 0x21A o t g →
       (x = 0 → exec (.cacq o) s = .next { putBack s i (retire t) g with cur := some (i.finished true) }) ∧
       (0 < x → x ≤ 65535 → x ≤ y.done → CellDoes (.cacq o) s i g t (fun h => h.onCell n (fun z => { z with done := z.done - x }))) ∧
       (x ≤ 65535 → y.done < x →
         exec (.cacq o) s = .next { putBack s i (retire t) g with cur := some { i.finished true with wait := some (.cacq n x) } }) ∧
       (65535 < x → y.done < 65535 → CellWaits (.cacq o) s i g t (fun h => h.onCell n desc) (.cacq n 65535)) ∧
       (65535 < x → 65535 ≤ y.done →
         CellDoes (.cacq o) s i g t (fun h => (h.onCell n desc).onCell n (fun z => { z with done := z.done - 65535 })))))


/-! ### Engine commands -/

/-- Copy, layout and bank commands issue without a trap and without an access of their own (R157, R161 to R167, R279, R284,
R285, R287): the command holds what its registers held, and the accesses of its threads that it must follow (R129). -/
def Obligations.EngineCommandsIssue : Prop :=
  ∀ o s i k c g t,
    let cell := some (o.mod.extractLsb' 0 6).toNat
    let w := fun (n : Nat) => (g.gReg n).val
    (∀ n, o.a = .g n → Serves s i k c g t 0x200 o → (Instr.copyBox o).detail = none → CmdReadable 0x200 o t g →
      IssuesCmd (.copyBox o) s i c g t (.box (w (n.val + 1) ++ w n.val) (w (n.val + 3) ++ w (n.val + 2)) (w (n.val + 4)) {}) .copy cell) ∧
    (∀ size, Serves s i k c g t 0x201 o → (Instr.copyT o).detail = none →
      (∀ j ∈ i.threads, ∀ x, s.slotThread i j = some x → Readable 0x201 o x.2.2 x.2.1) →
      size = (match (o.mod.extractLsb' 6 2).toNat with | 0 => 4 | 1 => 8 | _ => 16) →
      IssuesCmd (.copyT o) s i c g t (.copyT size (i.threads.filterMap (fun j => (s.slotThread i j).map (fun x =>
        (j, rd64 (Env.of s x.1 x.2.1) o x.2.2 x.2.1 o.a false, rd64 (Env.of s x.1 x.2.1) o x.2.2 x.2.1 o.b false))))) .copy cell) ∧
    (∀ n, o.a = .g n → Serves s i k c g t 0x202 o → (Instr.copyFill o).detail = none → CmdReadable 0x202 o t g →
      (g.gReg (n.val + 3)).poison = false →
      IssuesCmd (.copyFill o) s i c g t (.fill (w (n.val + 1) ++ w n.val) (w (n.val + 2)).toNat (w (n.val + 3))) .copy cell) ∧
    (∀ n, o.a = .g n → Serves s i k c g t 0x204 o → (Instr.layout o).detail = none → CmdReadable 0x204 o t g →
      IssuesCmd (.layout o) s i c g t (.layout (w (n.val + 1) ++ w n.val) (w (n.val + 3) ++ w (n.val + 2)) (w (n.val + 4))
        (w (n.val + 7) ++ (w (n.val + 6) ++ w (n.val + 5))) { edge := false, wa := 1 }) .layout cell) ∧
    (∀ n op, o.a = .g n → Serves s i k c g t 0x210 o → (Instr.bankop o).detail = none → CmdReadable 0x210 o t g →
      op = (match (o.mod.extractLsb' 8 4).toNat with | 0 => BankOp.axpy | 1 => .scale | 2 => .add | 3 => .min | 4 => .max | _ => .rsum) →
      IssuesCmd (.bankop o) s i c g t
        (.bankop op o.t.val (o.mod.extractLsb' 6 2).toNat (w n.val) (w (n.val + 1)) (w (n.val + 2)).toNat (w (n.val + 3))) .bank cell)

/-- Matrix-queue commands issue where their slots keep the rules of R147; NOCELL names no cell (R157, R181, R184 to R189,
R286). -/
def Obligations.MatrixCommandsIssue : Prop :=
  MmaIssues .mma .plain ∧ MmaIssues .mmaP .pair ∧ MmaIssues .mmaG .gather ∧ MmaIssues .mmaS .sparse ∧
  (∀ o s i k c g t,
    let cell := if o.imm.getLsbD 6 then none else some (o.imm.extractLsb' 0 6).toNat
    let w := fun (n : Nat) => (g.gReg n).val
    let sp := (o.mod.extractLsb' 7 2).toNat
    let base := fun (n : Nat) => if sp < 2 then w (n + 1) ++ w n else (w n).zeroExtend 64
    (∀ d, o.d = .a d → Serves s i k c g t 0x20C o → (Instr.accClr o).detail = none → CmdReadable 0x20C o t g →
      IssuesCmd (.accClr o) s i c g t (.accClr d.val) .matrix cell) ∧
    (∀ d n, o.d = .a d → o.a = .g n → Serves s i k c g t 0x20D o → (Instr.accLd o).detail = none → CmdReadable 0x20D o t g →
      IssuesCmd (.accLd o) s i c g t (.accLd (spaceOf sp) (base n.val) d.val) .matrix cell) ∧
    (∀ d n, o.d = .g n → o.a = .a d → Serves s i k c g t 0x20E o → (Instr.accSt o).detail = none → CmdReadable 0x20E o t g →
      unbound (Env.of s c g) o.t.val = false →
      IssuesCmd (.accSt o) s i c g t (.accSt (spaceOf sp) (base n.val) d.val o.t.val) .matrix cell) ∧
    (∀ d n m, o.d = .g n → o.a = .a d → o.b = .g m → Serves s i k c g t 0x20F o → (Instr.accStx o).detail = none → CmdReadable 0x20F o t g →
      IssuesCmd (.accStx o) s i c g t (.accStx (spaceOf sp) (o.mod.getLsbD 9) (base n.val) d.val (w m.val).toNat (w (m.val + 1)).toNat []) .matrix cell))


/-! ### Threads between operations -/

/-- A due node move is made as one step: the thread rests where the walk of R35 leads, or stops there with the walk's cause
(R35, R43), or at the item that cannot be fetched (R209). What entering a node does (R35 to R38): a clause is rested at, a sequence or a block is entered at its first
child, a selection at the child that its predicate picks, a case at the child of its index or at its last; a call, a safe
point and a REFORM are rested at. -/
def Obligations.NodeMoves : Prop :=
  (∀ (s : State) (cl co tid : Nat) (t : Thread) (m : Move), let c := s.core cl co
     c.thread? tid = some t → t.act = .move m → s.moveDue c t = true → t.pagerFault = none → s.moversWith c t m = [t] →
     (∀ t' w, s.walkOf c t m = some (.done t', w) → t'.gslot.isSome = true →
       exec (.nodeMove cl co tid) s = .next ((s.codeUsed t').setCore (c.setThread t'))) ∧
     (∀ t' cause w, s.walkOf c t m = some (.stop t' cause, w) → exec (.nodeMove cl co tid) s = .next ((s.codeUsed t').setCore (c.trapThread t' cause 0))) ∧
     (∀ t' e w, s.walkOf c t m = some (.fetch t' e, w) → exec (.nodeMove cl co tid) s = .next (s.stopFetch c.cl c.co t' t'.path.proc e))) ∧
  (∀ (s : State) (i : Image) (g : Group) (t : Thread) (d : List Nat) (n : NodeLoc), s.nodeAt i t.path.proc d = .ok n → s.headerOk i (s.frameOf t) d n = true →
     let at_ := fun (a : Act) => (Walk.done { t with path := ⟨t.path.proc, d, 0⟩, act := a }, ([] : Touched))
     (n.hdr.kind = .clause → s.walkStep i g t (.enter d) = at_ .rest) ∧
     (n.hdr.kind = .seq ∨ n.hdr.kind = .block → s.walkStep i g t (.enter d) = (.more t (.enter (d ++ [0])), [])) ∧
     (∀ p, n.hdr.kind = .sel (.p p) → (t.p_ p.val).poison = false →
       (s.walkStep i g t (.enter d)).1 = .more t (.enter (d ++ [if (t.p_ p.val).val then 0 else 1]))) ∧
     (∀ p, n.hdr.kind = .sel (.q p) → (g.qReg p.val).poison = false →
       (s.walkStep i g t (.enter d)).1 = .more t (.enter (d ++ [if (g.qReg p.val).val then 0 else 1]))) ∧
     (∀ v, n.hdr.kind = .case (.v v) → (t.v v.val).poison = false → 0 < n.hdr.count →
       (s.walkStep i g t (.enter d)).1 = .more t (.enter (d ++ [min (t.v v.val).val.toNat (n.hdr.count - 1)]))) ∧
     (∀ p off, n.hdr.kind = .call p off → s.walkStep i g t (.enter d) = at_ .call) ∧
     (n.hdr.kind = .reform → s.walkStep i g t (.enter d) = at_ .reform) ∧
     (∀ k, n.hdr.kind = .safe k → s.walkStep i g t (.enter d) = at_ .safe))

/-- A call that has room pushes the link of its node below the callee's window, zeroes the fresh words, leaves the caller's
words below the link, saves its trip counters, and enters the callee's root; one without room stops with class 10 and changes nothing else (R71). A
return by its link gives the caller back its window and goes on past the call; the outermost return ends the thread; the
return of a restore procedure leads past its SAFE node (R73, R104, R215). -/
def Obligations.CallsAndReturns : Prop :=
  (∀ (s : State) (cl co tid : Nat) (t : Thread) (k : NodeKind) (p off : Nat), let c := s.core cl co
     c.thread? tid = some t → s.callReady c t = true → t.pagerFault = none → s.restNode t = .ok k →
     (k = .call p off ∨ ∃ (v : Fin 128) (ts : List Nat), k = .callI v off ts ∧ (t.v v.val).poison = false ∧ ts.contains (t.v v.val).val.toNat = true ∧ p = (t.v v.val).val.toNat) →
     (s.proc? t.image p).isSome = true → 4 ≤ off → off ≤ s.frameOf t →
     let told := t.wb + s.frameOf t
     let tnew := t.wb + off + s.frameSize t.image p
     let top := t.sptr.toNat + t.p + 4 * tnew
     let link := { t.path with op := 1 }
     (top ≤ t.slim.toNat → (tripsAt t.trips t.path = [] ∨ t.depth < t.td) →
       Then (.call cl co tid) s (fun u => u.mem = s.mem ∧ Has u cl co tid (fun x =>
         x.wb = t.wb + off ∧ x.path = ⟨p, [], 0⟩ ∧ x.act = .move .enter ∧ x.calls = t.calls ++ [link] ∧ x.trips = [] ∧
         (tripsAt t.trips t.path ≠ [] → assocGet [] x.tripRecs t.depth = (tripsAt t.trips t.path).map Prod.snd) ∧
         (∀ j < 4, assocGet ⟨0, false⟩ x.stk (t.wb + off - 4 + j) = ⟨BitVec.ofNat 32 (link.encode / 2 ^ (32 * j)), false⟩) ∧
         (∀ w, told ≤ w → w < tnew → assocGet ⟨0, false⟩ x.stk w = ⟨0, false⟩) ∧
         (∀ w, w < t.wb + off - 4 ∨ (t.wb + off ≤ w ∧ w < told) ∨ tnew ≤ w → assocGet ⟨0, false⟩ x.stk w = assocGet ⟨0, false⟩ t.stk w)))) ∧
     (t.slim.toNat < top → exec (.call cl co tid) s = .next (s.setCore (c.trapThread t 0xA0 (BitVec.ofNat 64 top))))) ∧
  (∀ (s : State) (cl co tid : Nat) (t : Thread), let c := s.core cl co
     c.thread? tid = some t → s.returnReady c t = true → t.pagerFault = none → t.frame = none →
     (t.overlay = .none → t.wb = 0 → Then (.returnFrame cl co tid) s (fun u => Has u cl co tid (fun x => x.act = .ended ∧ x.stk = t.stk))) ∧
     (∀ p off, t.overlay = .none → t.wb ≠ 0 → s.linkNode t = .ok (p, off) →
       Then (.returnFrame cl co tid) s (fun u => u.mem = s.mem ∧ Has u cl co tid (fun x =>
         x.wb = t.wb - off ∧ x.path = p ∧ x.act = .move .complete ∧ x.calls = t.calls.dropLast ∧
         (∀ w, w < t.wb - off + s.frameSize t.image p.proc → assocGet ⟨0, false⟩ x.stk w = assocGet ⟨0, false⟩ t.stk w)))) ∧
     (∀ cause, t.overlay = .none → t.wb ≠ 0 → s.linkNode t = .error (.link cause) →
       exec (.returnFrame cl co tid) s = .next (s.setCore (c.trapThread t.returning cause 0))) ∧
     (∀ sp d p r, t.overlay = .restore sp d p r → t.calls.length = d →
       Then (.returnFrame cl co tid) s (fun u => u.mem = s.mem ∧ Has u cl co tid (fun x => x.path = p ∧ x.overlay = .none ∧ x.act = .move .complete ∧ x.stk = t.stk))))

/-- REFORM takes its thread out of its group, to be filed by the position that follows; a safe point is passed while no save
is requested, and overlays its thread with the save procedure while one is, after the record's header is written (R38, R99 to
R101). -/
def Obligations.ReformAndSafePoints : Prop :=
  ∀ (s : State) (cl co tid : Nat) (t : Thread), let c := s.core cl co
    c.thread? tid = some t →
    (s.freeToGo c t .reform = true → Then (.reform cl co tid) s (fun u => Has u cl co tid (fun x =>
      x.gslot = none ∧ x.act = .move .complete ∧ x.path = t.path ∧ x.stk = t.stk ∧ x.preds = t.preds))) ∧
    (s.freeToGo c t .safe = true → t.pagerFault = none → c.saving = false →
      exec (.safeArrival cl co tid) s = .next (s.setCore (c.setThread { t with act := .move .complete }))) ∧
    (∀ e l s1 ps, s.freeToGo c t .safe = true → t.pagerFault = none → c.saving = true → s.safeNode t = .ok (some e) → s.launch? t.launch = some l →
      s.callerChunks t = [] →
      let rec_ := (l.ra + BitVec.ofNat 64 (576 * t.stackNo)).toNat
      l.ra.toNat + 576 * t.stackNo < 2 ^ 64 →
      s.gmWrite cl co (s.ctxOf l.ctx) (s.ctxOf l.ctx).prot rec_ (recordHeader t (s.frameOf t) e) = (s1, .ok ps) →
      Then (.safeArrival cl co tid) s (fun u => u.mem = s1.mem ∧ (Has s1 cl co tid (fun _ => True) → Has u cl co tid (fun x =>
        x.overlay = .save e.k t.depth { t.path with op := 1 } (BitVec.ofNat 64 rec_) ∧ x.path = ⟨e.save, [], 0⟩ ∧ x.act = .move .enter ∧ x.trips = [] ∧
        x.stk = t.stk ∧ x.wb = t.wb))))

/-- A front's item is fetched into its group's buffer, or the front stops at the item that fails, for the answer to its page where one may
resolve it (R63, R209, R334). A thread is
filed into the bin of its place; a due bin becomes a group in the lowest free slot, with the state of a new group and its
threads at their positions; an ended thread whose long operations have landed gives its slot back (R14, R45, R90 to R92,
R216). -/
def Obligations.FetchingAndGroups : Prop :=
  (∀ (s : State) (cl co gs fi : Nat) (g : Group) (f : Front) (t : Thread) (l : List Thread), let c := s.core cl co
     c.group? gs = some g → g.fronts[fi]? = some f → s.leastFetch c g = some fi → c.frontThreads g f = t :: l →
     (∀ n, s.nextOf t = .ok n →
       exec (.instructionFetch cl co gs fi) s = .next ((s.codeUsed t).setCore { c with ibuf := c.ibuf ++ [(gs, { t.path with op := n.first })] })) ∧
     (∀ e, s.nextOf t = .error e →
       let item : Path := ⟨t.path.proc, e.digits, e.op⟩
       let mode := (s.ctxOf (((s.launch? t.launch).map (fun l => l.ctx)).getD 0)).trapMode
       let Stops := fun (u : State) (st : Stop) => u.mem = s.mem ∧ ∃ h, (u.core cl co).group? gs = some h ∧ ∃ f' ∈ h.fronts, f'.tslots = f.tslots ∧ f'.stop = some st
       ((e.resolve = false ∨ mode = true) → Then (.instructionFetch cl co gs fi) s (fun u => u.stalls = s.stalls ∧
         Stops u (.trap e.cause t.tslot (BitVec.ofNat 64 e.addr) item))) ∧
       (e.resolve = true → mode = false → Then (.instructionFetch cl co gs fi) s (fun u => ∃ x, u.stalls = s.stalls ++ [x] ∧ x.src = 1 ∧ x.acc = .fetch ∧
         x.va = e.addr ∧ x.item = some item ∧ Stops u (.stall x.id))))) ∧
  ((∀ (s : State) (cl co tid : Nat) (t : Thread), let c := s.core cl co
     (s.nextToFile c).find? (fun x => x.tid == tid) = some t → c.thread? tid = some t → ((∃ bi, s.filing c t = .into bi) ∨ ∃ n, s.filing c t = .open_ n) →
     Then (.binFile cl co tid) s (fun u => u.mem = s.mem ∧ Has u cl co tid (fun x => (x.act = .binned ∨ x.gslot.isSome = true) ∧ x.stk = t.stk ∧ x.path = t.path))) ∧
   (∀ (s : State) (cl co bi gs : Nat) (b : Bin), let c := s.core cl co
     c.bins[bi]? = some b → b.due (s.ageLimit c) c.saving = true → s.canRelease c b = true → s.lowestSlot c = some gs → b.leaving.Nodup →
     Then (.binAgeLimit cl co bi) s (fun u => u.mem = s.mem ∧
       (∃ h, (u.core cl co).group? gs = some h ∧ h.members = b.leaving.zipIdx.map (fun x => (x.2, x.1)) ∧ h.g = [] ∧ h.q = [] ∧ h.flags = [] ∧
         h.exch = [] ∧ h.pend = none ∧ h.handler = none) ∧
       (∀ x ∈ b.leaving.zipIdx, ∀ t, c.thread? x.1 = some t → Has u cl co x.1 (fun y => y.gslot = some gs ∧ y.tslot = x.2 ∧ y.act = t.fileAct ∧ y.stk = t.stk)))) ∧
   (∀ (s : State) (cl co tid : Nat) (t : Thread), (s.core cl co).thread? tid = some t → t.act = .ended → s.longsOf t.tid = [] →
     s.regAwaited (s.core cl co).cl (s.core cl co).co t.tid = false →
     Then (.threadSlotFree cl co tid) s (fun u => u.mem = s.mem ∧ u.thread? cl co tid = none)))

/-- Taking a trap (R221): the frame takes the cause, the thread's slot, the address and the position, the interrupted window,
predicates and level; the thread enters the handler at its root with a zeroed window above the interrupted one; its group
runs a handler. With a frame valid already the group is killed: all of its threads end (R227, R348). -/
def Obligations.TrapEntry : Prop :=
  ∀ (s : State) (cl co gs k cause : Nat) (addr : DWord) (path : Path) (g : Group) (f : Front) (t : Thread), let c := s.core cl co
    c.group? gs = some g → c.threadAt g k = some t → t.gslot = some gs →
    let Entered := fun (u : State) (a : DWord) (p : Path) (img h : Nat) (lev : Level) => u.mem = s.mem ∧
      (∃ g', (u.core cl co).group? gs = some g' ∧ g'.handler = some t.tid ∧ g'.g = g.g ∧ g'.q = g.q) ∧
      Has u cl co t.tid (fun x => x.path = ⟨h, [], 0⟩ ∧ x.image = img ∧ x.level = lev ∧ x.act = .move .enter ∧ x.preds = [] ∧
        x.wb = t.wb + s.frameSize t.image t.path.proc ∧
        (∀ w, w < x.wb → assocGet ⟨0, false⟩ x.stk w = assocGet ⟨0, false⟩ t.stk w) ∧
        (∀ w, x.wb ≤ w → w < x.wb + s.frameSize img h → assocGet ⟨0, false⟩ x.stk w = ⟨0, false⟩) ∧
        ∃ fr, x.frame = some fr ∧ fr.cause = cause ∧ fr.k = t.tslot ∧ fr.addr = a ∧ fr.path = p ∧ fr.rest = t.path ∧ fr.act = t.act ∧
          fr.level = lev ∧ fr.fromLevel = t.level ∧ fr.preds = t.preds ∧ fr.wb = t.wb ∧ fr.f = s.frameSize t.image t.path.proc)
    let Room := fun (img h : Nat) => trapRoom t t.path (s.frameSize t.image t.path.proc) (s.frameSize img h) = true
    (g.fronts.find? (s.deliverable c g) = some f → f.stop = some (.trap cause k addr path) →
      (∀ img h lev, t.frame = none → t.live = true → s.handlerOf t cause t.path.proc = some (img, h, lev) → Room img h →
        Then (.trapDeliver cl co gs) s (fun u => Entered u addr path img h lev)) ∧
      (t.frame.isSome = true → Then (.trapDeliver cl co gs) s (fun u =>
        ∀ m ∈ g.members, ∀ x, u.thread? cl co m.2 = some x → x.act = .ended))) ∧
    (s.asyncReady c g = some (f, t) → g.pend = some cause →
      (∀ img h lev, t.frame = none → t.live = true → s.handlerOf t cause t.path.proc = some (img, h, lev) → Room img h →
        Then (.asyncErrorDeliver cl co gs) s (fun u => Entered u 0 t.path img h lev ∧
          ∃ g', (u.core cl co).group? gs = some g' ∧ g'.pend = none)))


/-! ### Bins, slots, the pager -/

/-- The pager (R80, R81): a spill starts for a victim and a fill for an item that is out; when a fill is done the words of
the chunk read as memory held them and are in the register file; when a spill is done memory holds them. -/
def Obligations.PagerMoves : Prop :=
  (∀ (s : State) (cl co tid : Nat) (x : PagerItem) (t : Thread), let c := s.core cl co
    c.thread? tid = some t → t.tid = tid →
    let Started := fun (u : State) (fill : Bool) => u.mem = s.mem ∧ ∃ y, (u.core cl co).xfers = c.xfers ++ [y] ∧ y.tid = tid ∧ y.item = x ∧ y.fill = fill ∧
      y.va = BitVec.ofNat 64 (match x with | .chunk j => t.sptr.toNat + t.p + 32 * j | .trip j => t.slim.toNat + 32 * j)
    ((tid, x) ∈ s.victims c → s.outstanding c < Config.requestCount →
      Then (.chunkSpill cl co tid x) s (fun u => Started u false ∧ Has u cl co tid (fun t' => itemOut t' x = true ∧ t'.stk = t.stk))) ∧
    (s.fillReady c t x = true → Then (.chunkFill cl co tid x) s (fun u => Started u true ∧ Has u cl co tid (fun t' => t' = t)))) ∧
  (∀ (s : State) (id j : Nat) (c : Core) (x : Transfer) (t : Thread) (s1 : State) (l : List PWord),
    s.cores.find? (fun c => c.xfers.any (fun x => x.id == id)) = some c → s.core c.cl c.co = c → c.xfers.find? (fun x => x.id == id) = some x →
    s.xferFree x = true → c.thread? x.tid = some t → x.item = .chunk j → j ∈ t.spilled →
    let cx := s.ctxOf (((s.launch? t.launch).map (fun l => l.ctx)).getD 0)
    (x.fill = true → s.itemRead c.cl c.co cx x.va.toNat = (s1, .ok l) → s1.cores = s.cores → l.length = 8 →
      Then (.chunkTransferDone id) s (fun u => u.mem = s1.mem ∧ Has u c.cl c.co x.tid (fun t' =>
        itemOut t' x.item = false ∧ (∀ n (h : n < l.length), assocGet ⟨0, false⟩ t'.stk (8 * j + n) = l[n]) ∧
        (∀ w, w < 8 * j ∨ 8 * j + 8 ≤ w → assocGet ⟨0, false⟩ t'.stk w = assocGet ⟨0, false⟩ t.stk w)))) ∧
    (x.fill = false → s.itemWrite c.cl c.co cx x.va.toNat (chunkWords t j) = (s1, .ok ()) → s1.cores = s.cores →
      Then (.chunkTransferDone id) s (fun u => ((∀ y ∈ chunkWords t j, y.poison = false) → u.mem = s1.mem ∧ u.poison = s1.poison) ∧ Has u c.cl c.co x.tid (fun t' =>
        itemOut t' x.item = true ∧ (∀ w, w < 8 * j ∨ 8 * j + 8 ≤ w → assocGet ⟨0, false⟩ t'.stk w = assocGet ⟨0, false⟩ t.stk w)))))


/-! ### Engines at work -/

/-- A command enters its queue (R155, R164, R279): a fill of n bytes adds n to PEND before any byte is written; one of no
bytes counts in DONE at once; one with a bad space code or out of alignment gives its code to a cell whose ERR is 0, counts,
and is gone. The expectation of a command's part reaches its destination core (R155): PEND of that core's cell rises by the
bytes owed, and the part may land; one that meets a newer generation aborts the part (R111, R156). -/
def Obligations.EngineEntry : Prop :=
  (∀ (s : State) (m : Cmd) (dst : DWord) (n : Nat) (pat : Word) (k : Nat), s.cmd? m.id = some m → s.mayEnter m = true → m.kind = .fill dst n pat → Counts s m k →
     let y := cellIn s m k
     let code := dst.toNat / 2 ^ 60
     let Ended := fun (err : Nat) => Then (.engineQueueEntry m.id) s (fun u => u.cmd? m.id = none ∧
       cellIn u m k = { y with done := y.done + 1, err := if y.err = 0 then err else y.err })
     (code = 0 → dst.toNat % 4 = 0 → n % 4 = 0 → n ≠ 0 → -(2 ^ 39 : Int) ≤ y.pend + n → y.pend + n ≤ 2 ^ 39 - 1 →
       Then (.engineQueueEntry m.id) s (fun u => u.mem = s.mem ∧ cellIn u m k = { y with pend := y.pend + n } ∧
         ∃ m', u.cmd? m.id = some m' ∧ m'.entered = true ∧ m'.kind = .fill dst n pat ∧ m'.owed = n ∧ m'.todo = [(0, n / 4)])) ∧
     (y.done < 65535 → code ≤ 2 → dst.toNat % 4 = 0 → n = 0 → Ended 0) ∧
     (y.done < 65535 → 2 < code → Ended 0x09) ∧
     (y.done < 65535 → code ≤ 2 → (dst.toNat % 4 ≠ 0 ∨ n % 4 ≠ 0) → Ended 0x07)) ∧
  (∀ (s : State) (m : Cmd) (d : DestPart) (n : Nat), s.cmd? m.id = some m → m.entered = true → m.cell = some n →
     m.dests.find? (fun x => x.co == d.co && x.expect && !x.posted && !x.finished) = some d →
     let c := s.core m.cl d.co
     let y := c.cell n
     (c.gen = d.gen → y.epoch = d.epoch → -(2 ^ 39 : Int) ≤ y.pend + d.owed → y.pend + d.owed ≤ 2 ^ 39 - 1 →
       Then (.destExpectationArrive m.id d.co) s (fun u => u.mem = s.mem ∧ (u.core m.cl d.co).cell n = { y with pend := y.pend + d.owed } ∧
         ∃ m', u.cmd? m.id = some m' ∧ ∃ x ∈ m'.dests, x.co = d.co ∧ x.posted = true)) ∧
     (c.gen ≠ d.gen → Then (.destExpectationArrive m.id d.co) s (fun u =>
       ∃ m', u.cmd? m.id = some m' ∧ m'.owed = m.owed - d.owed ∧ ∀ x ∈ m'.dests, x.co = d.co → x.aborted = true ∧ x.finished = true)))

/-- One element of a command of the copy unit or the layout engine lands (R155, R161, R163, R164, R171, R175, R289): a word of a fill holds the pattern; an
element of a box copy, a thread's part of a per-thread copy and an atom of a layout hold their source's bytes. Every other byte of memory is as the
checks left it, PEND falls by the bytes, and the element is no more to do. A parity error in flight aborts the command with POISON instead, here
of a fill (R367). -/
def Obligations.EngineBytesLand : Prop :=
  (FillLands ∧ BoxLands ∧ CopyTLands ∧ LayoutLands) ∧
  (∀ (s : State) (m : Cmd) (dst : DWord) (n : Nat) (pat : Word) (j k : Nat) (e : EngUpset),
    s.cmd? m.id = some m → m.kind = .fill dst n pat → s.landReady m k = true → Counts s m j → m.early = [] → s.engUpset m m.co = some e →
    Then (.engineBytesLand m.id k) s (fun u => u.mem = s.mem ∧ cellIn u m j = cellIn s m j ∧
      e ∉ u.engUpsets ∧ ∃ m', u.cmd? m.id = some m' ∧ m'.err = some (0x08, 0) ∧ m'.todo = m.todo))

/-- A row of an accumulator becomes final (R182, R184 to R188): zero for acc.clr; for a multiply the row of the products,
code by code, made again where the array mismatches once, while a second mismatch aborts the command with POISON (R367); the issuer's PEND falls
by the row's 512 bytes. A bank update is one read and one write of an element at its
bank (R132, R165): y becomes the operation's value of y and x, and every other byte of memory is as before. acc.ld takes its rows from
memory; acc.st and acc.stx write the tile's elements there (R188, R189). -/
def Obligations.MatrixRowsAndBankUpdates : Prop :=
  (AccRowLoads ∧ AccStores ∧ AccScatters) ∧
  (∀ (s : State) (m : Cmd) (row k : Nat), s.cmd? m.id = some m → s.rowReady m row = true → Counts s m k →
     let Final := fun (co ad i : Nat) (l : Nat → Nat) => Then (.matrixRowFinal m.id row) s (fun u =>
       (∀ j < 128, u.tileAt m.cl co ad i j = l j) ∧ cellIn u m k = { cellIn s m k with pend := (cellIn s m k).pend - 512 })
     (∀ ad, m.kind = .accClr ad → Final m.co ad row (fun _ => 0)) ∧
     (∀ v dens sa sb ad a b high l, m.kind = .mma v dens sa sb ad a b high →
       let co := if 128 ≤ row then m.co + 1 else m.co
       s.mmaRow m v dens sa sb ad a b co (row % 128) = .row l → l.length = 128 → (∀ x ∈ l, x < 2 ^ 32) →
       ((∀ e, s.engUpset m co = some e → e.second = false) → Final co ad (row % 128) (fun j => l.getD j 0)) ∧
       (∀ e, s.engUpset m co = some e → e.second = true → Then (.matrixRowFinal m.id row) s (fun u => cellIn u m k = cellIn s m k ∧ e ∉ u.engUpsets ∧
         ∃ m', u.cmd? m.id = some m' ∧ m'.err = some (0x08, 0) ∧ m'.todo = m.todo)))) ∧
  (∀ (s : State) (m : Cmd) (op : BankOp) (ty rm : Nat) (y x : Word) (n : Nat) (a : Word) (k : Nat) (px py : Part),
     let size := if ty ≤ 1 then 2 else 4
     let xo := x.toNat + k * size
     let yo := y.toNat + k * size
     s.cmd? m.id = some m → m.kind = .bankop op ty rm y x n a → m.going = true → hasIndex k m.todo = true → m.engine = .bank → op ≠ .rsum → op ≠ .scale →
     ty ≤ 5 → s.session? m.ctx = none → m.dests = [] →
     xo < 2 ^ 32 → yo < 2 ^ 32 → bkPart (s.ctxOf m.ctx) xo size = some px → bkPart (s.ctxOf m.ctx) yo size = some py →
     s.poisoned px.addr size = false → s.poisoned py.addr size = false → s.engUpset m m.co = none → hasIndex k (takeIndex k m.todo) = false →
     let Updated := fun (u : State) =>
       u.mem.readLe py.addr size = bankValue op ty (rndOf rm) a (s.mem.readLe py.addr size) (s.mem.readLe px.addr size) % 2 ^ (8 * size) ∧
       (∀ b, b < py.addr ∨ py.addr + size ≤ b → u.mem.read b = s.mem.read b)
     (∀ j, Counts s m j → Lands (.bankElementUpdate m.id k) s m j k size Updated) ∧
     (m.cell = none → m.early = [] → Then (.bankElementUpdate m.id k) s Updated))

/-- A command whose elements have all landed counts in DONE and is gone; an aborting one gives its code to a cell whose ERR
is 0, takes from PEND what is still owed, counts, and is gone; an aborted load leaves NaN in its tile (R155, R156, R183). A
front's wait for its cell ends: cwait gives qd the truth of ERR = 0 once PEND is 0; cacq takes its count from DONE once DONE
reaches it; the front goes on (R63, R158, R281). -/
def Obligations.CommandsEnd : Prop :=
  (∀ (s : State) (m : Cmd) (k : Nat), s.cmd? m.id = some m → Counts s m k →
     let y := cellIn s m k
     y.done < 65535 →
     (s.finishReady m = true → Then (.commandFinish m.id) s (fun u => u.mem = s.mem ∧ u.cmd? m.id = none ∧
       cellIn u m k = { y with done := y.done + 1, pend := y.pend - m.owed })) ∧
     (∀ code addr, m.err = some (code, addr) → s.abortReady m = true → m.dests = [] → Then (.commandAbort m.id) s (fun u => u.cmd? m.id = none ∧
       cellIn u m k = { y with done := y.done + 1, err := if y.err = 0 then code else y.err, pend := y.pend - m.owed } ∧
       (∀ spc base ad, m.kind = .accLd spc base ad → s.unobserved m [] m.apart code = none → ∀ i < 128, ∀ j < 128, u.tileAt m.cl m.co ad i j = 0x7FC00000)))) ∧
  (∀ (s : State) (cl co gs fi : Nat) (g : Group) (f : Front), let c := s.core cl co
     c.group? gs = some g → g.fronts[fi]? = some f →
     let Free := fun (u : State) => ∃ h, (u.core cl co).group? gs = some h ∧ ∀ f' ∈ h.fronts, f'.tslots = f.tslots → f'.wait = none
     (∀ q n, f.wait = some (.cwait q n) → (c.cell n).pend = 0 → s.earlyIn c n = false → Then (.cwaitReturn cl co gs fi) s (fun u => u.mem = s.mem ∧ Free u ∧
       (u.core cl co).cells = c.cells ∧ ∃ h, (u.core cl co).group? gs = some h ∧ h.qReg q = ⟨decide ((c.cell n).err = 0), false⟩)) ∧
     (∀ k n, f.wait = some (.cacq k n) → n ≤ (c.cell k).done → Then (.cacqTake cl co gs fi) s (fun u => u.mem = s.mem ∧ Free u ∧
       (u.core cl co).cell k = { c.cell k with done := (c.cell k).done - n })))


/-! ### Blocks and launches -/

/-- A fresh block on a core finds cells, scratchpad and accumulators zero and starts its threads at the entry procedure with
their linear indexes (R86, R87, R322). A block whose threads have ended or parked and whose commands have completed leaves
its core: ended, or saved once its keep ranges are copied; the core's generation steps from 63 to 1 and its cells read zero
(R102, R103, R110). A block of a GANG unit that is over stays on its core while another block of the unit is not (R87). Children
in the launch's spawn ring keep the cluster's last block from its end (R94): the premise on the ring says that there is no ring,
or another block of the launch there to take them. -/
def Obligations.BlocksComeAndGo : Prop :=
  (∀ (s : State) (id block cl co : Nat) (l : Launch) (b : BlockRec), s.launch? id = some l → s.placement l 0 block cl co = some [(block, cl, co)] →
     l.gangLevel = none → l.sra = 0 → l.blocks.find? (fun x => x.index == block) = some b → l.relaunches b = false →
     Then (.blockPlace id block cl co) s (fun u =>
       (u.core cl co).block.map (fun x => (x.launch, x.index, x.z)) = some (l.id, block, l.z) ∧
       (∀ n, (u.core cl co).cell n = {}) ∧ (u.core cl co).gen = (s.core cl co).gen ∧
       (∀ x < l.z, u.mem.read (spAddr cl co x) = 0) ∧ (∀ a < 4, ∀ i < 128, ∀ j < 128, u.tileAt cl co a i j = 0) ∧
       (u.core cl co).threads.length = l.blockSize ∧
       (∀ i < l.blockSize, ∃ t ∈ (u.core cl co).threads, t.linear = block * l.blockSize + i ∧ t.path = ⟨l.entry, [], 0⟩ ∧ t.wb = 0 ∧ t.act = .move .enter ∧
         t.lidx = l.lidxOf (block * l.blockSize + i)) ∧
       ∃ l', u.launch? id = some l' ∧ ∀ x ∈ l'.blocks, x.index = block → x.at_ = .placed cl co)) ∧
  (∀ (s s1 : State) (cl co : Nat) (b : Block) (l : Launch), let c := s.core cl co
     c.block = some b → s.launch? b.launch = some l → s.blockIdle c b = true → c.svc.replaceDue = false → c.svc.testDue = false → b.isOver = false →
     (l.sra = 0 ∨ ∃ k ∈ s.cores, k.cl = cl ∧ k.co ≠ co ∧ ∃ x, k.block = some x ∧ x.launch = b.launch ∧ x.isOver = false) →
     let Free := fun (u : State) (dst : BlockAt) => (u.core cl co).block = none ∧ (u.core cl co).gen = (if c.gen = 63 then 1 else c.gen + 1) ∧
       (∀ n, (u.core cl co).cell n = {}) ∧ ∃ l', u.launch? b.launch = some l' ∧ ∀ x ∈ l'.blocks, x.index = b.index → x.at_ = dst
     (b.parked = false → b.save ≠ some .slice → (∃ x ∈ s.unitCores l b.index, (x.1.cl, x.1.co) ≠ (cl, co) ∧ x.2.isOver = false) → Then (.blockEnd cl co) s (fun u =>
       (u.core cl co).block = some { b with isOver := true } ∧ (u.core cl co).gen = c.gen ∧ (u.core cl co).cells = c.cells)) ∧
     (s.unitCores l b.index = [(c, b)] → b.parked = false → Then (.blockEnd cl co) s (fun u => Free u .ended)) ∧
     (s.unitCores l b.index = [(c, b)] → b.parked = true → b.save = some .slice → s.keepOut cl co l b.index b.keep.eraseDups = (s1, none) → s1.cores = s.cores → s1.launches = s.launches →
       Then (.blockSaved cl co) s (fun u => Free u .saved)))


/-! ### Queues -/

/-- A write to a doorbell page finds the queue of its PASID and number, takes its WR, and makes an idle queue with packets
active; one that names no queue of its function, or is turned away, changes no queue (R315, R361). Packets (R316 to R319): WRITE stores and its STEP
moves on; WAIT moves on where its condition holds and blocks where it does not; the signal step retires the packet, RD moves
on, and a queue with no further packet is idle; an image load is handed to the Markhor and its answer retires it. -/
def Obligations.QueuesAndPackets : Prop :=
  (∀ (s : State) (part : Nat) (tag : HostTag) (v : DWord) (p : Partition), s.part? part = some p →
     let pasid := tag.pasid.getD (Config.defaultPasid part % 2 ^ 20)
     let wr := v.toNat / 2 ^ 32
     let Dropped := Then (.doorbell part tag v) s (fun u => u.parts.map (fun x => x.activeQ) = s.parts.map (fun x => x.activeQ))
     (v.toNat / 2 ^ 16 % 2 ^ 16 ≠ 0 ∨ s.foreignPasid part pasid = true → Dropped) ∧
     (v.toNat / 2 ^ 16 % 2 ^ 16 = 0 → s.foreignPasid part pasid = false →
       (∀ q, s.findQueue p pasid (v.toNat % 2 ^ 16) = some q →
       (s.turnsAway (s.ctxOf (s.queue q).ctx) tag.stream tag.t = false →
         Then (.doorbell part tag v) s (fun u => (u.queue q).wr = wr ∧ (u.queue q).rd = (s.queue q).rd ∧
           (wr ≠ (s.queue q).rd → (s.queue q).state = 0 → (u.queue q).state = 1 ∧ ∃ p', u.part? part = some p' ∧ q ∈ p'.activeQ) ∧
           ((s.queue q).state ≠ 0 → (u.queue q).state = (s.queue q).state))) ∧
       (s.turnsAway (s.ctxOf (s.queue q).ctx) tag.stream tag.t = true → Dropped)) ∧
       (s.findQueue p pasid (v.toNat % 2 ^ 16) = none → Dropped))) ∧
  (∀ (s s1 : State) (q : Nat), s.serves q = true → s.fenced q = false →
     let n := s.packet q
     let c := s.ctxOf (s.queue q).ctx
     let Moved := fun (u r : State) => (u.queue q).step = ((r.queue q).step + 1) % 256 ∧ (u.queue q).state = 1 ∧ (u.queue q).rd = (r.queue q).rd
     let Retired := fun (u r : State) => (u.queue q).rd = ((r.queue q).rd + 1) % 2 ^ 32 ∧ (u.queue q).step = 0 ∧
       (u.queue q).state = (if ((r.queue q).rd + 1) % 2 ^ 32 = (r.queue q).wr then 0 else 1)
     (∀ addr value x, pktOf n = .write addr value → (s.queue q).step = 0 → s.elandWrite c (q, 0, 0) addr value = (s1, .ok x) →
       Then (.pktWrite q) s (fun u => Moved u s1)) ∧
     (∀ addr value cond x, pktOf n = .wait addr value cond → (s.queue q).step = 0 → s.elandRead c (q, 0, 0) addr 8 8 = (s1, .ok x) →
       let holds := if cond = 0 then value ≤ leNat x else if cond = 1 then leNat x = value else leNat x ≠ value
       (holds → Then (.pktWait q) s (fun u => Moved u s1)) ∧
       (¬ holds → Then (.pktWait q) s (fun u => (u.queue q).state = 2 ∧ (u.queue q).step = (s1.queue q).step ∧ (u.queue q).rd = (s1.queue q).rd))) ∧
     (sigAddr n = 0 → (pktOf n = .signal ∧ (s.queue q).step = 0) ∨ ((s.queue q).step = 1 ∧ ∃ addr value, pktOf n = .write addr value) →
       Then (.pktSignalWrite q) s (fun u => Retired u s ∧ u.outputs = s.outputs ++ (if n.testBit 9 then [.msix c.part 3] else []))) ∧
     (∀ img dst len commit, pktOf n = .imageLoad img dst len commit →
       ((s.queue q).step = 0 → Then (.pktImageLoad q) s (fun u => Moved u s ∧ ∃ t, u.loads = s.loads ++ [t] ∧ t.qcb = q ∧ t.img = BitVec.ofNat 64 img ∧
         t.len = len ∧ t.dataDst = BitVec.ofNat 64 dst ∧ t.commit = commit ∧ t.answer = none)) ∧
       (∀ t w, (s.queue q).step = 1 → s.loads.find? (fun t => t.qcb == q) = some t → t.answer = some w → sigAddr n = 0 →
         Then (.imageLoadResult q) s (fun u => Retired u s ∧ ∀ x ∈ u.loads, x.id ≠ t.id))))

/-- LAUNCH and RESUME make the launch of their record, field by field, with its threads' blocks or its pool's, and retire, or refuse it and make
none (R104, R317, R320 to R323). A launch whose
blocks are saved or ended, and whose commands and accesses are done, ends: its signal is written, then MSI-X vector 3 of its
partition is raised where it asked for it (R319, R323). -/
def Obligations.Launches : Prop :=
  (∀ (s s0 s1 : State) (q : Nat) (b : List Byte) (record : Nat), s.serves q = true → s.fenced q = false →
     let n := s.packet q
     let c := s.ctxOf (s.queue q).ctx
     let r := leNat b
     let Retired := fun (u r : State) => (u.queue q).rd = ((r.queue q).rd + 1) % 2 ^ 32 ∧ (u.queue q).step = 0
     let Makes := fun (ins : Instr) (l : Launch) (bad : List (Nat × Nat)) (pool : Option (Nat × Nat)) =>
       Then ins s (fun u => u.launches = s1.launches ++ [l] ∧ (bad = [] → Retired u s1)) ∧
         (s.elandRead c (q, 0, 0) record 256 64 = (s0, .ok b) → (∃ img, s0.image? (r % 2 ^ 32) = some img ∧ LaunchOf c img q n r l) ∧ StartsWith l pool)
     let own := if r / 2 ^ 576 % 2 ^ 32 = 0 then none else some (r / 2 ^ 512 % 2 ^ 64, r / 2 ^ 576 % 2 ^ 32)
     (pktOf n = .launch record →
       (∀ l bad, s.makeLaunch c q n record none = (s1, .launch l bad) → Makes (.pktLaunch q) l bad own) ∧
       (∀ code addr, s.makeLaunch c q n record none = (s1, .refuse code addr) → s1.packet q = n → sigAddr n = 0 →
         Then (.pktLaunch q) s (fun u => u.launches = s1.launches))) ∧
     (∀ pool count l bad, pktOf n = .resume record pool count → s.makeLaunch c q n record (some (pool, count)) = (s1, .launch l bad) →
       Makes (.pktResume q) l bad (some (pool, count)))) ∧
  (∀ (s s1 : State) (id : Nat) (l : Launch) (x : List Byte), s.launch? id = some l → s.launchDone l = true →
     let c := s.ctxOf l.ctx
     let rung := if l.irq then [Output.msix c.part 3] else []
     (l.sigAddr = 0 → Then (.launchEnd id) s (fun u => u.mem = s.mem ∧ u.launch? id = none ∧ u.outputs = s.outputs ++ rung)) ∧
     (l.sigAddr ≠ 0 → s.elandWrite c (0, 1, id) l.sigAddr.toNat l.sigVal.toNat = (s1, .ok x) → s1.outputs = s.outputs →
       Then (.launchEnd id) s (fun u => u.mem = s1.mem ∧ u.launch? id = none ∧ u.outputs = s.outputs ++ rung)))

/-- An image that passes every check is installed: a new handle, its procedures, its code on the code pages, the answer OK;
one that fails a check, or finds no code page for a table, changes no image and gets that status (R295, R301, R317; log entry 9). The context's
partition is one of at most 12, its root table on a page (R304, R306). -/
def Obligations.ImageLoads : Prop :=
  ∀ (s s1 : State) (id : Nat) (t : LoadTask) (l : List Byte), s.loads.find? (fun x => x.id == id && x.answer.isNone) = some t →
    let c := s.ctxOf t.ctx
    s.elandRead c (t.qcb, 2, t.id) t.img.toNat t.len 1 = (s1, .ok l) → s1.loads = s.loads →
    (s.loads.filter (fun x => x.id == id)).length = 1 →
    let Answered := fun (u : State) (status handle : Nat) => ∃ t', u.loads.find? (fun x => x.id == id) = some t' ∧ t'.answer = some (BitVec.ofNat 64 (handle * 2 ^ 32 + status))
    (∀ e, s1.verify l t.len = .error e → Then (.imageLoadVerify id) s (fun u => u.images = s1.images ∧ u.mem = s1.mem ∧ Answered u e.code 0)) ∧
    (∀ r frame s2, s1.verify l t.len = .ok r → s1.codeFrame c.part r.code.length = some frame → s1.floorFull t r.hdr = false →
      s1.gmWriteAll (elandCl c.part) 0 c false (r.data.length / 4096 + 2) t.dataDst.toNat r.data = (s2, .ok ()) → s2.loads = s.loads →
      let image := s2.newImage t c.part frame r
      (s2.putImage image r.code = none → Then (.imageLoadVerify id) s (fun u => u.images = s1.images ∧ u.mem = s1.mem ∧ Answered u 8 0)) ∧
      (∀ s3, s2.putImage image r.code = some s3 → c.part < 12 → c.ptroot % 4096 = 0 →
        Then (.imageLoadVerify id) s (fun u => Answered u 0 s2.pkg.nextHandle ∧ u.images = s2.images ++ [image] ∧ image.handle = s2.pkg.nextHandle ∧ image.ctx = t.ctx ∧
          image.procs = r.procs.map KernelHdr.proc ∧ image.measurement = r.measurement ∧ u.mem = s3.mem ∧ u.mem.readBytes (image.codeAddr 0) r.code.length = r.code)))


/-! ### Address translation -/

/-- A stall is written to its partition's fault ring as a FULL entry with its ACC, SRC, cluster, context and address, and
MSI-X vector 1 is raised (R334); a walk that finds a leaf sets its A bit and changes no other byte (R331). A response names a
context's page: no thread's or pager's stall on it is left; RETRY lets the stopped front go on, FAIL stops it with class 4 at
the address (R335). -/
def Obligations.FaultsAndResponses : Prop :=
  ((∀ (s : State) (id : Nat) (st : Stall) (a : Nat), s.stalls.find? (fun x => x.id == id) = some st → s.entryDue st = true → s.ringPlace st.part = some a →
     st.src ≤ 5 → st.cl < 256 → st.ctx < 2 ^ 16 → st.va < 2 ^ 64 →
     let acc := match st.acc with | .read => 0 | .write => 1 | .atomic => 2 | .fetch => 3
     let src := if st.src = 0 ∧ st.acc = .fetch then 1 else st.src
     Then (.faultEntryWrite id) s (fun u => u.mem.readLe a 16 = 1 + acc * 2 ^ 34 + src * 2 ^ 36 + st.cl * 2 ^ 40 + st.ctx * 2 ^ 48 + st.va * 2 ^ 64 ∧
       (∀ x, x < a ∨ a + 16 ≤ x → u.mem.read x = s.mem.read x) ∧ u.outputs = s.outputs ++ [.msix st.part 1])) ∧
   (∀ (s s1 : State) (cl co ctx va level a e : Nat) (c : Context), s.ctx? ctx = some c → canonicalVa va = true → s.tlbFind cl co ctx (va % 2 ^ 57) = none →
     c.ctx = ctx → s.walkFrom cl c (va % 2 ^ 57) = (s1, .leaf level a e) → e = s.mem.readLe a 8 →
     Then (.tableWalk cl co ctx va .read) s (fun u => u.mem.readLe a 8 = (if e.testBit 11 then e else e + 2 ^ 11) ∧
       ∀ x, x < a ∨ a + 8 ≤ x → u.mem.read x = s.mem.read x))) ∧
  (∀ (s : State) (part va ctx : Nat) (fail : Bool) (v : DWord), v.toNat = va / 4096 * 2 ^ 19 + ctx * 2 ^ 3 + (if fail then 1 else 0) → ctx < 2 ^ 16 → va < 2 ^ 57 →
     let named := fun (x : Stall) => x.part == part && x.ctx == ctx && x.va % 2 ^ 57 / 4096 == va / 4096 && !x.fail
     Then (.faultResponse part v) s (fun u => ∀ x ∈ u.stalls, x.src ≤ 2 → named x = false) ∧
     (∀ st co gs k g t, s.stalls.filter named = [st] → st.src = 0 → st.who = some (co, gs, k) → (s.core st.cl co).group? gs = some g →
       (s.core st.cl co).threadAt g k = some t →
       let acc := match st.acc with | .read => 0 | .write => 1 | .atomic => 2 | .fetch => 3
       let dst := if fail then some (Stop.trap (0x40 + acc) k (BitVec.ofNat 64 st.va) t.path) else none
       Then (.faultResponse part v) s (fun u => u.mem = s.mem ∧ ∃ h, (u.core st.cl co).group? gs = some h ∧
         h.fronts = g.fronts.map (fun f => if f.stop = some (.stall st.id) then { f with stop := dst } else f))))

/-- An invalidation drops the partition's translations and kept non-leaf entries of the page or context at once and is complete when no access made
under them is left; INVSEQ then increases (R336). An access from another chip reaches the export window and no byte beyond it
(R332). -/
def Obligations.InvalidationAndPeers : Prop :=
  (∀ (s : State) (part va ctx : Nat) (all : Bool) (v : DWord) (p : Partition) (c : Context), v.toNat = va / 4096 * 2 ^ 19 + ctx * 2 ^ 3 + (if all then 1 else 0) →
    ctx < 2 ^ 16 → va < 2 ^ 57 → s.part? part = some p → s.ctx? ctx = some c → c.part = part →
    Then (.invalidationRequest part v) s (fun u => u.mem = s.mem ∧ (∀ t ∈ u.tlb, t.ctx = ctx → all = false ∧ ¬ (t.va ≤ va / 4096 * 4096 ∧ va / 4096 * 4096 < t.va + t.size)) ∧
      (∀ e ∈ u.walks, e.ctx = ctx → all = false ∧ e.va ≠ walkKey e.level (va / 4096 * 4096)) ∧
      ∃ p', u.part? part = some p' ∧ p'.invPending.map (fun x => x.req) = p.invPending.map (fun x => x.req) ++ [v] ∧ p'.invSeq = p.invSeq)) ∧
  (∀ (s : State) (part : Nat) (p : Partition), s.part? part = some p → s.invDone p = true →
    Then (.invalidationComplete part) s (fun u => u.mem = s.mem ∧ ∃ p', u.part? part = some p' ∧ p'.invSeq = (p.invSeq + 1) % 2 ^ 32 ∧ p'.invPending = p.invPending.drop 1)) ∧
  (∀ (s : State) (part off len : Nat) (p : Partition), s.part? part = some p →
    let a := s.partBase part + p.exportBase * 4096 + off
    (off + len ≤ p.exportLen * 4096 →
      exec (.peerAccess part off len .load) s = .next { s with outputs := s.outputs ++ [.peer off (s.mem.readBytes a len) (s.poisoned a len)] } ∧
      ∀ data, data.length = len → Then (.peerAccess part off len (.store data)) s (fun u => u.mem.readBytes a len = data ∧
        ∀ x, x < a ∨ a + len ≤ x → u.mem.read x = s.mem.read x)) ∧
    (p.exportLen * 4096 < off + len → ∀ acc, exec (.peerAccess part off len acc) s = .next { s with outputs := s.outputs ++ [.peerRefused off] }))


/-! ### Time slices, sessions -/

/-- Schedules advance at a slice edge; a switch of a cluster without a protected context ends once the cluster is empty, with
one it starts a clear of 4,096 cycles, which zeroes the cluster's scratchpad, sets its generations to 1 and drops the
outgoing context's translations of the cluster and its die, and ends the switch where no block is left on the cluster, or marks the cluster failed (R311 to R313, R324). A cluster that has
failed and been repaired is cleared again (R313); what the repair is, is the model's choice (log entry 88). -/
def Obligations.ClusterSwitches : Prop :=
  (∀ (s : State), (s.parts.map (fun p => p.idx)).Nodup → Then .sliceEdge s (fun u => u.mem = s.mem ∧
    ∀ p ∈ s.parts, ∃ p', u.part? p.idx = some p' ∧ p'.slice = (if p.slices = [] then p.slice else (p.slice + 1) % p.slices.length))) ∧
  (∀ (s : State) (cl : Nat) (y : Option Nat), let k := s.cluster cl
    k.id = cl → k.next = some y → k.clearing = false → s.clusterEmpty cl = true → Then (.clusterSwitch cl) s (fun u => u.mem = s.mem ∧
      (s.eitherProt k.ctx y = false → (u.cluster cl).ctx = y ∧ (u.cluster cl).next = none ∧ (u.cluster cl).clearing = false) ∧
      (s.eitherProt k.ctx y = true → (u.cluster cl).clearing = true ∧ (u.cluster cl).clearAt = s.now + 4096 ∧ (u.cluster cl).ctx = k.ctx))) ∧
  (∀ (s : State) (cl : Nat), let k := s.cluster cl
    k.id = cl → k.clearing = true → k.clearAt ≤ s.now →
    Then (.clearSequenceComplete cl true) s (fun u => (∀ x < 128 * 2 ^ 20, u.mem.read (spAddr cl 0 x) = 0) ∧ (∀ c ∈ u.cores, c.cl = cl → c.gen = 1) ∧
      (∀ y, k.next = some y →
        if s.cores.all (fun c => c.cl != cl || c.block.isNone) then (u.cluster cl).ctx = y ∧ (u.cluster cl).next = none
        else (u.cluster cl).ctx = k.ctx ∧ (u.cluster cl).next = some y) ∧ (u.cluster cl).clearing = false ∧
      ∀ t ∈ u.tlb, k.ctx = some t.ctx → ¬ (t.level = 0 ∧ t.place / 128 = cl ∨ t.level = 1 ∧ t.place = cl ∨ t.level = 2 ∧ t.place = cl / 2)) ∧
    Then (.clearSequenceComplete cl false) s (fun u => (u.cluster cl).failed = true ∧ (u.cluster cl).ctx = k.ctx ∧ (u.cluster cl).next = none ∧ (u.cluster cl).clearing = false)) ∧
  (∀ (s : State) (cl : Nat), let k := s.cluster cl
    k.id = cl → k.failed = true → k.repaired = true → k.next = none → k.clearing = false → Then (.clusterSwitch cl) s (fun u => u.mem = s.mem ∧
      (u.cluster cl).failed = true ∧ (u.cluster cl).clearing = true ∧ (u.cluster cl).clearAt = s.now + 4096))

/-- Replay (R378 to R385). A drain takes the packet at the ring's head to the recording; one that fails stops the recording and the compares of
hashes, and the groups of that packet's records take class 20 of event 3. A fill puts the recording's next packet at the ring's tail and gives the
places of its records to the packet's stream. A boundary of
a group is logged in record mode; in replay it uses up the next hash of the group's key, and where count or sum differ, or no hash is left, the
group takes class 20 of event 0; without a session it only ends. A gate lets an access of its run's key in, counts it off the run and performs it
there and then, holds one of another key, and at the log's
end opens and the access's group takes class 20 of event 1. A gate whose run's key is not among the accesses and updates held there opens on its time limit:
event 2. -/
def Obligations.ReplaySteps : Prop :=
  (∀ (s : State) (ctx : Nat) (x : Session) (c : Context), s.session? ctx = some x → s.ctx? ctx = some c →
    let Posts := fun (u : State) (cause : Nat) (cl co gs born : Nat) => ∀ g, (s.core cl co).group? gs = some g → g.born = born → g.pend = none →
      ∃ h, (u.core cl co).group? gs = some h ∧ h.pend = some cause
    (x.record = true → x.truncated = false → x.tail ≠ x.head →
      let w := (List.range 8).map (fun i => BitVec.ofNat 64 (s.mem.readLe (s.partBase c.part + x.ring + (x.head + 8 * i) % x.ringLen) 8))
      Then (.logDrain ctx true) s (fun u => u.mem = s.mem ∧ ∃ y, u.session? ctx = some y ∧ y.head = x.head + 64 ∧ y.tail = x.tail ∧
        y.packets = x.packets ++ [w] ∧ y.drains = x.drains.drop 1) ∧
      Then (.logDrain ctx false) s (fun u => (∃ y, u.session? ctx = some y ∧ y.truncated = true ∧ y.compares = false ∧ y.head = x.head ∧ y.packets = x.packets) ∧
        ∀ r ∈ x.drains.headD [], Posts u (0x14C + (w.headD 0).toNat / 2 ^ 14 % 2 ^ 2) r.1 r.2.1 r.2.2.1 r.2.2.2)) ∧
    (∀ w rest, x.record = false → x.packets = w :: rest → w.length = 8 → x.tail + 64 ≤ x.usedTo + x.ringLen →
      let a := s.partBase c.part + x.ring + x.tail % x.ringLen
      let n := (w.headD 0).toNat
      let home := (n / 2 ^ 14 % 2 ^ 2, n / 2 ^ 11 % 2 ^ 3, n % 2 ^ 11)
      Then (.logFill ctx) s (fun u => u.mem.readBytes a 64 = w.flatMap (fun d => leBytes 8 d.toNat) ∧ (∀ b, b < a ∨ a + 64 ≤ b → u.mem.read b = s.mem.read b) ∧
        ∃ y, u.session? ctx = some y ∧ y.packets = rest ∧ y.tail = x.tail + 64 ∧
          (n / 2 ^ 62 = 2 → home ≠ (3, 0, 0) → (x.stream home).open_ = false → (y.stream home).at_ = (x.stream home).at_ ++
            ((List.range 7).filter (fun i => decide (gateRec (w.getD (i + 1) 0).toNat ≠ .pad))).map (fun i => x.tail + 8 * (i + 1))) ∧
          (n / 2 ^ 62 = 2 → home = (3, 0, 0) → x.compares = true → (∀ j < 3, (w.getD (2 * j + 1) 0).toNat / 2 ^ 62 = 1) → w.getD 7 0 = padWord →
            (y.stream home).at_ = (x.stream home).at_ ++ (List.range 6).map (fun i => x.tail + 8 * (i + 1))))) ∧
    (∀ i t k n, x.streams[i]? = some t → x.record = false → t.open_ = false → t.run = some (k, n + 1) →
      let home := (t.kind, t.die, t.index)
      let held := s.accsHeld ctx home
      held ≠ [] ∨ s.cmdsHeld ctx home ≠ [] → held.any (fun a => a.key == k) = false → (s.cmdsHeld ctx home).any (fun m => m.key == k) = false →
      Then (.gateTimeout ctx i) s (fun u => (∃ y, u.session? ctx = some y ∧ (y.stream home).open_ = true ∧ y.compares = false) ∧
        (∀ a ∈ held, Posts u (0x148 + t.kind) a.cl a.co a.gslot a.grp) ∧ ∀ m ∈ s.cmdsHeld ctx home, Posts u (0x148 + t.kind) m.cl m.co m.gslot m.grp))) ∧
  (∀ (s : State) (cl co gs : Nat) (g : Group) (n : Nat) (sum : DWord) (rest : List (Nat × DWord)), (s.core cl co).group? gs = some g →
    g.bounds = (n, sum) :: rest → g.members ≠ [] →
    let sess := (s.launch? g.launch).bind (fun l => s.session? l.ctx)
    let key := g.key.getD 0xFFFFFF
    let Ends := fun (pend : Option Nat) (p : State → Prop) => Then (.hashBoundary cl co gs) s (fun u => p u ∧
      ∃ h, (u.core cl co).group? gs = some h ∧ h.bounds = rest ∧ h.members = g.members ∧ h.pend = pend)
    (sess = none → Ends g.pend (fun u => u.mem = s.mem ∧ u.sessions = s.sessions)) ∧
    (∀ x, sess = some x → x.record = true → x.truncated = false → x.room = true → (∀ c, s.ctx? x.ctx = some c → s.ringFaults x c = false) →
      let l := (x.stream (3, 0, 0)).pending ++ [.hash key n sum [(cl, co, gs, g.born)]]
      Ends g.pend (fun u => ∃ y, u.session? x.ctx = some y ∧ (if recWords l < 7 then (y.stream (3, 0, 0)).pending = l ∧ u.mem = s.mem
        else (s.ctx? x.ctx).isSome = true → y.tail = x.tail + 64))) ∧
    (∀ x m h left, sess = some x → x.record = false → x.compares = true → findHash (s.ringWord x.ctx) key [] (x.stream (3, 0, 0)).at_ = some (m, h, left) →
      let Used := fun (p : Session → Prop) (u : State) => ∃ y, u.session? x.ctx = some y ∧ p y
      (m = n ∧ h = sum.toNat → Ends g.pend (Used (fun y => (y.stream (3, 0, 0)).at_ = left ∧ y.compares = true))) ∧
      (¬ (m = n ∧ h = sum.toNat) → g.pend = none → Ends (some 0x143) (Used (fun y => (y.stream (3, 0, 0)).at_ = [] ∧ y.compares = false)))) ∧
    (∀ x, sess = some x → x.record = false → x.compares = true → findHash (s.ringWord x.ctx) key [] (x.stream (3, 0, 0)).at_ = none →
      x.allIn (3, 0, 0) = true → g.pend = none →
      Ends (some 0x143) (fun u => ∃ y, u.session? x.ctx = some y ∧ y.compares = false))) ∧
  (∀ (s : State) (a : Access) (p : Part) (data : List Byte) (x : Session) (h : Nat × Nat × Nat), s.acc? a.id = some a → s.atGates a = [h] →
    s.session? a.ctx = some x → x.record = false → a.op = .store data → a.parts = [p] → a.partsAt h = [p] → p.prot = false → s.stale p = false →
    s.partlyPoisoned p = [] → p.off + p.len ≤ data.length →
    let t := x.stream h
    let Admits := fun (q : State → Prop) => Then (.gateAdmit a.id) s (fun u => (∀ b ∈ u.accs, b.id ≠ a.id) ∧
      (∀ y, p.addr ≤ y → y < p.addr + p.len → u.mem.read y = data.getD (p.off + (y - p.addr)) 0) ∧
      (∀ y, y < p.addr ∨ p.addr + p.len ≤ y → u.mem.read y = s.mem.read y) ∧ q u)
    (t.open_ = true → Admits (fun u => u.sessions = s.sessions)) ∧
    (∀ n, t.open_ = false → t.run = some (a.key, n + 1) → Admits (fun u => ∃ y, u.session? a.ctx = some y ∧ y.stream h = { t with run := some (a.key, n) })) ∧
    (∀ q l n, t.open_ = false → (t.run = none ∨ ∃ k, t.run = some (k, 0)) → t.at_ = q :: l → gateRec (s.ringWord a.ctx q) = .run a.key (n + 1) →
      Admits (fun u => ∃ y, u.session? a.ctx = some y ∧ y.stream h = { t with run := some (a.key, n), at_ := l, used := t.used + 1 })) ∧
    (∀ k n, t.open_ = false → t.run = some (k, n + 1) → k ≠ a.key → exec (.gateAdmit a.id) s = .refused .notEnabled) ∧
    (∀ g, t.open_ = false → (t.run = none ∨ ∃ k, t.run = some (k, 0)) → t.at_ = [] → x.allIn h = true →
      (s.core a.cl a.co).group? a.gslot = some g → g.born = a.grp → g.pend = none →
      Admits (fun u => (∃ y, u.session? a.ctx = some y ∧ (y.stream h).open_ = true ∧ y.compares = false) ∧
        ∃ g', (u.core a.cl a.co).group? a.gslot = some g' ∧ g'.pend = some (0x144 + h.1))))


/-! ### The mailbox -/

/-- A mailbox takes a command block's address while it is free, drops a write while it is busy, answers an unknown opcode
with UNKNOWN, a command that the function may not issue with DENIED, and completes by writing STATUS and RESULT, clearing
BUSY, stepping its count and raising MSI-X vector 0 (R309). -/
def Obligations.MailboxProtocol : Prop :=
  ∀ (s : State) (fn : Nat) (v : DWord),
    let m := s.mailbox fn
    m.fn = fn →
    (s.hasFunction fn = true → m.busy = false → v.toNat % 4096 = 0 → Then (.registerWrite fn 0xA00 v) s (fun u => u.mem = s.mem ∧ u.mailbox fn = { m with busy := true, block := v.toNat, result := none })) ∧
    (s.hasFunction fn = true → (m.busy = true ∨ v.toNat % 4096 ≠ 0) → Then (.mailboxWriteWhileBusy fn v) s (fun u => u.mailbox fn = m)) ∧
    (s.hasFunction fn = true → s.registerRead fn 0xA08 = some (BitVec.ofNat 32 ((if m.busy then 1 else 0) + m.count % 2 ^ 16 * 2 ^ 16))) ∧
    (∀ d, Submitted s fn 0x30 d → Answers (.mailboxUnknownOpcode fn) s fn 7) ∧
    (∀ d, Submitted s fn 0x10 d → fn ≠ 0 → Answers (.partitionSet fn) s fn 6) ∧
    (∀ st r, m.result = some (st, r, []) → st < 256 → Then (.mailboxCommandComplete fn) s (fun u =>
      u.mem.readLe (Config.hostBase + m.block + 8) 1 = st ∧ u.mem.readLe (Config.hostBase + m.block + 9) 7 = r.toNat ∧
      (∀ x, x < Config.hostBase + m.block + 8 ∨ Config.hostBase + m.block + 16 ≤ x → u.mem.read x = s.mem.read x) ∧
      u.mailbox fn = { m with busy := false, result := none, count := (m.count + 1) % 2 ^ 16 } ∧
      u.outputs = s.outputs ++ [if fn = 0 then .pfMsix 0 else .msix (fn - 1) 0]))

/-- Commands on contexts, queues and sessions with good payloads (R306 to R308, R310, R314, R315, R347, R378): an unprotected
context of the descriptor's fields under the lowest free number; a context with nothing resident goes, with its translations;
its supervisor is set, and one of another context's image is given its code pages in the tables or answered NOSPACE (log entry 9); a queue's control block in its table; an attention request reaches the group; a recording starts and
is closed, while nothing of its context is resident. -/
def Obligations.ContextCommands : Prop :=
  ∀ (s : State) (fn d : Nat), fn ≠ 0 → (s.mailbox fn).fn = fn →
    let f := fun (lo n : Nat) => d / 2 ^ lo % 2 ^ n
    (∀ health, Submitted s fn 1 d → f 1 1 = 0 → descBad d = false → d < 2 ^ 1024 → f 320 64 % 4096 = 0 →
      ((List.range 6).map (descWin d)).zipIdx.all (fun x => s.winOk (fn - 1) x.2 x.1) = true → s.winClash false ((List.range 6).map (descWin d)) = false →
      s.handlerOk (fn - 1) false none (f 416 32) (f 400 16) = true → (s.ctxs.filter (fun c => c.part == fn - 1)).length < 256 →
      let c := ctxOfDesc d s.freeCtx (fn - 1) none
      match ({ s with ctxs := s.ctxs ++ [c] }.onPart (fn - 1) (fun p => { p with ctxList := p.ctxList ++ [s.freeCtx] })).mapHandler c with
      | none => Answers (.ctxCreate fn health) s fn 2
      | some _ => Accepts (.ctxCreate fn health) s fn (BitVec.ofNat 56 s.freeCtx) (fun u => ∃ c ∈ u.ctxs, c.ctx = s.freeCtx ∧ c.part = fn - 1 ∧ c.prot = false ∧
        c.ptroot = f 320 64 ∧ c.pasid = f 44 20 ∧ c.errrec = BitVec.ofNat 64 (f 896 64) ∧ c.bararea = BitVec.ofNat 64 (f 832 64) ∧ c.trapMode = decide (f 0 1 = 1))) ∧
    (∀ c, Submitted s fn 2 d → d < 2 ^ 16 → s.ctx? d = some c → c.ctx = d → c.part + 1 = fn → s.ctxBusy d = false →
      Accepts (.ctxDestroy fn) s fn 0 (fun u => u.ctx? d = none ∧ (∀ t ∈ u.tlb, t.ctx ≠ d) ∧ ∀ e ∈ u.walks, e.ctx ≠ d)) ∧
    (∀ c, Submitted s fn 3 d → d < 2 ^ 64 → s.ctx? (f 0 16) = some c → c.ctx = f 0 16 → c.part + 1 = fn →
      s.handlerOk c.part c.prot (some c.ctx) (f 32 32) (f 16 16) = true →
      let c1 := { c with svimg := f 32 32, svproc := if f 16 16 = 0xFFFF then none else some (f 16 16) }
      match (s.onCtx c.ctx (fun _ => c1)).mapHandler c1 with
      | none => Answers (.ctxSupervisor fn) s fn 2
      | some s1 => Accepts (.ctxSupervisor fn) s fn 0 (fun u => u.mem = s1.mem ∧ (∃ c', u.ctx? (f 0 16) = some c' ∧ { c' with codeTables := c.codeTables } = c1) ∧
          (f 16 16 = 0xFFFF ∨ (s.image? (f 32 32)).any (fun i => i.ctx == c.ctx) = true → u.mem = s.mem))) ∧
    (∀ c p base i, Submitted s fn 4 d → f 40 24 = 0 → d < 2 ^ 128 → s.ctx? (f 0 16) = some c → c.part + 1 = fn → s.part? (fn - 1) = some p → p.idx = fn - 1 →
      4 ≤ f 32 8 → f 32 8 ≤ 16 → f 64 64 % 4096 = 0 → f 64 64 + 64 * 2 ^ f 32 8 ≤ s.ordinaryCap (fn - 1) → p.qtable = some base →
      s.qSlot p base c.pasid (f 16 16) = none → s.freeSlotOf p base c.pasid (f 16 16) = some i →
      Accepts (.queueCreate fn) s fn (BitVec.ofNat 56 (p.freeQcb / 64)) (fun u => ∃ p', u.part? (fn - 1) = some p' ∧ p'.queues = p.queues ++ [p.freeQcb])) ∧
    (∀ c p q, Submitted s fn 5 d → d < 2 ^ 32 → s.ctx? (f 0 16) = some c → c.part + 1 = fn → s.part? (fn - 1) = some p → p.idx = fn - 1 →
      s.findQueue p c.pasid (f 16 16) = some q →
      Accepts (.queueDestroy fn) s fn 0 (fun u => ∃ p', u.part? (fn - 1) = some p' ∧ q ∉ p'.queues ∧ q ∉ p'.activeQ)) ∧
    (∀ c g l, Submitted s fn 8 d → f 31 1 = 0 → d < 2 ^ 38 → s.ctx? (f 0 16) = some c → c.ctx = f 0 16 → c.part + 1 = fn →
      (s.core (f 16 8) (f 24 7)).group? (f 32 6) = some g → s.launch? g.launch = some l → l.ctx = f 0 16 → g.pend = none →
      Accepts (.attention fn) s fn 0 (fun u => ∃ h, (u.core (f 16 8) (f 24 7)).group? (f 32 6) = some h ∧ h.pend = some 0x160)) ∧
    (∀ c, Submitted s fn 6 d → d < 2 ^ 512 → s.ctx? (f 48 16) = some c → c.ctx = f 48 16 → c.part + 1 = fn → f 0 2 = 1 → s.sessBad d c = false → s.pkg.nvme = true →
      (Config.recordingRoom s.pkg.recordings.length = true → ((s.session? c.ctx).isSome || s.sessBusy c.ctx) = true → Answers (.sessionStart fn) s fn 3) ∧
      (Config.recordingRoom s.pkg.recordings.length = true → s.session? c.ctx = none → s.sessBusy c.ctx = false →
        Accepts (.sessionStart fn) s fn (BitVec.ofNat 56 s.freeSession) (fun u => ∃ x, u.sessions = s.sessions ++ [x] ∧ x.id = s.freeSession ∧ x.ctx = f 48 16 ∧ x.record = true)) ∧
      (Config.recordingRoom s.pkg.recordings.length = false → Answers (.sessionStart fn) s fn 2)) ∧
    (∀ c x, Submitted s fn 7 d → s.sessions.find? (fun x => x.id == d) = some x → s.ctx? x.ctx = some c → c.part + 1 = fn → x.record = true →
      (s.sessBusy x.ctx = true → Answers (.sessionStop fn) s fn 3) ∧
      (s.sessBusy x.ctx = false → Accepts (.sessionStop fn) s fn 0 (fun u => (∀ y ∈ u.sessions, y.id ≠ d) ∧ ∃ r ∈ u.pkg.recordings, r.id = d)))

/-- The physical function's commands on partitions with good payloads (R304, R305, R315, R324, R332, R334, R351, R353, R365,
R369, R374, R392). -/
def Obligations.PartitionCommands : Prop :=
  ∀ (s : State) (d : Nat) (p : Partition), (s.mailbox 0).fn = 0 →
    let f := fun (lo n : Nat) => d / 2 ^ lo % 2 ^ n
    let Part := fun (u : State) (q : Partition → Prop) => ∃ p', u.part? (f 0 4) = some p' ∧ q p'
    let here := s.part? (f 0 4) = some p
    (Submitted s 0 0x10 d → d ∈ [1, 2, 3, 6, 12] → s.ctxs = [] →
      Accepts (.partitionSet 0) s 0 0 (fun u => u.pkg.parts = some d ∧ u.parts.map (fun x => x.idx) = List.range d ∧
        ∀ x, Config.hbmBase ≤ x → x < Config.hbmBase + 12 * Config.hbmStack → u.mem.read x = 0)) ∧
    (∀ health, here → Submitted s 0 0x11 d → f 4 28 = 0 → d < 2 ^ 32 → s.ctxs.any (fun x => x.part == f 0 4 && x.prot) = false →
      Accepts (.carveoutSet 0 health) s 0 0 (fun u => u.mem = s.mem ∧ Part u (fun p' => p'.carve = 0 ∧ p'.meta_ = 0 ∧ p'.ki = none))) ∧
    (here → Submitted s 0 0x12 d → f 4 4 = 0 → f 8 8 = 1 → s.stacksPerPart = 1 → d < 2 ^ 32 →
      (f 16 16 = 0xFFFF ∨ ∃ c, s.ctx? (f 16 16) = some c ∧ c.part = f 0 4) →
      Accepts (.sliceSet 0) s 0 0 (fun u => u.mem = s.mem ∧ Part u (fun p' => p'.slices = [[f 16 16]] ∧ p'.slice = 0))) ∧
    (∀ opcode ∈ [0x13, 0x14], here → Submitted s 0 opcode d → f 4 4 = 0 → f 16 48 = 0 → d < 2 ^ 128 → 8 ≤ f 8 8 → f 8 8 ≤ 16 → f 64 64 % 16 = 0 →
      f 64 64 + 16 * 2 ^ f 8 8 ≤ s.ordinaryCap (f 0 4) →
      Accepts (if opcode = 0x13 then .faultringSet 0 else .qtableSet 0) s 0 0 (fun u =>
        (∀ x < 16 * 2 ^ f 8 8, u.mem.read (s.partBase (f 0 4) + f 64 64 + x) = 0) ∧
        Part u (fun p' => if opcode = 0x13 then p'.ringAddr = some (f 64 64) ∧ p'.ringK = f 8 8 ∧ p'.ringTail = 0 else p'.qtable = some (f 64 64) ∧ p'.qtableK = f 8 8))) ∧
    (here → Submitted s 0 0x15 d → f 4 60 = 0 → d < 2 ^ 128 → f 64 64 % 64 = 0 → f 64 64 + 8256 ≤ s.ordinaryCap (f 0 4) →
      Accepts (.perrrecSet 0) s 0 0 (fun u => Part u (fun p' => p'.errrec = some (f 64 64)) ∧ ∀ x < 64, u.mem.read (s.partBase (f 0 4) + f 64 64 + x) = 0)) ∧
    (Submitted s 0 0x16 d → d < 2 ^ 40 → f 18 14 = 0 → f 32 8 ≠ 0 → f 8 8 ≠ 0 → f 8 8 ≤ 100 →
      Accepts (.policySet 0) s 0 0 (fun u => u.mem = s.mem ∧ u.pkg = { s.pkg with policy := BitVec.ofNat 64 d })) ∧
    (Submitted s 0 0x17 d → 2000 ≤ d → d ≤ 5000 → d % 50 = 0 →
      Accepts (.powerSet 0) s 0 0 (fun u => u.mem = s.mem ∧ u.pkg = { s.pkg with powerW := d })) ∧
    (Submitted s 0 0x18 d → f 4 4 = 0 → f 16 16 = 0 → d < 2 ^ 64 → f 0 4 < 12 → f 8 8 < 32 →
      Accepts (.repair 0) s 0 0 (fun u => u.mem = s.mem ∧ (⟨f 0 4, f 8 8, f 32 32⟩ : Repair) ∈ u.pkg.wanted)) ∧
    (Submitted s 0 0x19 d → f 4 4 = 0 → d < 2 ^ 15 → f 0 4 < 12 →
      let c := s.core (f 0 4) (f 8 7)
      c.block = none → c.svc.fenced = false → c.svc.replaceDue = false → c.svc.testing = false → c.cl = f 0 4 → c.co = f 8 7 → (s.cluster (f 0 4)).spares = 4 →
      (s.cluster (f 0 4)).id = f 0 4 →
      Accepts (.spare 0) s 0 0 (fun u => (u.core (f 0 4) (f 8 7)).svc.phys = 128 ∧ (u.cluster (f 0 4)).spares = 3)) ∧
    (here → Submitted s 0 0x1A d → f 4 12 = 0 → f 28 36 = 0 → d < 2 ^ 129 → f 100 28 = 0 → f 96 4 ≤ 11 → f 128 1 = 1 →
      Accepts (.peerSet 0) s 0 0 (fun u => u.mem = s.mem ∧ Part u (fun p' => ∃ x ∈ p'.peers, x = (f 16 12, ⟨BitVec.ofNat 32 (f 64 32), f 96 4⟩)))) ∧
    (here → Submitted s 0 0x1B d → f 4 28 = 0 → d < 2 ^ 96 → (f 32 32 + f 64 32) * 4096 ≤ s.ordinaryCap (f 0 4) →
      Accepts (.exportSet 0) s 0 0 (fun u => u.mem = s.mem ∧ Part u (fun p' => p'.exportBase = f 32 32 ∧ p'.exportLen = f 64 32)))

/-- Owner, signers and firmware (R364, R375): the owner is set once, and the digest of its key burned into fuses; under its signature a new signer becomes active, or an
active one revoked with a fuse burned; the table is listed; firmware that verifies under the device signer and is no older is
staged, abandoned, or committed, its digests then current and its patches, where it has any, in the Eland's patch RAM (R326). -/
def Obligations.OwnerAndFirmware : Prop :=
  ∀ (s : State) (d : Nat), (s.mailbox 0).fn = 0 →
    let l := s.payload 0
    let f := fun (lo n : Nat) => d / 2 ^ lo % 2 ^ n
    (Submitted s 0 0x20 d → d < 2 ^ 512 → s.pkg.ownerFuses = none → Accepts (.ownerSet 0) s 0 0 (fun u => u.pkg.owner = some (bytes512 l) ∧
      u.pkg.ownerFuses = some (Config.sm3 (leBytes 64 (bytes512 l).toNat)))) ∧
    (Submitted s 0 0x20 d → s.pkg.ownerFuses.isSome = true → Answers (.ownerSet 0) s 0 1) ∧
    (Submitted s 0 0x21 d → d < 2 ^ 1280 → f 0 128 ≤ 1 → s.ownerSigns (l.take 96) (l.drop 96) = true → s.signer? (BitVec.ofNat 128 (f 128 128)) = none →
      s.activeSigners < 16 → Accepts (.signerAdd 0) s 0 0 (fun u => u.pkg.cmdCounter = s.pkg.cmdCounter + 1 ∧
        u.pkg.signers = s.pkg.signers ++ [{ id := BitVec.ofNat 128 (f 128 128), key := BitVec.ofNat 512 (f 256 512), state := 1 }])) ∧
    (∀ x, Submitted s 0 0x22 d → d < 2 ^ 640 → s.ownerSigns (l.take 16) (l.drop 16) = true → s.signer? (BitVec.ofNat 128 (f 0 128)) = some x → x.state = 1 →
      s.pkg.fusesBurned < 64 → Accepts (.signerRevoke 0) s 0 0 (fun u => u.pkg.fusesBurned = s.pkg.fusesBurned + 1 ∧
        ∃ y, u.signer? (BitVec.ofNat 128 (f 0 128)) = some y ∧ y.state = 2)) ∧
    (Submitted s 0 0x23 d → d = 0 → ∃ u data, exec (.signerList 0) s = .next u ∧ (u.mailbox 0).result = some (0, 0, data) ∧ data.length = 1536 ∧ u.pkg = s.pkg) ∧
    (Submitted s 0 0x24 d → d < 2 ^ 96 → s.pkg.staged = none →
      let obj := s.mem.readBytes (Config.hostBase + f 0 64) (f 64 32)
      let body := obj.take (f 64 32 - 64)
      Config.sm2Verify Config.deviceSigner [] body (bytes512 (obj.drop (f 64 32 - 64))) = true → s.pkg.fwSvn ≤ Config.fwVersion body →
      Accepts (.fwStage 0) s 0 0 (fun u => ∃ x, u.pkg.staged = some x ∧ x.svn = Config.fwVersion body ∧ x.kernel = Config.fwKernel body ∧ x.eland = Config.fwEland body)) ∧
    (Submitted s 0 0x25 d → d = 0 → s.pkg.staged.isSome = true → Accepts (.fwAbandon 0) s 0 0 (fun u => u.pkg.staged = none)) ∧
    (∀ x, s.pkg.staged = some x → (x.kernel = true → s.mailboxes.any (fun m => m.busy) = false) →
      Then .fwCommit s (fun u => u.pkg.staged = none ∧ u.pkg.fwSvn = x.svn ∧ (x.kernel = true → u.pkg.digests[1]? = some ((x.digests[0]?).getD 0)) ∧
        (x.eland = true → u.pkg.digests[2]? = some ((x.digests[1]?).getD 0)) ∧ u.pkg.patches = (if x.eland then x.patches else s.pkg.patches) ∧
        u.pkg.patchesBefore = s.pkg.patches))


/-! ### Attestation, service -/

/-- SPDM, TDISP and IDE messages in their order (R361 to R363), of a function that is there (R304): each is answered, negotiation proceeds step by
step, a signed response ends a transcript, a session is established and ended, a TDI moves, a stream's key is set; a TDI's error takes the function's protected contexts'
keys. The response codes are the standard's (log entry 27). -/
def Obligations.Messages : Prop :=
  ∀ (s : State) (fn : Nat), let x := s.spdmOf fn
    x.fn = fn → s.hasFunction fn = true →
    Responds (.getVersion fn) s fn 0x04 (fun u => u.spdmOf fn = { x with version := true, caps := false, algs := false, transcript := none, session := none }) ∧
    (x.version = true → Responds (.getCapabilities fn) s fn 0x61 (fun u => u.spdmOf fn = { x with caps := true })) ∧
    (x.caps = true → Responds (.negotiateAlgorithms fn [.sm2, .sm3, .sm4gcm]) s fn 0x63 (fun u => u.spdmOf fn = { x with algs := true })) ∧
    (x.algs = true →
      Responds (.getDigests fn) s fn 0x01 (fun u => u.spdm = s.spdm) ∧ Responds (.getCertificate fn 0) s fn 0x02 (fun u => u.spdm = s.spdm) ∧
      (∀ nonce, Responds (.challenge fn 0 nonce) s fn 0x03 (fun u => u.spdmOf fn = { x with transcript := none })) ∧
      (∀ i nonce, i ≤ 6 → Responds (.getMeasurements fn i false nonce) s fn 0x60 (fun u => u.spdmOf fn = { x with transcript := some (x.transcript.getD s.snapshot) }) ∧
        Responds (.getMeasurements fn i true nonce) s fn 0x60 (fun u => u.spdmOf fn = { x with transcript := none })) ∧
      (∀ share, s.pkg.rngFail = true → Responds (.keyExchange fn share) s fn 0x7F (fun u => u.spdm = s.spdm)) ∧
      (∀ share, s.pkg.rngFail = false →
        (s.choose.1 % 16 ≠ 15 → Responds (.keyExchange fn share) s fn 0x64 (fun u => u.pkg.drbgCount = s.pkg.drbgCount + 1 ∧
          u.spdmOf fn = { x with session := some 0, transcript := none, keyNo := s.pkg.drbgCount + 1 })) ∧
        (s.choose.1 % 16 = 15 → Then (.keyExchange fn share) s (fun u => u.pkg.rngFail = true ∧ u.spdm = s.spdm)))) ∧
    (∀ mac, x.session = some 0 → mac = Config.finishMac x.keyNo → Responds (.finish fn mac) s fn 0x65 (fun u => u.spdmOf fn = { x with session := some 1 })) ∧
    (x.session = some 1 →
      Responds (.keyUpdate fn) s fn 0x69 (fun u => u.spdm = s.spdm) ∧
      Responds (.endSession fn) s fn 0x6C (fun u => u.spdmOf fn = { x with session := none, transcript := none }) ∧
      (fn ≠ 0 → x.tdi = .configUnlocked → Responds (.tdispRequest fn .configLocked) s fn 0xFE (fun u => u.spdmOf fn = { x with tdi := .configLocked })) ∧
      (∀ n key, (s.spdm.map (fun y => y.streams.length)).foldl (· + ·) 0 < 16 →
        Responds (.ideKmRequest fn n (some key)) s fn 0xFE (fun u => (n, key) ∈ (u.spdmOf fn).streams))) ∧
    (fn ≠ 0 → Then (.tdiError fn) s (fun u => (u.spdmOf fn).tdi = .error ∧ ∀ c ∈ u.ctxs, c.part + 1 = fn → c.prot = true → c.ke = none ∧ c.kt = none))

/-- Errors and service (R58, R366 to R376, R392, R393): a corrected error counts and changes no data, an uncorrectable one
poisons its granule; a due repair starts and ends; a due test takes a free core, a withdrawn one is deferred, a passed one
returns the core; a port retrains to its lanes; the clock moves by 100 MHz; a thermal trip holds the package in reset.
Bring-up from reset (R388, R389), with ports of 4 lanes, of 2, or down (R390): with a good first stage and kernel the package serves, with the
strapped FABID and what NVMe holds; with neither copy only the recovery mailbox does, which takes an image signed under the device signer. -/
def Obligations.ServiceAndBringUp : Prop :=
  ((∀ (s : State) (st ch row : Nat), st < 12 → ch < 32 → Then (.correctableError st ch row) s (fun u => u.mem = s.mem ∧ u.poison = s.poison ∧
     u.correctedOf ⟨st, ch, row⟩ = s.correctedOf ⟨st, ch, row⟩ + 1)) ∧
   (∀ (s : State) (a : Nat), Then (.uncorrectableError (.hbm a)) s (fun u => u.mem = s.mem ∧
     ∀ w, u.poison.contains w = (s.poison.contains w || decide (a / 32 * 8 ≤ w ∧ w < a / 32 * 8 + 8)))) ∧
   (∀ (s : State) (st ch row : Nat), let r : Repair := ⟨st, ch, row⟩
     s.repairDue r = true → s.pkg.repairing.any (fun x => x.stack == st) = false → s.spareLeft r = true →
     Then (.softRepairStart st ch row) s (fun u => u.pkg.repairing = s.pkg.repairing ++ [r] ∧ r ∉ u.pkg.wanted)) ∧
   (∀ (s : State) (r : Repair), s.pkg.repairing.find? (fun x => x.stack == r.stack) = some r →
     Then (.softRepairDone r.stack) s (fun u => u.mem = s.mem ∧ r ∉ u.pkg.repairing ∧ u.pkg.spareRowsUsed = s.pkg.spareRowsUsed ++ [r])) ∧
   (∀ (s : State) (cl co : Nat), let c := s.core cl co
     cl < 12 → co < 128 → c.cl = cl → c.co = co →
     (c.svc.held = false → c.block = none → s.pkg.policy.toNat % 256 ≠ 0 → Then (.iftDue cl co) s (fun u => u.mem = s.mem ∧ (u.core cl co).svc.testing = true)) ∧
     (c.svc.testing = true → c.svc.replaceDue = false → Then (.iftComplete cl co true) s (fun u => u.mem = s.mem ∧ (u.core cl co).svc.testing = false ∧
       (u.core cl co).svc.marks = 0 ∧ (u.core cl co).svc.failed = false)) ∧
     (∀ b l, c.block = some b → s.launch? b.launch = some l → c.svc.testDue = true → b.save = some .test →
       Then (.drainLimitExpire cl co) s (fun u => (u.core cl co).svc.testDue = false))) ∧
   (∀ (s : State) (n lanes : Nat) (p : Port), s.port? n = some p →
     (p.training = false → p.lanes ≠ 0 → Then (.portRetrainStart n) s (fun u => ∃ p', u.port? n = some p' ∧ p'.training = true ∧ p'.lanes = p.lanes)) ∧
     (p.training = true → lanes ∈ [0, 2, 4] → Then (.portRetrainDone n lanes) s (fun u => u.mem = s.mem ∧ ∃ p', u.port? n = some p' ∧ p'.training = false ∧ p'.lanes = lanes))) ∧
   (∀ (s : State), (s.pkg.clockMHz < 2500 → exec (.thermalClockStep true) s = .next { s with pkg := { s.pkg with clockMHz := s.pkg.clockMHz + 100 } }) ∧
     (1200 < s.pkg.clockMHz → exec (.thermalClockStep false) s = .next { s with pkg := { s.pkg with clockMHz := s.pkg.clockMHz - 100 } }) ∧
     (s.pkg.up = true → Then .thermalTrip s (fun u => u.pkg.up = false ∧ u.pkg.held = true)))) ∧
  (∀ (s : State), s.pkg.up = false →
     (∀ b : BringUp, (∃ n ∈ b.portLanes, n ≠ 0 ∧ n ≠ 2 ∧ n ≠ 4) → exec (.bringUp b) s = .refused .notEnabled) ∧
     (∀ b : BringUp, (∀ n ∈ b.portLanes, n = 0 ∨ n = 2 ∨ n = 4) → (b.firstStageOk || b.secondCopyOk) = true → (b.kernelOk || b.previousOk) = true →
       Then (.bringUp b) s (fun u => u.mem = s.mem ∧ u.pkg.up = true ∧ u.pkg.held = false ∧ u.pkg.fabid = b.fabid ∧ u.pkg.nvme = b.nvmeOk ∧ u.pkg.digests = b.digests ∧
         u.pkg.floors = s.pkg.floors ∧ u.pkg.owner = s.pkg.owner ∧ u.pkg.ownerFuses = s.pkg.ownerFuses ∧
         ((b.nvmeOk && b.kernelOk) = true → u.pkg.staged = s.pkg.staged ∧ u.pkg.patches = s.pkg.patches) ∧
         ((b.nvmeOk && b.kernelOk) = false → u.pkg.staged = none ∧ u.pkg.patches = s.pkg.patchesBefore) ∧ u.ctxs = [] ∧ u.launches = [] ∧ u.accs = [] ∧ ∀ c ∈ u.cores, c.block = none ∧ c.threads = [] ∧ c.gen = 1)) ∧
     (∀ b : BringUp, (∀ n ∈ b.portLanes, n = 0 ∨ n = 2 ∨ n = 4) → (b.firstStageOk || b.secondCopyOk) = false → Then (.bringUp b) s (fun u => u.mem = s.mem ∧ u.pkg.up = false ∧ u.pkg.recovery = true)) ∧
     (∀ img sig, s.pkg.recovery = true → Config.sm2Verify Config.deviceSigner [] img sig = true →
       exec (.recoveryMailboxImage img sig) s = .next { s with pkg := { s.pkg with flashImage := true, recovery := false } }))


/-! ### From bytes to steps -/

/-- Words written out from R193 to R206, field by field, and the operations they stand for: compact add, movi, and store;
wide fadd and a guarded add; escapes of a guarded compare, a fetching atomic, and a copy.fill. -/
def Obligations.OpWords : Prop :=
  decodeOp (beBytes 4 (0#1 ++ 0x00#7 ++ 3#6 ++ 1#6 ++ 2#6 ++ 0#6 : BitVec 32).toNat) = .op (.addS32Compact 3 1 2) [] ∧
  decodeOp (beBytes 4 (0#1 ++ 0x48#7 ++ 7#6 ++ 0x3FFFE#18 : BitVec 32).toNat) = .op (.moviCompact 7 0x3FFFE#18) [] ∧
  decodeOp (beBytes 4 (0#1 ++ 0x53#7 ++ 4#6 ++ 9#6 ++ 0x010#12 : BitVec 32).toNat) = .op (.stSpImmCompact 4 9 0x010#12) [] ∧
  decodeOp (beBytes 8 (0b100#3 ++ 0x140#10 ++ 2#3 ++ 0#1 ++ 0#3 ++ 0x0A#8 ++ 0x0B#8 ++ 0x0C#8 ++ 0xD0#8 ++ 0x100#12 : BitVec 64).toNat) =
    .op (.fadd ⟨false, 0, 2, .v 10, .v 11, .v 12, .zero, 0x100#12, 0⟩) [] ∧
  decodeOp (beBytes 8 (0b101#3 ++ 0x040#10 ++ 1#3 ++ 1#1 ++ 2#3 ++ 0x05#8 ++ 0x06#8 ++ 0xFFFF#16 ++ 0x000#12 : BitVec 64).toNat) =
    .op (.add ⟨true, 2, 1, .v 5, .v 6, .imm, .zero, 0x000#12, 0xFFFFFFFF#32⟩) [] ∧
  decodeOp (0xE8#8 :: beBytes 12 (0x0C3#10 ++ 0#3 ++ 1#1 ++ 2#3 ++ 0xC3#8 ++ 0x01#8 ++ 0xD1#8 ++ 0xD0#8 ++ 0#3 ++ 0x020#12 ++ 100#32 : BitVec 96).toNat) =
    .op (.cmp ⟨true, 2, 0, .p 3, .v 1, .imm, .zero, 0x020#12, 100⟩) [] ∧
  decodeOp (0xE8#8 :: beBytes 12 (0x1C4#10 ++ 4#3 ++ 0#1 ++ 0#3 ++ 0x02#8 ++ 0x04#8 ++ 0x06#8 ++ 0xD0#8 ++ 0#3 ++ 0x01A#12 ++ 0#32 : BitVec 96).toNat) =
    .op (.atom ⟨false, 0, 4, .v 2, .v 4, .v 6, .zero, 0x01A#12, 0⟩) [] ∧
  decodeOp (0xE8#8 :: beBytes 12 (0x202#10 ++ 0#3 ++ 0#1 ++ 0#3 ++ 0xD0#8 ++ 0x84#8 ++ 0xD0#8 ++ 0xD0#8 ++ 0#3 ++ 0x005#12 ++ 0#32 : BitVec 96).toNat) =
    .op (.copyFill ⟨false, 0, 0, .zero, .g 4, .zero, .zero, 0x005#12, 0⟩) []

/-- Where a lane is the only thing that can move and one front issues, a step is the meaning of the operation that the bytes
at the front's position decode to, on the state with the pass opened (the turn begun, the lane taken), and then the pass
closed (R14, R31, R46). -/
def Obligations.StepRunsDecoded : Prop :=
  ∀ (s : State) (cl co lane : Nat) (p : Plan) (g : Group) (t : Thread) (img : Image) (o : OpLoc) (ins : Instr) (rest : List Byte) (f : Nat × Nat × Ops),
    let c := s.core cl co
    s.candidates = [.lane cl co lane] → s.lanePlan c lane = some p → p.two = none → c.group? p.gs = some g →
    (c.frontThreads g p.one.1).head? = some t → s.codeOf t t.image = some img → s.opAt img t.path = .ok o →
    let len := (opLength ((s.code img o.off 1).headD 0)).getD 1
    s.codeFault img o.off 1 = none → s.codeFault img o.off len = none → s.codePoison img o.off len = false →
    decodeOp (s.code img o.off len) = .op ins rest → Instr.fields ins = some f → opsFit (s.frameOf t) f.2.2 = true →
    let x := s.freshId.2.openPass cl co lane p
    let ks := c.restSlots p.gs p.one.1
    let i0 := p.issue cl co s.nextId (s.frontFlag c p.gs p.one) p.one ks (s.blockedSlots c p.gs)
    let i := { i0 with peers := x.activeIn i0 p.one.2 ks }
    x.firstPreStop i ks = none →
    p.one.2.opc = f.1 ∧ p.one.2.ops = f.2.2 ∧
    step s = settled s.inputs (match exec ins { x with cur := some i } with
      | .next u => .next (u.closePass cl co lane p.gs [(p.one.2, u.cur.getD i0)])
      | r => r)

/-- A pass of a front of several threads serves them in increasing index: it does for its first thread what the pass of that
thread alone does, and goes on with the others unless that stopped or waits (R46, R54); for register operations. -/
def Obligations.PassInOrder : Prop :=
  ∀ (ins : Instr) (opc m : Nat) (o : Ops) (s : State) (i : Issue) (k : Nat) (l : List Nat), Instr.fields ins = some (opc, m, o) →
    (0x040 ≤ opc ∧ opc < 0x100 ∨ 0x140 ≤ opc ∧ opc < 0x1C0) → opUniform opc o = false → s.cur = some i → i.threads = k :: l →
    (∀ j ∈ i.threads, s.upsetOf i j = none) → Unlogged s i opc o →
    ∃ s1 i1, exec ins { s with cur := some { i with threads := [k] } } = .next s1 ∧ s1.cur = some i1 ∧
      if i1.stop.isSome ∨ i1.wait.isSome then exec ins s = .next { s1 with cur := some { i1 with threads := i.threads } }
      else ∃ s2 i2, exec ins { s1 with cur := some { i1 with threads := l } } = .next s2 ∧ s2.cur = some i2 ∧
        exec ins s = .next { s2 with cur := some { i2 with threads := i.threads } }

/-- Before an operation has any effect, its thread's guard decides (R20, R46): a false guard only retires the thread, a
poisoned one stops the pass with class 19 (R58, R340); a checker mismatch retries the operation in one more cycle, and a
second one stops the pass with class 18 (R56). A word that the field rules refuse stops it with class 1 and its detail (R208), a poisoned source with
class 19 and the source's place and role (R58, R340), a pair or quad that is not aligned with class 3 (R21), each before any effect. -/
def Obligations.GuardsAndMismatches : Prop :=
  ∀ (ins : Instr) (opc m : Nat) (o : Ops) (s : State) (i : Issue) (k : Nat) (c : Core) (g : Group) (t : Thread),
    Instr.fields ins = some (opc, m, o) → (0x040 ≤ opc ∧ opc < 0x100 ∨ 0x140 ≤ opc ∧ opc < 0x200) → opUniform opc o = false →
    s.cur = some i → i.threads = [k] → i.stop = none → i.wait = none → s.slotThread i k = some (c, g, t) →
    let r := sourceRoles opc
    let w := widths opc o
    (guardVal o t = ⟨false, false⟩ →
      Then ins s (fun u => u.cur = some { i with skipped := i.skipped ++ [k] } ∧ ThreadIs u i t.tid (fun x => x = retire t)) ∧
      (Unlogged s i opc o → exec ins s = .next { s.setCore (c.setThread (retire t)) with cur := some { i with skipped := i.skipped ++ [k] } })) ∧
    ((guardVal o t).poison = true → opc < 0x1C8 ∨ 0x1CA < opc → StopsAt ins s i 0x138 k 0 t.path) ∧
    (∀ x, guardVal o t = ⟨true, false⟩ → s.upsetOf i k = some x →
      (x.second = true → opc < 0x1C8 ∨ 0x1CA < opc → x ∉ (s.dropUpset x).upsets ∧
        exec ins s = .next { s.dropUpset x with
          cur := some { i with cycles := i.cycles + (i.feed + 1), stop := some (.trap (0x120 + 4 * x.unit + qualifier i) k 0 t.path) } }) ∧
      (x.second = false → ∀ w, exec ins { s with upsets := s.upsets.filter (· != x) } = .next w → ({ s with upsets := s.upsets.filter (· != x) } : State).upsetOf i k = none →
        ∀ j, w.cur = some j → exec ins s = .next { w with cur := some { j with cycles := j.cycles + 1 } })) ∧
    (guardVal o t = ⟨true, false⟩ → s.upsetOf i k = none →
      (∀ d, ins.detail = some d → StopsAt ins s i (0x10 + d) k 0 t.path) ∧
      (ins.detail = none → opc < 0x1C8 →
        (∀ x, sourcePoison t g o w r.1 r.2.1 r.2.2 = some x → StopsAt ins s i x k 0 t.path) ∧
        (sourcePoison t g o w r.1 r.2.1 r.2.2 = none → (misaligned o.d w.d || misaligned o.a w.a || misaligned o.b w.b || misaligned o.c w.c) = true →
          StopsAt ins s i (0x30 + qualifier i) k 0 t.path)))

/-- What register operations leave as it was, whatever their front (R46): memory and its poison, accesses, commands,
everything of the package beside the core they run on, the other threads of that core but for the front's, and of every
thread and group all but the words and predicates that the operation names as destinations and the position. -/
def Obligations.RegisterFrame : Prop :=
  ∀ (ins : Instr) (opc m : Nat) (o : Ops) (s u : State) (i : Issue), Instr.fields ins = some (opc, m, o) →
    (0x040 ≤ opc ∧ opc < 0x100 ∨ 0x140 ≤ opc ∧ opc < 0x1C0) → s.cur = some i → (∀ k ∈ i.threads, ∀ x, s.upsetOf i k = some x → x.second = false) →
    Unlogged s i opc o → exec ins s = .next u →
    let n := (widths opc o).d
    u.mem = s.mem ∧ u.poison = s.poison ∧ u.accs = s.accs ∧ u.cmds = s.cmds ∧ u.launches = s.launches ∧ u.ctxs = s.ctxs ∧ u.images = s.images ∧
    u.tlb = s.tlb ∧ u.clusters = s.clusters ∧ u.inputs = s.inputs ∧ u.now = s.now ∧
    (∀ cl co, ¬ (cl = i.cl ∧ co = i.co) → u.core cl co = s.core cl co) ∧
    (∀ tid t, s.thread? i.cl i.co tid = some t → ∃ t', u.thread? i.cl i.co tid = some t' ∧
      (t' = t ∨ ∃ k ∈ i.threads, ∃ c g, s.slotThread i k = some (c, g, t)) ∧
      t'.path = t.path ∧ t'.calls = t.calls ∧ t'.wb = t.wb ∧ t'.frame = t.frame ∧ t'.level = t.level ∧ t'.image = t.image ∧ t'.trips = t.trips ∧
      (∀ w, (∀ r : Fin 128, o.d = .v r → w < t.wb + r.val ∨ t.wb + r.val + n ≤ w) → assocGet ⟨0, false⟩ t'.stk w = assocGet ⟨0, false⟩ t.stk w) ∧
      (∀ r : Fin 8, o.d ≠ .p r → o.c ≠ .p r → t'.p_ r.val = t.p_ r.val)) ∧
    (∀ gs g, (s.core i.cl i.co).group? gs = some g → ∃ g', (u.core i.cl i.co).group? gs = some g' ∧ (gs ≠ i.gs → g' = g) ∧
      g'.members = g.members ∧ g'.fronts = g.fronts ∧ g'.exch = g.exch ∧ g'.pend = g.pend ∧
      (∀ r, (∀ x : Fin 64, o.d = .g x → r < x.val ∨ x.val + n ≤ r) → g'.gReg r = g.gReg r) ∧ (∀ r : Fin 4, o.d ≠ .q r → o.c ≠ .q r → g'.qReg r.val = g.qReg r.val))


/-! ### Reset -/

/-- What reset leaves (R110, R154, R365, R388, R392): no program, memory with nothing listed, generations 1, cells zero, the
policy's reset word, the power limit of 5.0 kW; nothing is served before bring-up. -/
def Obligations.ResetState : Prop :=
  State.reset.mem = [] ∧ State.reset.poison = [] ∧ State.reset.images = [] ∧ State.reset.launches = [] ∧ (∀ cl co, (State.reset.core cl co).gen = 1 ∧ (State.reset.core cl co).block = none ∧
    (State.reset.core cl co).threads = [] ∧ ∀ n, (State.reset.core cl co).cell n = { done := 0, err := 0, pend := 0, epoch := 0 }) ∧
  State.reset.pkg.up = false ∧ State.reset.pkg.parts = none ∧ State.reset.pkg.powerW = 5000 ∧
  (State.reset.pkg.policy.extractLsb' 32 8 = 4#8 ∧ State.reset.pkg.policy.extractLsb' 17 1 = 1#1 ∧ State.reset.pkg.policy.extractLsb' 16 1 = 1#1 ∧
    State.reset.pkg.policy.extractLsb' 8 8 = 10#8 ∧ State.reset.pkg.policy.extractLsb' 0 8 = 24#8 ∧ State.reset.pkg.policy.extractLsb' 40 24 = 0#24 ∧
    State.reset.pkg.policy.extractLsb' 18 14 = 0#14)

/-- Until bring-up has ended, and while the package is held in reset, nothing but what starts it up moves the machine: without an
input a step is the clock's alone, and every other input changes nothing (R388, R393). -/
def Obligations.BeforeBringUp : Prop :=
  ∀ s : State, s.pkg.up = false ∨ s.pkg.held = true →
    (s.inputs = [] → ∃ u, step s = .next u ∧ u.now = s.now + 1 ∧ u.mem = s.mem ∧ u.pkg = s.pkg ∧ u.accs = s.accs ∧ u.cmds = s.cmds ∧ u.launches = s.launches) ∧
    (∀ i rest, s.inputs = i :: rest → step s = s.take (.input i) ∧ (i.startsUp = false → step s = .next { s with inputs := rest }))

/-- The invariant of SettledKept holds after reset, and reset's memory has the canonical form. -/
def Obligations.SettledAtReset : Prop :=
  State.reset.settledInv ∧ State.reset.memOk

/-- Between steps no issue is under way and only what the outside may do waits to come in: every step from such a state,
whatever it holds, keeps it so and never stops the machine with a fault, and a step from a memory in its canonical form leaves it so (the form of
the model's step and memory; R46, log entries 1 and 5). -/
def Obligations.SettledKept : Prop :=
  ∀ s : State, s.settledInv → (∀ f, step s ≠ .fault f) ∧ ∀ u, step s = .next u → u.settledInv ∧ (u.inputs = s.inputs ∨ u.inputs = s.inputs.drop 1) ∧ (s.memOk → u.memOk)
end

