-- ==== Sys2Proof/Laws/State.lean ====
section
/-! SUPPORT. What each named update of State leaves in every field: one lemma per field per update, true by rfl. -/

namespace Sys2Proof.Machine

variable (s : State)

/-! ### setCore -/
@[simp] theorem State.setCore_upsets (c : Core) : (s.setCore c).upsets = s.upsets := rfl
@[simp] theorem State.setCore_engUpsets (c : Core) : (s.setCore c).engUpsets = s.engUpsets := rfl
@[simp] theorem State.setCore_inputs (c : Core) : (s.setCore c).inputs = s.inputs := rfl
@[simp] theorem State.setCore_oracle (c : Core) : (s.setCore c).oracle = s.oracle := rfl
@[simp] theorem State.setCore_tick (c : Core) : (s.setCore c).tick = s.tick := rfl
@[simp] theorem State.setCore_now (c : Core) : (s.setCore c).now = s.now := rfl
@[simp] theorem State.setCore_nextId (c : Core) : (s.setCore c).nextId = s.nextId := rfl
@[simp] theorem State.setCore_cur (c : Core) : (s.setCore c).cur = s.cur := rfl
@[simp] theorem State.setCore_outputs (c : Core) : (s.setCore c).outputs = s.outputs := rfl
@[simp] theorem State.setCore_pkg (c : Core) : (s.setCore c).pkg = s.pkg := rfl
@[simp] theorem State.setCore_parts (c : Core) : (s.setCore c).parts = s.parts := rfl
@[simp] theorem State.setCore_ctxs (c : Core) : (s.setCore c).ctxs = s.ctxs := rfl
@[simp] theorem State.setCore_images (c : Core) : (s.setCore c).images = s.images := rfl
@[simp] theorem State.setCore_launches (c : Core) : (s.setCore c).launches = s.launches := rfl
@[simp] theorem State.setCore_loads (c : Core) : (s.setCore c).loads = s.loads := rfl
@[simp] theorem State.setCore_clusters (c : Core) : (s.setCore c).clusters = s.clusters := rfl
@[simp] theorem State.setCore_accs (c : Core) : (s.setCore c).accs = s.accs := rfl
@[simp] theorem State.setCore_longs (c : Core) : (s.setCore c).longs = s.longs := rfl
@[simp] theorem State.setCore_cmds (c : Core) : (s.setCore c).cmds = s.cmds := rfl
@[simp] theorem State.setCore_stalls (c : Core) : (s.setCore c).stalls = s.stalls := rfl
@[simp] theorem State.setCore_tlb (c : Core) : (s.setCore c).tlb = s.tlb := rfl
@[simp] theorem State.setCore_walks (c : Core) : (s.setCore c).walks = s.walks := rfl
@[simp] theorem State.setCore_mailboxes (c : Core) : (s.setCore c).mailboxes = s.mailboxes := rfl
@[simp] theorem State.setCore_spdm (c : Core) : (s.setCore c).spdm = s.spdm := rfl
@[simp] theorem State.setCore_sessions (c : Core) : (s.setCore c).sessions = s.sessions := rfl
@[simp] theorem State.setCore_lateLogs (c : Core) : (s.setCore c).lateLogs = s.lateLogs := rfl
@[simp] theorem State.setCore_mem (c : Core) : (s.setCore c).mem = s.mem := rfl
@[simp] theorem State.setCore_poison (c : Core) : (s.setCore c).poison = s.poison := rfl

/-! ### onCore -/
@[simp] theorem State.onCore_upsets (cl co : Nat) (f : Core → Core) : (s.onCore cl co f).upsets = s.upsets := rfl
@[simp] theorem State.onCore_engUpsets (cl co : Nat) (f : Core → Core) : (s.onCore cl co f).engUpsets = s.engUpsets := rfl
@[simp] theorem State.onCore_inputs (cl co : Nat) (f : Core → Core) : (s.onCore cl co f).inputs = s.inputs := rfl
@[simp] theorem State.onCore_oracle (cl co : Nat) (f : Core → Core) : (s.onCore cl co f).oracle = s.oracle := rfl
@[simp] theorem State.onCore_tick (cl co : Nat) (f : Core → Core) : (s.onCore cl co f).tick = s.tick := rfl
@[simp] theorem State.onCore_now (cl co : Nat) (f : Core → Core) : (s.onCore cl co f).now = s.now := rfl
@[simp] theorem State.onCore_nextId (cl co : Nat) (f : Core → Core) : (s.onCore cl co f).nextId = s.nextId := rfl
@[simp] theorem State.onCore_cur (cl co : Nat) (f : Core → Core) : (s.onCore cl co f).cur = s.cur := rfl
@[simp] theorem State.onCore_outputs (cl co : Nat) (f : Core → Core) : (s.onCore cl co f).outputs = s.outputs := rfl
@[simp] theorem State.onCore_pkg (cl co : Nat) (f : Core → Core) : (s.onCore cl co f).pkg = s.pkg := rfl
@[simp] theorem State.onCore_parts (cl co : Nat) (f : Core → Core) : (s.onCore cl co f).parts = s.parts := rfl
@[simp] theorem State.onCore_ctxs (cl co : Nat) (f : Core → Core) : (s.onCore cl co f).ctxs = s.ctxs := rfl
@[simp] theorem State.onCore_images (cl co : Nat) (f : Core → Core) : (s.onCore cl co f).images = s.images := rfl
@[simp] theorem State.onCore_launches (cl co : Nat) (f : Core → Core) : (s.onCore cl co f).launches = s.launches := rfl
@[simp] theorem State.onCore_loads (cl co : Nat) (f : Core → Core) : (s.onCore cl co f).loads = s.loads := rfl
@[simp] theorem State.onCore_clusters (cl co : Nat) (f : Core → Core) : (s.onCore cl co f).clusters = s.clusters := rfl
@[simp] theorem State.onCore_accs (cl co : Nat) (f : Core → Core) : (s.onCore cl co f).accs = s.accs := rfl
@[simp] theorem State.onCore_longs (cl co : Nat) (f : Core → Core) : (s.onCore cl co f).longs = s.longs := rfl
@[simp] theorem State.onCore_cmds (cl co : Nat) (f : Core → Core) : (s.onCore cl co f).cmds = s.cmds := rfl
@[simp] theorem State.onCore_stalls (cl co : Nat) (f : Core → Core) : (s.onCore cl co f).stalls = s.stalls := rfl
@[simp] theorem State.onCore_tlb (cl co : Nat) (f : Core → Core) : (s.onCore cl co f).tlb = s.tlb := rfl
@[simp] theorem State.onCore_walks (cl co : Nat) (f : Core → Core) : (s.onCore cl co f).walks = s.walks := rfl
@[simp] theorem State.onCore_mailboxes (cl co : Nat) (f : Core → Core) : (s.onCore cl co f).mailboxes = s.mailboxes := rfl
@[simp] theorem State.onCore_spdm (cl co : Nat) (f : Core → Core) : (s.onCore cl co f).spdm = s.spdm := rfl
@[simp] theorem State.onCore_sessions (cl co : Nat) (f : Core → Core) : (s.onCore cl co f).sessions = s.sessions := rfl
@[simp] theorem State.onCore_lateLogs (cl co : Nat) (f : Core → Core) : (s.onCore cl co f).lateLogs = s.lateLogs := rfl
@[simp] theorem State.onCore_mem (cl co : Nat) (f : Core → Core) : (s.onCore cl co f).mem = s.mem := rfl
@[simp] theorem State.onCore_poison (cl co : Nat) (f : Core → Core) : (s.onCore cl co f).poison = s.poison := rfl

/-! ### onThread -/
@[simp] theorem State.onThread_upsets (cl co t : Nat) (f : Thread → Thread) : (s.onThread cl co t f).upsets = s.upsets := rfl
@[simp] theorem State.onThread_engUpsets (cl co t : Nat) (f : Thread → Thread) : (s.onThread cl co t f).engUpsets = s.engUpsets := rfl
@[simp] theorem State.onThread_inputs (cl co t : Nat) (f : Thread → Thread) : (s.onThread cl co t f).inputs = s.inputs := rfl
@[simp] theorem State.onThread_oracle (cl co t : Nat) (f : Thread → Thread) : (s.onThread cl co t f).oracle = s.oracle := rfl
@[simp] theorem State.onThread_tick (cl co t : Nat) (f : Thread → Thread) : (s.onThread cl co t f).tick = s.tick := rfl
@[simp] theorem State.onThread_now (cl co t : Nat) (f : Thread → Thread) : (s.onThread cl co t f).now = s.now := rfl
@[simp] theorem State.onThread_nextId (cl co t : Nat) (f : Thread → Thread) : (s.onThread cl co t f).nextId = s.nextId := rfl
@[simp] theorem State.onThread_cur (cl co t : Nat) (f : Thread → Thread) : (s.onThread cl co t f).cur = s.cur := rfl
@[simp] theorem State.onThread_outputs (cl co t : Nat) (f : Thread → Thread) : (s.onThread cl co t f).outputs = s.outputs := rfl
@[simp] theorem State.onThread_pkg (cl co t : Nat) (f : Thread → Thread) : (s.onThread cl co t f).pkg = s.pkg := rfl
@[simp] theorem State.onThread_parts (cl co t : Nat) (f : Thread → Thread) : (s.onThread cl co t f).parts = s.parts := rfl
@[simp] theorem State.onThread_ctxs (cl co t : Nat) (f : Thread → Thread) : (s.onThread cl co t f).ctxs = s.ctxs := rfl
@[simp] theorem State.onThread_images (cl co t : Nat) (f : Thread → Thread) : (s.onThread cl co t f).images = s.images := rfl
@[simp] theorem State.onThread_launches (cl co t : Nat) (f : Thread → Thread) : (s.onThread cl co t f).launches = s.launches := rfl
@[simp] theorem State.onThread_loads (cl co t : Nat) (f : Thread → Thread) : (s.onThread cl co t f).loads = s.loads := rfl
@[simp] theorem State.onThread_clusters (cl co t : Nat) (f : Thread → Thread) : (s.onThread cl co t f).clusters = s.clusters := rfl
@[simp] theorem State.onThread_accs (cl co t : Nat) (f : Thread → Thread) : (s.onThread cl co t f).accs = s.accs := rfl
@[simp] theorem State.onThread_longs (cl co t : Nat) (f : Thread → Thread) : (s.onThread cl co t f).longs = s.longs := rfl
@[simp] theorem State.onThread_cmds (cl co t : Nat) (f : Thread → Thread) : (s.onThread cl co t f).cmds = s.cmds := rfl
@[simp] theorem State.onThread_stalls (cl co t : Nat) (f : Thread → Thread) : (s.onThread cl co t f).stalls = s.stalls := rfl
@[simp] theorem State.onThread_tlb (cl co t : Nat) (f : Thread → Thread) : (s.onThread cl co t f).tlb = s.tlb := rfl
@[simp] theorem State.onThread_walks (cl co t : Nat) (f : Thread → Thread) : (s.onThread cl co t f).walks = s.walks := rfl
@[simp] theorem State.onThread_mailboxes (cl co t : Nat) (f : Thread → Thread) : (s.onThread cl co t f).mailboxes = s.mailboxes := rfl
@[simp] theorem State.onThread_spdm (cl co t : Nat) (f : Thread → Thread) : (s.onThread cl co t f).spdm = s.spdm := rfl
@[simp] theorem State.onThread_sessions (cl co t : Nat) (f : Thread → Thread) : (s.onThread cl co t f).sessions = s.sessions := rfl
@[simp] theorem State.onThread_lateLogs (cl co t : Nat) (f : Thread → Thread) : (s.onThread cl co t f).lateLogs = s.lateLogs := rfl
@[simp] theorem State.onThread_mem (cl co t : Nat) (f : Thread → Thread) : (s.onThread cl co t f).mem = s.mem := rfl
@[simp] theorem State.onThread_poison (cl co t : Nat) (f : Thread → Thread) : (s.onThread cl co t f).poison = s.poison := rfl

/-! ### onGroup -/
@[simp] theorem State.onGroup_upsets (cl co gs : Nat) (f : Group → Group) : (s.onGroup cl co gs f).upsets = s.upsets := rfl
@[simp] theorem State.onGroup_engUpsets (cl co gs : Nat) (f : Group → Group) : (s.onGroup cl co gs f).engUpsets = s.engUpsets := rfl
@[simp] theorem State.onGroup_inputs (cl co gs : Nat) (f : Group → Group) : (s.onGroup cl co gs f).inputs = s.inputs := rfl
@[simp] theorem State.onGroup_oracle (cl co gs : Nat) (f : Group → Group) : (s.onGroup cl co gs f).oracle = s.oracle := rfl
@[simp] theorem State.onGroup_tick (cl co gs : Nat) (f : Group → Group) : (s.onGroup cl co gs f).tick = s.tick := rfl
@[simp] theorem State.onGroup_now (cl co gs : Nat) (f : Group → Group) : (s.onGroup cl co gs f).now = s.now := rfl
@[simp] theorem State.onGroup_nextId (cl co gs : Nat) (f : Group → Group) : (s.onGroup cl co gs f).nextId = s.nextId := rfl
@[simp] theorem State.onGroup_cur (cl co gs : Nat) (f : Group → Group) : (s.onGroup cl co gs f).cur = s.cur := rfl
@[simp] theorem State.onGroup_outputs (cl co gs : Nat) (f : Group → Group) : (s.onGroup cl co gs f).outputs = s.outputs := rfl
@[simp] theorem State.onGroup_pkg (cl co gs : Nat) (f : Group → Group) : (s.onGroup cl co gs f).pkg = s.pkg := rfl
@[simp] theorem State.onGroup_parts (cl co gs : Nat) (f : Group → Group) : (s.onGroup cl co gs f).parts = s.parts := rfl
@[simp] theorem State.onGroup_ctxs (cl co gs : Nat) (f : Group → Group) : (s.onGroup cl co gs f).ctxs = s.ctxs := rfl
@[simp] theorem State.onGroup_images (cl co gs : Nat) (f : Group → Group) : (s.onGroup cl co gs f).images = s.images := rfl
@[simp] theorem State.onGroup_launches (cl co gs : Nat) (f : Group → Group) : (s.onGroup cl co gs f).launches = s.launches := rfl
@[simp] theorem State.onGroup_loads (cl co gs : Nat) (f : Group → Group) : (s.onGroup cl co gs f).loads = s.loads := rfl
@[simp] theorem State.onGroup_clusters (cl co gs : Nat) (f : Group → Group) : (s.onGroup cl co gs f).clusters = s.clusters := rfl
@[simp] theorem State.onGroup_accs (cl co gs : Nat) (f : Group → Group) : (s.onGroup cl co gs f).accs = s.accs := rfl
@[simp] theorem State.onGroup_longs (cl co gs : Nat) (f : Group → Group) : (s.onGroup cl co gs f).longs = s.longs := rfl
@[simp] theorem State.onGroup_cmds (cl co gs : Nat) (f : Group → Group) : (s.onGroup cl co gs f).cmds = s.cmds := rfl
@[simp] theorem State.onGroup_stalls (cl co gs : Nat) (f : Group → Group) : (s.onGroup cl co gs f).stalls = s.stalls := rfl
@[simp] theorem State.onGroup_tlb (cl co gs : Nat) (f : Group → Group) : (s.onGroup cl co gs f).tlb = s.tlb := rfl
@[simp] theorem State.onGroup_walks (cl co gs : Nat) (f : Group → Group) : (s.onGroup cl co gs f).walks = s.walks := rfl
@[simp] theorem State.onGroup_mailboxes (cl co gs : Nat) (f : Group → Group) : (s.onGroup cl co gs f).mailboxes = s.mailboxes := rfl
@[simp] theorem State.onGroup_spdm (cl co gs : Nat) (f : Group → Group) : (s.onGroup cl co gs f).spdm = s.spdm := rfl
@[simp] theorem State.onGroup_sessions (cl co gs : Nat) (f : Group → Group) : (s.onGroup cl co gs f).sessions = s.sessions := rfl
@[simp] theorem State.onGroup_lateLogs (cl co gs : Nat) (f : Group → Group) : (s.onGroup cl co gs f).lateLogs = s.lateLogs := rfl
@[simp] theorem State.onGroup_mem (cl co gs : Nat) (f : Group → Group) : (s.onGroup cl co gs f).mem = s.mem := rfl
@[simp] theorem State.onGroup_poison (cl co gs : Nat) (f : Group → Group) : (s.onGroup cl co gs f).poison = s.poison := rfl

/-! ### setCluster -/
@[simp] theorem State.setCluster_upsets (c : Cluster) : (s.setCluster c).upsets = s.upsets := rfl
@[simp] theorem State.setCluster_engUpsets (c : Cluster) : (s.setCluster c).engUpsets = s.engUpsets := rfl
@[simp] theorem State.setCluster_inputs (c : Cluster) : (s.setCluster c).inputs = s.inputs := rfl
@[simp] theorem State.setCluster_oracle (c : Cluster) : (s.setCluster c).oracle = s.oracle := rfl
@[simp] theorem State.setCluster_tick (c : Cluster) : (s.setCluster c).tick = s.tick := rfl
@[simp] theorem State.setCluster_now (c : Cluster) : (s.setCluster c).now = s.now := rfl
@[simp] theorem State.setCluster_nextId (c : Cluster) : (s.setCluster c).nextId = s.nextId := rfl
@[simp] theorem State.setCluster_cur (c : Cluster) : (s.setCluster c).cur = s.cur := rfl
@[simp] theorem State.setCluster_outputs (c : Cluster) : (s.setCluster c).outputs = s.outputs := rfl
@[simp] theorem State.setCluster_pkg (c : Cluster) : (s.setCluster c).pkg = s.pkg := rfl
@[simp] theorem State.setCluster_parts (c : Cluster) : (s.setCluster c).parts = s.parts := rfl
@[simp] theorem State.setCluster_ctxs (c : Cluster) : (s.setCluster c).ctxs = s.ctxs := rfl
@[simp] theorem State.setCluster_images (c : Cluster) : (s.setCluster c).images = s.images := rfl
@[simp] theorem State.setCluster_launches (c : Cluster) : (s.setCluster c).launches = s.launches := rfl
@[simp] theorem State.setCluster_loads (c : Cluster) : (s.setCluster c).loads = s.loads := rfl
@[simp] theorem State.setCluster_cores (c : Cluster) : (s.setCluster c).cores = s.cores := rfl
@[simp] theorem State.setCluster_accs (c : Cluster) : (s.setCluster c).accs = s.accs := rfl
@[simp] theorem State.setCluster_longs (c : Cluster) : (s.setCluster c).longs = s.longs := rfl
@[simp] theorem State.setCluster_cmds (c : Cluster) : (s.setCluster c).cmds = s.cmds := rfl
@[simp] theorem State.setCluster_stalls (c : Cluster) : (s.setCluster c).stalls = s.stalls := rfl
@[simp] theorem State.setCluster_tlb (c : Cluster) : (s.setCluster c).tlb = s.tlb := rfl
@[simp] theorem State.setCluster_walks (c : Cluster) : (s.setCluster c).walks = s.walks := rfl
@[simp] theorem State.setCluster_mailboxes (c : Cluster) : (s.setCluster c).mailboxes = s.mailboxes := rfl
@[simp] theorem State.setCluster_spdm (c : Cluster) : (s.setCluster c).spdm = s.spdm := rfl
@[simp] theorem State.setCluster_sessions (c : Cluster) : (s.setCluster c).sessions = s.sessions := rfl
@[simp] theorem State.setCluster_lateLogs (c : Cluster) : (s.setCluster c).lateLogs = s.lateLogs := rfl
@[simp] theorem State.setCluster_mem (c : Cluster) : (s.setCluster c).mem = s.mem := rfl
@[simp] theorem State.setCluster_poison (c : Cluster) : (s.setCluster c).poison = s.poison := rfl

/-! ### onLaunch -/
@[simp] theorem State.onLaunch_upsets (n : Nat) (f : Launch → Launch) : (s.onLaunch n f).upsets = s.upsets := rfl
@[simp] theorem State.onLaunch_engUpsets (n : Nat) (f : Launch → Launch) : (s.onLaunch n f).engUpsets = s.engUpsets := rfl
@[simp] theorem State.onLaunch_inputs (n : Nat) (f : Launch → Launch) : (s.onLaunch n f).inputs = s.inputs := rfl
@[simp] theorem State.onLaunch_oracle (n : Nat) (f : Launch → Launch) : (s.onLaunch n f).oracle = s.oracle := rfl
@[simp] theorem State.onLaunch_tick (n : Nat) (f : Launch → Launch) : (s.onLaunch n f).tick = s.tick := rfl
@[simp] theorem State.onLaunch_now (n : Nat) (f : Launch → Launch) : (s.onLaunch n f).now = s.now := rfl
@[simp] theorem State.onLaunch_nextId (n : Nat) (f : Launch → Launch) : (s.onLaunch n f).nextId = s.nextId := rfl
@[simp] theorem State.onLaunch_cur (n : Nat) (f : Launch → Launch) : (s.onLaunch n f).cur = s.cur := rfl
@[simp] theorem State.onLaunch_outputs (n : Nat) (f : Launch → Launch) : (s.onLaunch n f).outputs = s.outputs := rfl
@[simp] theorem State.onLaunch_pkg (n : Nat) (f : Launch → Launch) : (s.onLaunch n f).pkg = s.pkg := rfl
@[simp] theorem State.onLaunch_parts (n : Nat) (f : Launch → Launch) : (s.onLaunch n f).parts = s.parts := rfl
@[simp] theorem State.onLaunch_ctxs (n : Nat) (f : Launch → Launch) : (s.onLaunch n f).ctxs = s.ctxs := rfl
@[simp] theorem State.onLaunch_images (n : Nat) (f : Launch → Launch) : (s.onLaunch n f).images = s.images := rfl
@[simp] theorem State.onLaunch_loads (n : Nat) (f : Launch → Launch) : (s.onLaunch n f).loads = s.loads := rfl
@[simp] theorem State.onLaunch_clusters (n : Nat) (f : Launch → Launch) : (s.onLaunch n f).clusters = s.clusters := rfl
@[simp] theorem State.onLaunch_cores (n : Nat) (f : Launch → Launch) : (s.onLaunch n f).cores = s.cores := rfl
@[simp] theorem State.onLaunch_accs (n : Nat) (f : Launch → Launch) : (s.onLaunch n f).accs = s.accs := rfl
@[simp] theorem State.onLaunch_longs (n : Nat) (f : Launch → Launch) : (s.onLaunch n f).longs = s.longs := rfl
@[simp] theorem State.onLaunch_cmds (n : Nat) (f : Launch → Launch) : (s.onLaunch n f).cmds = s.cmds := rfl
@[simp] theorem State.onLaunch_stalls (n : Nat) (f : Launch → Launch) : (s.onLaunch n f).stalls = s.stalls := rfl
@[simp] theorem State.onLaunch_tlb (n : Nat) (f : Launch → Launch) : (s.onLaunch n f).tlb = s.tlb := rfl
@[simp] theorem State.onLaunch_walks (n : Nat) (f : Launch → Launch) : (s.onLaunch n f).walks = s.walks := rfl
@[simp] theorem State.onLaunch_mailboxes (n : Nat) (f : Launch → Launch) : (s.onLaunch n f).mailboxes = s.mailboxes := rfl
@[simp] theorem State.onLaunch_spdm (n : Nat) (f : Launch → Launch) : (s.onLaunch n f).spdm = s.spdm := rfl
@[simp] theorem State.onLaunch_sessions (n : Nat) (f : Launch → Launch) : (s.onLaunch n f).sessions = s.sessions := rfl
@[simp] theorem State.onLaunch_lateLogs (n : Nat) (f : Launch → Launch) : (s.onLaunch n f).lateLogs = s.lateLogs := rfl
@[simp] theorem State.onLaunch_mem (n : Nat) (f : Launch → Launch) : (s.onLaunch n f).mem = s.mem := rfl
@[simp] theorem State.onLaunch_poison (n : Nat) (f : Launch → Launch) : (s.onLaunch n f).poison = s.poison := rfl

/-! ### onCtx -/
@[simp] theorem State.onCtx_upsets (n : Nat) (f : Context → Context) : (s.onCtx n f).upsets = s.upsets := rfl
@[simp] theorem State.onCtx_engUpsets (n : Nat) (f : Context → Context) : (s.onCtx n f).engUpsets = s.engUpsets := rfl
@[simp] theorem State.onCtx_inputs (n : Nat) (f : Context → Context) : (s.onCtx n f).inputs = s.inputs := rfl
@[simp] theorem State.onCtx_oracle (n : Nat) (f : Context → Context) : (s.onCtx n f).oracle = s.oracle := rfl
@[simp] theorem State.onCtx_tick (n : Nat) (f : Context → Context) : (s.onCtx n f).tick = s.tick := rfl
@[simp] theorem State.onCtx_now (n : Nat) (f : Context → Context) : (s.onCtx n f).now = s.now := rfl
@[simp] theorem State.onCtx_nextId (n : Nat) (f : Context → Context) : (s.onCtx n f).nextId = s.nextId := rfl
@[simp] theorem State.onCtx_cur (n : Nat) (f : Context → Context) : (s.onCtx n f).cur = s.cur := rfl
@[simp] theorem State.onCtx_outputs (n : Nat) (f : Context → Context) : (s.onCtx n f).outputs = s.outputs := rfl
@[simp] theorem State.onCtx_pkg (n : Nat) (f : Context → Context) : (s.onCtx n f).pkg = s.pkg := rfl
@[simp] theorem State.onCtx_parts (n : Nat) (f : Context → Context) : (s.onCtx n f).parts = s.parts := rfl
@[simp] theorem State.onCtx_images (n : Nat) (f : Context → Context) : (s.onCtx n f).images = s.images := rfl
@[simp] theorem State.onCtx_launches (n : Nat) (f : Context → Context) : (s.onCtx n f).launches = s.launches := rfl
@[simp] theorem State.onCtx_loads (n : Nat) (f : Context → Context) : (s.onCtx n f).loads = s.loads := rfl
@[simp] theorem State.onCtx_clusters (n : Nat) (f : Context → Context) : (s.onCtx n f).clusters = s.clusters := rfl
@[simp] theorem State.onCtx_cores (n : Nat) (f : Context → Context) : (s.onCtx n f).cores = s.cores := rfl
@[simp] theorem State.onCtx_accs (n : Nat) (f : Context → Context) : (s.onCtx n f).accs = s.accs := rfl
@[simp] theorem State.onCtx_longs (n : Nat) (f : Context → Context) : (s.onCtx n f).longs = s.longs := rfl
@[simp] theorem State.onCtx_cmds (n : Nat) (f : Context → Context) : (s.onCtx n f).cmds = s.cmds := rfl
@[simp] theorem State.onCtx_stalls (n : Nat) (f : Context → Context) : (s.onCtx n f).stalls = s.stalls := rfl
@[simp] theorem State.onCtx_tlb (n : Nat) (f : Context → Context) : (s.onCtx n f).tlb = s.tlb := rfl
@[simp] theorem State.onCtx_walks (n : Nat) (f : Context → Context) : (s.onCtx n f).walks = s.walks := rfl
@[simp] theorem State.onCtx_mailboxes (n : Nat) (f : Context → Context) : (s.onCtx n f).mailboxes = s.mailboxes := rfl
@[simp] theorem State.onCtx_spdm (n : Nat) (f : Context → Context) : (s.onCtx n f).spdm = s.spdm := rfl
@[simp] theorem State.onCtx_sessions (n : Nat) (f : Context → Context) : (s.onCtx n f).sessions = s.sessions := rfl
@[simp] theorem State.onCtx_lateLogs (n : Nat) (f : Context → Context) : (s.onCtx n f).lateLogs = s.lateLogs := rfl
@[simp] theorem State.onCtx_mem (n : Nat) (f : Context → Context) : (s.onCtx n f).mem = s.mem := rfl
@[simp] theorem State.onCtx_poison (n : Nat) (f : Context → Context) : (s.onCtx n f).poison = s.poison := rfl

/-! ### onPart -/
@[simp] theorem State.onPart_upsets (n : Nat) (f : Partition → Partition) : (s.onPart n f).upsets = s.upsets := rfl
@[simp] theorem State.onPart_engUpsets (n : Nat) (f : Partition → Partition) : (s.onPart n f).engUpsets = s.engUpsets := rfl
@[simp] theorem State.onPart_inputs (n : Nat) (f : Partition → Partition) : (s.onPart n f).inputs = s.inputs := rfl
@[simp] theorem State.onPart_oracle (n : Nat) (f : Partition → Partition) : (s.onPart n f).oracle = s.oracle := rfl
@[simp] theorem State.onPart_tick (n : Nat) (f : Partition → Partition) : (s.onPart n f).tick = s.tick := rfl
@[simp] theorem State.onPart_now (n : Nat) (f : Partition → Partition) : (s.onPart n f).now = s.now := rfl
@[simp] theorem State.onPart_nextId (n : Nat) (f : Partition → Partition) : (s.onPart n f).nextId = s.nextId := rfl
@[simp] theorem State.onPart_cur (n : Nat) (f : Partition → Partition) : (s.onPart n f).cur = s.cur := rfl
@[simp] theorem State.onPart_outputs (n : Nat) (f : Partition → Partition) : (s.onPart n f).outputs = s.outputs := rfl
@[simp] theorem State.onPart_pkg (n : Nat) (f : Partition → Partition) : (s.onPart n f).pkg = s.pkg := rfl
@[simp] theorem State.onPart_ctxs (n : Nat) (f : Partition → Partition) : (s.onPart n f).ctxs = s.ctxs := rfl
@[simp] theorem State.onPart_images (n : Nat) (f : Partition → Partition) : (s.onPart n f).images = s.images := rfl
@[simp] theorem State.onPart_launches (n : Nat) (f : Partition → Partition) : (s.onPart n f).launches = s.launches := rfl
@[simp] theorem State.onPart_loads (n : Nat) (f : Partition → Partition) : (s.onPart n f).loads = s.loads := rfl
@[simp] theorem State.onPart_clusters (n : Nat) (f : Partition → Partition) : (s.onPart n f).clusters = s.clusters := rfl
@[simp] theorem State.onPart_cores (n : Nat) (f : Partition → Partition) : (s.onPart n f).cores = s.cores := rfl
@[simp] theorem State.onPart_accs (n : Nat) (f : Partition → Partition) : (s.onPart n f).accs = s.accs := rfl
@[simp] theorem State.onPart_longs (n : Nat) (f : Partition → Partition) : (s.onPart n f).longs = s.longs := rfl
@[simp] theorem State.onPart_cmds (n : Nat) (f : Partition → Partition) : (s.onPart n f).cmds = s.cmds := rfl
@[simp] theorem State.onPart_stalls (n : Nat) (f : Partition → Partition) : (s.onPart n f).stalls = s.stalls := rfl
@[simp] theorem State.onPart_tlb (n : Nat) (f : Partition → Partition) : (s.onPart n f).tlb = s.tlb := rfl
@[simp] theorem State.onPart_walks (n : Nat) (f : Partition → Partition) : (s.onPart n f).walks = s.walks := rfl
@[simp] theorem State.onPart_mailboxes (n : Nat) (f : Partition → Partition) : (s.onPart n f).mailboxes = s.mailboxes := rfl
@[simp] theorem State.onPart_spdm (n : Nat) (f : Partition → Partition) : (s.onPart n f).spdm = s.spdm := rfl
@[simp] theorem State.onPart_sessions (n : Nat) (f : Partition → Partition) : (s.onPart n f).sessions = s.sessions := rfl
@[simp] theorem State.onPart_lateLogs (n : Nat) (f : Partition → Partition) : (s.onPart n f).lateLogs = s.lateLogs := rfl
@[simp] theorem State.onPart_mem (n : Nat) (f : Partition → Partition) : (s.onPart n f).mem = s.mem := rfl
@[simp] theorem State.onPart_poison (n : Nat) (f : Partition → Partition) : (s.onPart n f).poison = s.poison := rfl

/-! ### onCmd -/
@[simp] theorem State.onCmd_upsets (n : Nat) (f : Cmd → Cmd) : (s.onCmd n f).upsets = s.upsets := rfl
@[simp] theorem State.onCmd_engUpsets (n : Nat) (f : Cmd → Cmd) : (s.onCmd n f).engUpsets = s.engUpsets := rfl
@[simp] theorem State.onCmd_inputs (n : Nat) (f : Cmd → Cmd) : (s.onCmd n f).inputs = s.inputs := rfl
@[simp] theorem State.onCmd_oracle (n : Nat) (f : Cmd → Cmd) : (s.onCmd n f).oracle = s.oracle := rfl
@[simp] theorem State.onCmd_tick (n : Nat) (f : Cmd → Cmd) : (s.onCmd n f).tick = s.tick := rfl
@[simp] theorem State.onCmd_now (n : Nat) (f : Cmd → Cmd) : (s.onCmd n f).now = s.now := rfl
@[simp] theorem State.onCmd_nextId (n : Nat) (f : Cmd → Cmd) : (s.onCmd n f).nextId = s.nextId := rfl
@[simp] theorem State.onCmd_cur (n : Nat) (f : Cmd → Cmd) : (s.onCmd n f).cur = s.cur := rfl
@[simp] theorem State.onCmd_outputs (n : Nat) (f : Cmd → Cmd) : (s.onCmd n f).outputs = s.outputs := rfl
@[simp] theorem State.onCmd_pkg (n : Nat) (f : Cmd → Cmd) : (s.onCmd n f).pkg = s.pkg := rfl
@[simp] theorem State.onCmd_parts (n : Nat) (f : Cmd → Cmd) : (s.onCmd n f).parts = s.parts := rfl
@[simp] theorem State.onCmd_ctxs (n : Nat) (f : Cmd → Cmd) : (s.onCmd n f).ctxs = s.ctxs := rfl
@[simp] theorem State.onCmd_images (n : Nat) (f : Cmd → Cmd) : (s.onCmd n f).images = s.images := rfl
@[simp] theorem State.onCmd_launches (n : Nat) (f : Cmd → Cmd) : (s.onCmd n f).launches = s.launches := rfl
@[simp] theorem State.onCmd_loads (n : Nat) (f : Cmd → Cmd) : (s.onCmd n f).loads = s.loads := rfl
@[simp] theorem State.onCmd_clusters (n : Nat) (f : Cmd → Cmd) : (s.onCmd n f).clusters = s.clusters := rfl
@[simp] theorem State.onCmd_cores (n : Nat) (f : Cmd → Cmd) : (s.onCmd n f).cores = s.cores := rfl
@[simp] theorem State.onCmd_accs (n : Nat) (f : Cmd → Cmd) : (s.onCmd n f).accs = s.accs := rfl
@[simp] theorem State.onCmd_longs (n : Nat) (f : Cmd → Cmd) : (s.onCmd n f).longs = s.longs := rfl
@[simp] theorem State.onCmd_stalls (n : Nat) (f : Cmd → Cmd) : (s.onCmd n f).stalls = s.stalls := rfl
@[simp] theorem State.onCmd_tlb (n : Nat) (f : Cmd → Cmd) : (s.onCmd n f).tlb = s.tlb := rfl
@[simp] theorem State.onCmd_walks (n : Nat) (f : Cmd → Cmd) : (s.onCmd n f).walks = s.walks := rfl
@[simp] theorem State.onCmd_mailboxes (n : Nat) (f : Cmd → Cmd) : (s.onCmd n f).mailboxes = s.mailboxes := rfl
@[simp] theorem State.onCmd_spdm (n : Nat) (f : Cmd → Cmd) : (s.onCmd n f).spdm = s.spdm := rfl
@[simp] theorem State.onCmd_sessions (n : Nat) (f : Cmd → Cmd) : (s.onCmd n f).sessions = s.sessions := rfl
@[simp] theorem State.onCmd_lateLogs (n : Nat) (f : Cmd → Cmd) : (s.onCmd n f).lateLogs = s.lateLogs := rfl
@[simp] theorem State.onCmd_mem (n : Nat) (f : Cmd → Cmd) : (s.onCmd n f).mem = s.mem := rfl
@[simp] theorem State.onCmd_poison (n : Nat) (f : Cmd → Cmd) : (s.onCmd n f).poison = s.poison := rfl

/-! ### onLong -/
@[simp] theorem State.onLong_upsets (n : Nat) (f : LongOp → LongOp) : (s.onLong n f).upsets = s.upsets := rfl
@[simp] theorem State.onLong_engUpsets (n : Nat) (f : LongOp → LongOp) : (s.onLong n f).engUpsets = s.engUpsets := rfl
@[simp] theorem State.onLong_inputs (n : Nat) (f : LongOp → LongOp) : (s.onLong n f).inputs = s.inputs := rfl
@[simp] theorem State.onLong_oracle (n : Nat) (f : LongOp → LongOp) : (s.onLong n f).oracle = s.oracle := rfl
@[simp] theorem State.onLong_tick (n : Nat) (f : LongOp → LongOp) : (s.onLong n f).tick = s.tick := rfl
@[simp] theorem State.onLong_now (n : Nat) (f : LongOp → LongOp) : (s.onLong n f).now = s.now := rfl
@[simp] theorem State.onLong_nextId (n : Nat) (f : LongOp → LongOp) : (s.onLong n f).nextId = s.nextId := rfl
@[simp] theorem State.onLong_cur (n : Nat) (f : LongOp → LongOp) : (s.onLong n f).cur = s.cur := rfl
@[simp] theorem State.onLong_outputs (n : Nat) (f : LongOp → LongOp) : (s.onLong n f).outputs = s.outputs := rfl
@[simp] theorem State.onLong_pkg (n : Nat) (f : LongOp → LongOp) : (s.onLong n f).pkg = s.pkg := rfl
@[simp] theorem State.onLong_parts (n : Nat) (f : LongOp → LongOp) : (s.onLong n f).parts = s.parts := rfl
@[simp] theorem State.onLong_ctxs (n : Nat) (f : LongOp → LongOp) : (s.onLong n f).ctxs = s.ctxs := rfl
@[simp] theorem State.onLong_images (n : Nat) (f : LongOp → LongOp) : (s.onLong n f).images = s.images := rfl
@[simp] theorem State.onLong_launches (n : Nat) (f : LongOp → LongOp) : (s.onLong n f).launches = s.launches := rfl
@[simp] theorem State.onLong_loads (n : Nat) (f : LongOp → LongOp) : (s.onLong n f).loads = s.loads := rfl
@[simp] theorem State.onLong_clusters (n : Nat) (f : LongOp → LongOp) : (s.onLong n f).clusters = s.clusters := rfl
@[simp] theorem State.onLong_cores (n : Nat) (f : LongOp → LongOp) : (s.onLong n f).cores = s.cores := rfl
@[simp] theorem State.onLong_accs (n : Nat) (f : LongOp → LongOp) : (s.onLong n f).accs = s.accs := rfl
@[simp] theorem State.onLong_cmds (n : Nat) (f : LongOp → LongOp) : (s.onLong n f).cmds = s.cmds := rfl
@[simp] theorem State.onLong_stalls (n : Nat) (f : LongOp → LongOp) : (s.onLong n f).stalls = s.stalls := rfl
@[simp] theorem State.onLong_tlb (n : Nat) (f : LongOp → LongOp) : (s.onLong n f).tlb = s.tlb := rfl
@[simp] theorem State.onLong_walks (n : Nat) (f : LongOp → LongOp) : (s.onLong n f).walks = s.walks := rfl
@[simp] theorem State.onLong_mailboxes (n : Nat) (f : LongOp → LongOp) : (s.onLong n f).mailboxes = s.mailboxes := rfl
@[simp] theorem State.onLong_spdm (n : Nat) (f : LongOp → LongOp) : (s.onLong n f).spdm = s.spdm := rfl
@[simp] theorem State.onLong_sessions (n : Nat) (f : LongOp → LongOp) : (s.onLong n f).sessions = s.sessions := rfl
@[simp] theorem State.onLong_lateLogs (n : Nat) (f : LongOp → LongOp) : (s.onLong n f).lateLogs = s.lateLogs := rfl
@[simp] theorem State.onLong_mem (n : Nat) (f : LongOp → LongOp) : (s.onLong n f).mem = s.mem := rfl
@[simp] theorem State.onLong_poison (n : Nat) (f : LongOp → LongOp) : (s.onLong n f).poison = s.poison := rfl

/-! ### emit -/
@[simp] theorem State.emit_upsets (o : Output) : (s.emit o).upsets = s.upsets := rfl
@[simp] theorem State.emit_engUpsets (o : Output) : (s.emit o).engUpsets = s.engUpsets := rfl
@[simp] theorem State.emit_inputs (o : Output) : (s.emit o).inputs = s.inputs := rfl
@[simp] theorem State.emit_oracle (o : Output) : (s.emit o).oracle = s.oracle := rfl
@[simp] theorem State.emit_tick (o : Output) : (s.emit o).tick = s.tick := rfl
@[simp] theorem State.emit_now (o : Output) : (s.emit o).now = s.now := rfl
@[simp] theorem State.emit_nextId (o : Output) : (s.emit o).nextId = s.nextId := rfl
@[simp] theorem State.emit_cur (o : Output) : (s.emit o).cur = s.cur := rfl
@[simp] theorem State.emit_pkg (o : Output) : (s.emit o).pkg = s.pkg := rfl
@[simp] theorem State.emit_parts (o : Output) : (s.emit o).parts = s.parts := rfl
@[simp] theorem State.emit_ctxs (o : Output) : (s.emit o).ctxs = s.ctxs := rfl
@[simp] theorem State.emit_images (o : Output) : (s.emit o).images = s.images := rfl
@[simp] theorem State.emit_launches (o : Output) : (s.emit o).launches = s.launches := rfl
@[simp] theorem State.emit_loads (o : Output) : (s.emit o).loads = s.loads := rfl
@[simp] theorem State.emit_clusters (o : Output) : (s.emit o).clusters = s.clusters := rfl
@[simp] theorem State.emit_cores (o : Output) : (s.emit o).cores = s.cores := rfl
@[simp] theorem State.emit_accs (o : Output) : (s.emit o).accs = s.accs := rfl
@[simp] theorem State.emit_longs (o : Output) : (s.emit o).longs = s.longs := rfl
@[simp] theorem State.emit_cmds (o : Output) : (s.emit o).cmds = s.cmds := rfl
@[simp] theorem State.emit_stalls (o : Output) : (s.emit o).stalls = s.stalls := rfl
@[simp] theorem State.emit_tlb (o : Output) : (s.emit o).tlb = s.tlb := rfl
@[simp] theorem State.emit_walks (o : Output) : (s.emit o).walks = s.walks := rfl
@[simp] theorem State.emit_mailboxes (o : Output) : (s.emit o).mailboxes = s.mailboxes := rfl
@[simp] theorem State.emit_spdm (o : Output) : (s.emit o).spdm = s.spdm := rfl
@[simp] theorem State.emit_sessions (o : Output) : (s.emit o).sessions = s.sessions := rfl
@[simp] theorem State.emit_lateLogs (o : Output) : (s.emit o).lateLogs = s.lateLogs := rfl
@[simp] theorem State.emit_mem (o : Output) : (s.emit o).mem = s.mem := rfl
@[simp] theorem State.emit_poison (o : Output) : (s.emit o).poison = s.poison := rfl

/-! ### store -/
@[simp] theorem State.store_upsets (a : Nat) (l : List Byte) : (s.store a l).upsets = s.upsets := rfl
@[simp] theorem State.store_engUpsets (a : Nat) (l : List Byte) : (s.store a l).engUpsets = s.engUpsets := rfl
@[simp] theorem State.store_inputs (a : Nat) (l : List Byte) : (s.store a l).inputs = s.inputs := rfl
@[simp] theorem State.store_oracle (a : Nat) (l : List Byte) : (s.store a l).oracle = s.oracle := rfl
@[simp] theorem State.store_tick (a : Nat) (l : List Byte) : (s.store a l).tick = s.tick := rfl
@[simp] theorem State.store_now (a : Nat) (l : List Byte) : (s.store a l).now = s.now := rfl
@[simp] theorem State.store_nextId (a : Nat) (l : List Byte) : (s.store a l).nextId = s.nextId := rfl
@[simp] theorem State.store_cur (a : Nat) (l : List Byte) : (s.store a l).cur = s.cur := rfl
@[simp] theorem State.store_outputs (a : Nat) (l : List Byte) : (s.store a l).outputs = s.outputs := rfl
@[simp] theorem State.store_pkg (a : Nat) (l : List Byte) : (s.store a l).pkg = s.pkg := rfl
@[simp] theorem State.store_parts (a : Nat) (l : List Byte) : (s.store a l).parts = s.parts := rfl
@[simp] theorem State.store_ctxs (a : Nat) (l : List Byte) : (s.store a l).ctxs = s.ctxs := rfl
@[simp] theorem State.store_images (a : Nat) (l : List Byte) : (s.store a l).images = s.images := rfl
@[simp] theorem State.store_launches (a : Nat) (l : List Byte) : (s.store a l).launches = s.launches := rfl
@[simp] theorem State.store_loads (a : Nat) (l : List Byte) : (s.store a l).loads = s.loads := rfl
@[simp] theorem State.store_clusters (a : Nat) (l : List Byte) : (s.store a l).clusters = s.clusters := rfl
@[simp] theorem State.store_cores (a : Nat) (l : List Byte) : (s.store a l).cores = s.cores := rfl
@[simp] theorem State.store_accs (a : Nat) (l : List Byte) : (s.store a l).accs = s.accs := rfl
@[simp] theorem State.store_longs (a : Nat) (l : List Byte) : (s.store a l).longs = s.longs := rfl
@[simp] theorem State.store_cmds (a : Nat) (l : List Byte) : (s.store a l).cmds = s.cmds := rfl
@[simp] theorem State.store_stalls (a : Nat) (l : List Byte) : (s.store a l).stalls = s.stalls := rfl
@[simp] theorem State.store_tlb (a : Nat) (l : List Byte) : (s.store a l).tlb = s.tlb := rfl
@[simp] theorem State.store_walks (a : Nat) (l : List Byte) : (s.store a l).walks = s.walks := rfl
@[simp] theorem State.store_mailboxes (a : Nat) (l : List Byte) : (s.store a l).mailboxes = s.mailboxes := rfl
@[simp] theorem State.store_spdm (a : Nat) (l : List Byte) : (s.store a l).spdm = s.spdm := rfl
@[simp] theorem State.store_sessions (a : Nat) (l : List Byte) : (s.store a l).sessions = s.sessions := rfl
@[simp] theorem State.store_lateLogs (a : Nat) (l : List Byte) : (s.store a l).lateLogs = s.lateLogs := rfl

/-! ### storeLe -/
@[simp] theorem State.storeLe_upsets (a n x : Nat) : (s.storeLe a n x).upsets = s.upsets := rfl
@[simp] theorem State.storeLe_engUpsets (a n x : Nat) : (s.storeLe a n x).engUpsets = s.engUpsets := rfl
@[simp] theorem State.storeLe_inputs (a n x : Nat) : (s.storeLe a n x).inputs = s.inputs := rfl
@[simp] theorem State.storeLe_oracle (a n x : Nat) : (s.storeLe a n x).oracle = s.oracle := rfl
@[simp] theorem State.storeLe_tick (a n x : Nat) : (s.storeLe a n x).tick = s.tick := rfl
@[simp] theorem State.storeLe_now (a n x : Nat) : (s.storeLe a n x).now = s.now := rfl
@[simp] theorem State.storeLe_nextId (a n x : Nat) : (s.storeLe a n x).nextId = s.nextId := rfl
@[simp] theorem State.storeLe_cur (a n x : Nat) : (s.storeLe a n x).cur = s.cur := rfl
@[simp] theorem State.storeLe_outputs (a n x : Nat) : (s.storeLe a n x).outputs = s.outputs := rfl
@[simp] theorem State.storeLe_pkg (a n x : Nat) : (s.storeLe a n x).pkg = s.pkg := rfl
@[simp] theorem State.storeLe_parts (a n x : Nat) : (s.storeLe a n x).parts = s.parts := rfl
@[simp] theorem State.storeLe_ctxs (a n x : Nat) : (s.storeLe a n x).ctxs = s.ctxs := rfl
@[simp] theorem State.storeLe_images (a n x : Nat) : (s.storeLe a n x).images = s.images := rfl
@[simp] theorem State.storeLe_launches (a n x : Nat) : (s.storeLe a n x).launches = s.launches := rfl
@[simp] theorem State.storeLe_loads (a n x : Nat) : (s.storeLe a n x).loads = s.loads := rfl
@[simp] theorem State.storeLe_clusters (a n x : Nat) : (s.storeLe a n x).clusters = s.clusters := rfl
@[simp] theorem State.storeLe_cores (a n x : Nat) : (s.storeLe a n x).cores = s.cores := rfl
@[simp] theorem State.storeLe_accs (a n x : Nat) : (s.storeLe a n x).accs = s.accs := rfl
@[simp] theorem State.storeLe_longs (a n x : Nat) : (s.storeLe a n x).longs = s.longs := rfl
@[simp] theorem State.storeLe_cmds (a n x : Nat) : (s.storeLe a n x).cmds = s.cmds := rfl
@[simp] theorem State.storeLe_stalls (a n x : Nat) : (s.storeLe a n x).stalls = s.stalls := rfl
@[simp] theorem State.storeLe_tlb (a n x : Nat) : (s.storeLe a n x).tlb = s.tlb := rfl
@[simp] theorem State.storeLe_walks (a n x : Nat) : (s.storeLe a n x).walks = s.walks := rfl
@[simp] theorem State.storeLe_mailboxes (a n x : Nat) : (s.storeLe a n x).mailboxes = s.mailboxes := rfl
@[simp] theorem State.storeLe_spdm (a n x : Nat) : (s.storeLe a n x).spdm = s.spdm := rfl
@[simp] theorem State.storeLe_sessions (a n x : Nat) : (s.storeLe a n x).sessions = s.sessions := rfl
@[simp] theorem State.storeLe_lateLogs (a n x : Nat) : (s.storeLe a n x).lateLogs = s.lateLogs := rfl

/-! ### poisonBytes -/
@[simp] theorem State.poisonBytes_upsets (a n : Nat) : (s.poisonBytes a n).upsets = s.upsets := rfl
@[simp] theorem State.poisonBytes_engUpsets (a n : Nat) : (s.poisonBytes a n).engUpsets = s.engUpsets := rfl
@[simp] theorem State.poisonBytes_inputs (a n : Nat) : (s.poisonBytes a n).inputs = s.inputs := rfl
@[simp] theorem State.poisonBytes_oracle (a n : Nat) : (s.poisonBytes a n).oracle = s.oracle := rfl
@[simp] theorem State.poisonBytes_tick (a n : Nat) : (s.poisonBytes a n).tick = s.tick := rfl
@[simp] theorem State.poisonBytes_now (a n : Nat) : (s.poisonBytes a n).now = s.now := rfl
@[simp] theorem State.poisonBytes_nextId (a n : Nat) : (s.poisonBytes a n).nextId = s.nextId := rfl
@[simp] theorem State.poisonBytes_cur (a n : Nat) : (s.poisonBytes a n).cur = s.cur := rfl
@[simp] theorem State.poisonBytes_outputs (a n : Nat) : (s.poisonBytes a n).outputs = s.outputs := rfl
@[simp] theorem State.poisonBytes_pkg (a n : Nat) : (s.poisonBytes a n).pkg = s.pkg := rfl
@[simp] theorem State.poisonBytes_parts (a n : Nat) : (s.poisonBytes a n).parts = s.parts := rfl
@[simp] theorem State.poisonBytes_ctxs (a n : Nat) : (s.poisonBytes a n).ctxs = s.ctxs := rfl
@[simp] theorem State.poisonBytes_images (a n : Nat) : (s.poisonBytes a n).images = s.images := rfl
@[simp] theorem State.poisonBytes_launches (a n : Nat) : (s.poisonBytes a n).launches = s.launches := rfl
@[simp] theorem State.poisonBytes_loads (a n : Nat) : (s.poisonBytes a n).loads = s.loads := rfl
@[simp] theorem State.poisonBytes_clusters (a n : Nat) : (s.poisonBytes a n).clusters = s.clusters := rfl
@[simp] theorem State.poisonBytes_cores (a n : Nat) : (s.poisonBytes a n).cores = s.cores := rfl
@[simp] theorem State.poisonBytes_accs (a n : Nat) : (s.poisonBytes a n).accs = s.accs := rfl
@[simp] theorem State.poisonBytes_longs (a n : Nat) : (s.poisonBytes a n).longs = s.longs := rfl
@[simp] theorem State.poisonBytes_cmds (a n : Nat) : (s.poisonBytes a n).cmds = s.cmds := rfl
@[simp] theorem State.poisonBytes_stalls (a n : Nat) : (s.poisonBytes a n).stalls = s.stalls := rfl
@[simp] theorem State.poisonBytes_tlb (a n : Nat) : (s.poisonBytes a n).tlb = s.tlb := rfl
@[simp] theorem State.poisonBytes_walks (a n : Nat) : (s.poisonBytes a n).walks = s.walks := rfl
@[simp] theorem State.poisonBytes_mailboxes (a n : Nat) : (s.poisonBytes a n).mailboxes = s.mailboxes := rfl
@[simp] theorem State.poisonBytes_spdm (a n : Nat) : (s.poisonBytes a n).spdm = s.spdm := rfl
@[simp] theorem State.poisonBytes_sessions (a n : Nat) : (s.poisonBytes a n).sessions = s.sessions := rfl
@[simp] theorem State.poisonBytes_lateLogs (a n : Nat) : (s.poisonBytes a n).lateLogs = s.lateLogs := rfl
@[simp] theorem State.poisonBytes_mem (a n : Nat) : (s.poisonBytes a n).mem = s.mem := rfl

/-! ### zero -/
@[simp] theorem State.zero_upsets (a n : Nat) : (s.zero a n).upsets = s.upsets := rfl
@[simp] theorem State.zero_engUpsets (a n : Nat) : (s.zero a n).engUpsets = s.engUpsets := rfl
@[simp] theorem State.zero_inputs (a n : Nat) : (s.zero a n).inputs = s.inputs := rfl
@[simp] theorem State.zero_oracle (a n : Nat) : (s.zero a n).oracle = s.oracle := rfl
@[simp] theorem State.zero_tick (a n : Nat) : (s.zero a n).tick = s.tick := rfl
@[simp] theorem State.zero_now (a n : Nat) : (s.zero a n).now = s.now := rfl
@[simp] theorem State.zero_nextId (a n : Nat) : (s.zero a n).nextId = s.nextId := rfl
@[simp] theorem State.zero_cur (a n : Nat) : (s.zero a n).cur = s.cur := rfl
@[simp] theorem State.zero_outputs (a n : Nat) : (s.zero a n).outputs = s.outputs := rfl
@[simp] theorem State.zero_pkg (a n : Nat) : (s.zero a n).pkg = s.pkg := rfl
@[simp] theorem State.zero_parts (a n : Nat) : (s.zero a n).parts = s.parts := rfl
@[simp] theorem State.zero_ctxs (a n : Nat) : (s.zero a n).ctxs = s.ctxs := rfl
@[simp] theorem State.zero_images (a n : Nat) : (s.zero a n).images = s.images := rfl
@[simp] theorem State.zero_launches (a n : Nat) : (s.zero a n).launches = s.launches := rfl
@[simp] theorem State.zero_loads (a n : Nat) : (s.zero a n).loads = s.loads := rfl
@[simp] theorem State.zero_clusters (a n : Nat) : (s.zero a n).clusters = s.clusters := rfl
@[simp] theorem State.zero_cores (a n : Nat) : (s.zero a n).cores = s.cores := rfl
@[simp] theorem State.zero_accs (a n : Nat) : (s.zero a n).accs = s.accs := rfl
@[simp] theorem State.zero_longs (a n : Nat) : (s.zero a n).longs = s.longs := rfl
@[simp] theorem State.zero_cmds (a n : Nat) : (s.zero a n).cmds = s.cmds := rfl
@[simp] theorem State.zero_stalls (a n : Nat) : (s.zero a n).stalls = s.stalls := rfl
@[simp] theorem State.zero_tlb (a n : Nat) : (s.zero a n).tlb = s.tlb := rfl
@[simp] theorem State.zero_walks (a n : Nat) : (s.zero a n).walks = s.walks := rfl
@[simp] theorem State.zero_mailboxes (a n : Nat) : (s.zero a n).mailboxes = s.mailboxes := rfl
@[simp] theorem State.zero_spdm (a n : Nat) : (s.zero a n).spdm = s.spdm := rfl
@[simp] theorem State.zero_sessions (a n : Nat) : (s.zero a n).sessions = s.sessions := rfl
@[simp] theorem State.zero_lateLogs (a n : Nat) : (s.zero a n).lateLogs = s.lateLogs := rfl

/-! ### The fields that the updates change -/
@[simp] theorem State.setCore_cores (c : Core) : (s.setCore c).cores = putCore c s.cores := rfl
@[simp] theorem State.setCluster_clusters (c : Cluster) : (s.setCluster c).clusters = putCluster c s.clusters := rfl
@[simp] theorem State.onLaunch_launches (n : Nat) (f : Launch → Launch) : (s.onLaunch n f).launches = mapIf (fun l => l.id == n) f s.launches := rfl
@[simp] theorem State.onCtx_ctxs (n : Nat) (f : Context → Context) : (s.onCtx n f).ctxs = mapIf (fun c => c.ctx == n) f s.ctxs := rfl
@[simp] theorem State.onPart_parts (n : Nat) (f : Partition → Partition) : (s.onPart n f).parts = mapIf (fun p => p.idx == n) f s.parts := rfl
@[simp] theorem State.onCmd_cmds (n : Nat) (f : Cmd → Cmd) : (s.onCmd n f).cmds = mapIf (fun c => c.id == n) f s.cmds := rfl
@[simp] theorem State.onLong_longs (n : Nat) (f : LongOp → LongOp) : (s.onLong n f).longs = mapIf (fun c => c.id == n) f s.longs := rfl
@[simp] theorem State.emit_outputs (o : Output) : (s.emit o).outputs = s.shown o := rfl
@[simp] theorem State.store_mem (a : Nat) (l : List Byte) : (s.store a l).mem = s.mem.writeBytes a l := rfl
@[simp] theorem State.storeLe_mem (a n x : Nat) : (s.storeLe a n x).mem = s.mem.writeLe a n x := rfl

/-! ### Numbers not used before -/
@[simp] theorem State.freshId_fst : s.freshId.1 = s.nextId := rfl
@[simp] theorem State.freshId_snd_nextId : s.freshId.2.nextId = s.nextId + 1 := rfl
@[simp] theorem State.freshId_snd_upsets : s.freshId.2.upsets = s.upsets := rfl
@[simp] theorem State.freshId_snd_engUpsets : s.freshId.2.engUpsets = s.engUpsets := rfl
@[simp] theorem State.freshId_snd_inputs : s.freshId.2.inputs = s.inputs := rfl
@[simp] theorem State.freshId_snd_oracle : s.freshId.2.oracle = s.oracle := rfl
@[simp] theorem State.freshId_snd_tick : s.freshId.2.tick = s.tick := rfl
@[simp] theorem State.freshId_snd_now : s.freshId.2.now = s.now := rfl
@[simp] theorem State.freshId_snd_cur : s.freshId.2.cur = s.cur := rfl
@[simp] theorem State.freshId_snd_outputs : s.freshId.2.outputs = s.outputs := rfl
@[simp] theorem State.freshId_snd_pkg : s.freshId.2.pkg = s.pkg := rfl
@[simp] theorem State.freshId_snd_parts : s.freshId.2.parts = s.parts := rfl
@[simp] theorem State.freshId_snd_ctxs : s.freshId.2.ctxs = s.ctxs := rfl
@[simp] theorem State.freshId_snd_images : s.freshId.2.images = s.images := rfl
@[simp] theorem State.freshId_snd_launches : s.freshId.2.launches = s.launches := rfl
@[simp] theorem State.freshId_snd_loads : s.freshId.2.loads = s.loads := rfl
@[simp] theorem State.freshId_snd_clusters : s.freshId.2.clusters = s.clusters := rfl
@[simp] theorem State.freshId_snd_cores : s.freshId.2.cores = s.cores := rfl
@[simp] theorem State.freshId_snd_accs : s.freshId.2.accs = s.accs := rfl
@[simp] theorem State.freshId_snd_longs : s.freshId.2.longs = s.longs := rfl
@[simp] theorem State.freshId_snd_cmds : s.freshId.2.cmds = s.cmds := rfl
@[simp] theorem State.freshId_snd_stalls : s.freshId.2.stalls = s.stalls := rfl
@[simp] theorem State.freshId_snd_tlb : s.freshId.2.tlb = s.tlb := rfl
@[simp] theorem State.freshId_snd_walks : s.freshId.2.walks = s.walks := rfl
@[simp] theorem State.freshId_snd_mailboxes : s.freshId.2.mailboxes = s.mailboxes := rfl
@[simp] theorem State.freshId_snd_spdm : s.freshId.2.spdm = s.spdm := rfl
@[simp] theorem State.freshId_snd_sessions : s.freshId.2.sessions = s.sessions := rfl
@[simp] theorem State.freshId_snd_lateLogs : s.freshId.2.lateLogs = s.lateLogs := rfl
@[simp] theorem State.freshId_snd_mem : s.freshId.2.mem = s.mem := rfl
@[simp] theorem State.freshId_snd_poison : s.freshId.2.poison = s.poison := rfl

/-! ### Threads, groups and cores -/

@[simp] theorem Core.setThread_cl (c : Core) (t : Thread) : (c.setThread t).cl = c.cl := rfl
@[simp] theorem Core.onThread_cl (c : Core) (n : Nat) (f : Thread → Thread) : (c.onThread n f).cl = c.cl := rfl
@[simp] theorem Core.setGroup_cl (c : Core) (g : Group) : (c.setGroup g).cl = c.cl := rfl
@[simp] theorem Core.onGroup_cl (c : Core) (n : Nat) (f : Group → Group) : (c.onGroup n f).cl = c.cl := rfl
@[simp] theorem Core.setThread_co (c : Core) (t : Thread) : (c.setThread t).co = c.co := rfl
@[simp] theorem Core.onThread_co (c : Core) (n : Nat) (f : Thread → Thread) : (c.onThread n f).co = c.co := rfl
@[simp] theorem Core.setGroup_co (c : Core) (g : Group) : (c.setGroup g).co = c.co := rfl
@[simp] theorem Core.onGroup_co (c : Core) (n : Nat) (f : Group → Group) : (c.onGroup n f).co = c.co := rfl
@[simp] theorem Core.setThread_block (c : Core) (t : Thread) : (c.setThread t).block = c.block := rfl
@[simp] theorem Core.onThread_block (c : Core) (n : Nat) (f : Thread → Thread) : (c.onThread n f).block = c.block := rfl
@[simp] theorem Core.setGroup_block (c : Core) (g : Group) : (c.setGroup g).block = c.block := rfl
@[simp] theorem Core.onGroup_block (c : Core) (n : Nat) (f : Group → Group) : (c.onGroup n f).block = c.block := rfl
@[simp] theorem Core.setThread_gen (c : Core) (t : Thread) : (c.setThread t).gen = c.gen := rfl
@[simp] theorem Core.onThread_gen (c : Core) (n : Nat) (f : Thread → Thread) : (c.onThread n f).gen = c.gen := rfl
@[simp] theorem Core.setGroup_gen (c : Core) (g : Group) : (c.setGroup g).gen = c.gen := rfl
@[simp] theorem Core.onGroup_gen (c : Core) (n : Nat) (f : Group → Group) : (c.onGroup n f).gen = c.gen := rfl
@[simp] theorem Core.setThread_cells (c : Core) (t : Thread) : (c.setThread t).cells = c.cells := rfl
@[simp] theorem Core.onThread_cells (c : Core) (n : Nat) (f : Thread → Thread) : (c.onThread n f).cells = c.cells := rfl
@[simp] theorem Core.setGroup_cells (c : Core) (g : Group) : (c.setGroup g).cells = c.cells := rfl
@[simp] theorem Core.onGroup_cells (c : Core) (n : Nat) (f : Group → Group) : (c.onGroup n f).cells = c.cells := rfl
@[simp] theorem Core.setGroup_threads (c : Core) (g : Group) : (c.setGroup g).threads = c.threads := rfl
@[simp] theorem Core.onGroup_threads (c : Core) (n : Nat) (f : Group → Group) : (c.onGroup n f).threads = c.threads := rfl
@[simp] theorem Core.setThread_groups (c : Core) (t : Thread) : (c.setThread t).groups = c.groups := rfl
@[simp] theorem Core.onThread_groups (c : Core) (n : Nat) (f : Thread → Thread) : (c.onThread n f).groups = c.groups := rfl
@[simp] theorem Core.setThread_bins (c : Core) (t : Thread) : (c.setThread t).bins = c.bins := rfl
@[simp] theorem Core.onThread_bins (c : Core) (n : Nat) (f : Thread → Thread) : (c.onThread n f).bins = c.bins := rfl
@[simp] theorem Core.setGroup_bins (c : Core) (g : Group) : (c.setGroup g).bins = c.bins := rfl
@[simp] theorem Core.onGroup_bins (c : Core) (n : Nat) (f : Group → Group) : (c.onGroup n f).bins = c.bins := rfl
@[simp] theorem Core.setThread_lanes (c : Core) (t : Thread) : (c.setThread t).lanes = c.lanes := rfl
@[simp] theorem Core.onThread_lanes (c : Core) (n : Nat) (f : Thread → Thread) : (c.onThread n f).lanes = c.lanes := rfl
@[simp] theorem Core.setGroup_lanes (c : Core) (g : Group) : (c.setGroup g).lanes = c.lanes := rfl
@[simp] theorem Core.onGroup_lanes (c : Core) (n : Nat) (f : Group → Group) : (c.onGroup n f).lanes = c.lanes := rfl
@[simp] theorem Core.setThread_ibuf (c : Core) (t : Thread) : (c.setThread t).ibuf = c.ibuf := rfl
@[simp] theorem Core.onThread_ibuf (c : Core) (n : Nat) (f : Thread → Thread) : (c.onThread n f).ibuf = c.ibuf := rfl
@[simp] theorem Core.setGroup_ibuf (c : Core) (g : Group) : (c.setGroup g).ibuf = c.ibuf := rfl
@[simp] theorem Core.onGroup_ibuf (c : Core) (n : Nat) (f : Group → Group) : (c.onGroup n f).ibuf = c.ibuf := rfl
@[simp] theorem Core.setThread_bkpten (c : Core) (t : Thread) : (c.setThread t).bkpten = c.bkpten := rfl
@[simp] theorem Core.onThread_bkpten (c : Core) (n : Nat) (f : Thread → Thread) : (c.onThread n f).bkpten = c.bkpten := rfl
@[simp] theorem Core.setGroup_bkpten (c : Core) (g : Group) : (c.setGroup g).bkpten = c.bkpten := rfl
@[simp] theorem Core.onGroup_bkpten (c : Core) (n : Nat) (f : Group → Group) : (c.onGroup n f).bkpten = c.bkpten := rfl
@[simp] theorem Core.setThread_xfers (c : Core) (t : Thread) : (c.setThread t).xfers = c.xfers := rfl
@[simp] theorem Core.setThread_wants (c : Core) (t : Thread) : (c.setThread t).wants = c.wants := rfl
@[simp] theorem Core.onThread_xfers (c : Core) (n : Nat) (f : Thread → Thread) : (c.onThread n f).xfers = c.xfers := rfl
@[simp] theorem Core.onThread_wants (c : Core) (n : Nat) (f : Thread → Thread) : (c.onThread n f).wants = c.wants := rfl
@[simp] theorem Core.setGroup_xfers (c : Core) (g : Group) : (c.setGroup g).xfers = c.xfers := rfl
@[simp] theorem Core.setGroup_wants (c : Core) (g : Group) : (c.setGroup g).wants = c.wants := rfl
@[simp] theorem Core.onGroup_xfers (c : Core) (n : Nat) (f : Group → Group) : (c.onGroup n f).xfers = c.xfers := rfl
@[simp] theorem Core.onGroup_wants (c : Core) (n : Nat) (f : Group → Group) : (c.onGroup n f).wants = c.wants := rfl
@[simp] theorem Core.setThread_passAt (c : Core) (t : Thread) : (c.setThread t).passAt = c.passAt := rfl
@[simp] theorem Core.onThread_passAt (c : Core) (n : Nat) (f : Thread → Thread) : (c.onThread n f).passAt = c.passAt := rfl
@[simp] theorem Core.setGroup_passAt (c : Core) (g : Group) : (c.setGroup g).passAt = c.passAt := rfl
@[simp] theorem Core.onGroup_passAt (c : Core) (n : Nat) (f : Group → Group) : (c.onGroup n f).passAt = c.passAt := rfl
@[simp] theorem Core.setThread_svc (c : Core) (t : Thread) : (c.setThread t).svc = c.svc := rfl
@[simp] theorem Core.onThread_svc (c : Core) (n : Nat) (f : Thread → Thread) : (c.onThread n f).svc = c.svc := rfl
@[simp] theorem Core.setGroup_svc (c : Core) (g : Group) : (c.setGroup g).svc = c.svc := rfl
@[simp] theorem Core.onGroup_svc (c : Core) (n : Nat) (f : Group → Group) : (c.onGroup n f).svc = c.svc := rfl

end Sys2Proof.Machine
end

