-- ==== Sys2Proof/Laws/Memory.lean ====
section
/-! SUPPORT. Keyed collections and memory: reading after writing, and that every memory operation keeps the canonical form. -/

namespace Sys2Proof.Machine

section Assoc
variable {α : Type} (rest : α)

@[simp] theorem assocGet_put_self (l : Assoc α) (n : Nat) (x : α) : assocGet rest (assocPut l n x) n = x := by
  induction l with
  | nil => simp [assocPut, assocGet]
  | cons e l ih =>
    obtain ⟨k, v⟩ := e
    simp only [assocPut]
    split
    · simp [assocGet]
    · split
      · simp [assocGet, *]
      · simp [assocGet, *]

theorem assocGet_put_other (l : Assoc α) {n m : Nat} (x : α) (h : m ≠ n) : assocGet rest (assocPut l n x) m = assocGet rest l m := by
  induction l with
  | nil => simp [assocPut, assocGet, h]
  | cons e l ih =>
    obtain ⟨k, v⟩ := e
    simp only [assocPut]
    split
    · simp [assocGet, h]
    · split
      · subst_vars; simp [assocGet, h]
      · simp [assocGet, ih]

theorem assocGet_filter_self (l : Assoc α) (n : Nat) : assocGet rest (l.filter (fun e => e.1 != n)) n = rest := by
  induction l with
  | nil => rfl
  | cons e l ih =>
    obtain ⟨k, v⟩ := e
    by_cases hk : k = n
    · simp [hk, ih]
    · simp [hk, assocGet, ih, Ne.symm hk]

theorem assocGet_filter_other (l : Assoc α) {n m : Nat} (h : m ≠ n) :
    assocGet rest (l.filter (fun e => e.1 != n)) m = assocGet rest l m := by
  induction l with
  | nil => rfl
  | cons e l ih =>
    obtain ⟨k, v⟩ := e
    by_cases hk : k = n
    · subst hk; simp [assocGet, ih, h]
    · simp [hk, assocGet, ih]

variable [DecidableEq α]

/-- An entry read after it is written. -/
@[simp] theorem assocGet_set_self (l : Assoc α) (n : Nat) (x : α) : assocGet rest (assocSet rest l n x) n = x := by
  unfold assocSet
  split
  · subst_vars; exact assocGet_filter_self _ l n
  · exact assocGet_put_self rest l n x

/-- Any other entry is as it was. -/
theorem assocGet_set_other (l : Assoc α) {n m : Nat} (x : α) (h : m ≠ n) : assocGet rest (assocSet rest l n x) m = assocGet rest l m := by
  unfold assocSet
  split
  · exact assocGet_filter_other _ l h
  · exact assocGet_put_other rest l x h

theorem assocWf_mono {lo lo' : Nat} (l : Assoc α) (h : lo' ≤ lo) (w : assocWf rest lo l = true) : assocWf rest lo' l = true := by
  cases l with
  | nil => rfl
  | cons e l =>
    obtain ⟨k, v⟩ := e
    simp only [assocWf, Bool.and_eq_true, decide_eq_true_eq] at *
    exact ⟨⟨by omega, w.1.2⟩, w.2⟩

theorem assocWf_filter {lo : Nat} (l : Assoc α) (p : Nat × α → Bool) (w : assocWf rest lo l = true) : assocWf rest lo (l.filter p) = true := by
  induction l generalizing lo with
  | nil => rfl
  | cons e l ih =>
    obtain ⟨k, v⟩ := e
    simp only [assocWf, Bool.and_eq_true, decide_eq_true_eq] at w
    simp only [List.filter_cons]
    split
    · simp [assocWf, w.1.1, w.1.2, ih w.2]
    · exact assocWf_mono rest _ (by omega) (ih w.2)

theorem assocWf_put {lo : Nat} (l : Assoc α) (n : Nat) (x : α) (hlo : lo ≤ n) (hx : x ≠ rest) (w : assocWf rest lo l = true) :
    assocWf rest lo (assocPut l n x) = true := by
  induction l generalizing lo with
  | nil => simp [assocPut, assocWf, hlo, hx]
  | cons e l ih =>
    obtain ⟨k, v⟩ := e
    simp only [assocWf, Bool.and_eq_true, decide_eq_true_eq] at w
    simp only [assocPut]
    split
    · next hn => simp only [assocWf, Bool.and_eq_true, decide_eq_true_eq]; exact ⟨⟨hlo, hx⟩, ⟨by omega, w.1.2⟩, w.2⟩
    · split
      · simp [assocWf, w.1.1, hx, w.2]
      · simp [assocWf, w.1.1, w.1.2, ih (by omega) w.2]

theorem assocWf_set {lo : Nat} (l : Assoc α) (n : Nat) (x : α) (hlo : lo ≤ n) (w : assocWf rest lo l = true) :
    assocWf rest lo (assocSet rest l n x) = true := by
  unfold assocSet
  split
  · exact assocWf_filter rest l _ w
  · exact assocWf_put rest l n x hlo ‹_› w

end Assoc

/-! ### Memory -/

@[simp] theorem Memory.read_write_self (m : Memory) (a : Nat) (b : Byte) : (m.write a b).read a = b := assocGet_set_self _ _ _ _
theorem Memory.read_write_other (m : Memory) {a c : Nat} (b : Byte) (h : c ≠ a) : (m.write a b).read c = m.read c := assocGet_set_other _ _ _ h

/-- A byte outside the bytes written reads as before. -/
theorem Memory.read_writeBytes_outside (m : Memory) (a : Nat) (l : List Byte) (c : Nat) (h : c < a ∨ a + l.length ≤ c) :
    (m.writeBytes a l).read c = m.read c := by
  induction l generalizing m a with
  | nil => rfl
  | cons b l ih =>
    simp only [List.length_cons] at h
    rw [Memory.writeBytes, ih _ _ (by omega), Memory.read_write_other _ _ (by omega)]

/-- A byte inside the bytes written reads what was written. -/
theorem Memory.read_writeBytes_inside (m : Memory) (a : Nat) (l : List Byte) (i : Nat) (h : i < l.length) :
    (m.writeBytes a l).read (a + i) = l.getD i 0 := by
  induction l generalizing m a i with
  | nil => simp at h
  | cons b l ih =>
    rw [Memory.writeBytes]
    cases i with
    | zero => rw [Memory.read_writeBytes_outside _ _ _ _ (by omega)]; simp
    | succ i =>
      simp only [List.length_cons] at h
      have := ih (m.write a b) (a + 1) i (by omega)
      rw [show a + (i + 1) = a + 1 + i by omega, this]; simp

theorem Memory.wf_write (m : Memory) (a : Nat) (b : Byte) (h : m.wf = true) : (m.write a b).wf = true := assocWf_set _ _ _ _ (Nat.zero_le _) h

theorem Memory.wf_writeBytes (m : Memory) (a : Nat) (l : List Byte) (h : m.wf = true) : (m.writeBytes a l).wf = true := by
  induction l generalizing m a with
  | nil => exact h
  | cons b l ih => exact ih _ _ (Memory.wf_write m a b h)

theorem Memory.wf_writeLe (m : Memory) (a n x : Nat) (h : m.wf = true) : (m.writeLe a n x).wf = true := Memory.wf_writeBytes _ _ _ h

/-- A store keeps memory canonical. -/
theorem State.store_wf (s : State) (a : Nat) (l : List Byte) (h : s.mem.wf = true) : (s.store a l).mem.wf = true := Memory.wf_writeBytes _ _ _ h
theorem State.storeLe_wf (s : State) (a n x : Nat) (h : s.mem.wf = true) : (s.storeLe a n x).mem.wf = true := s.store_wf _ _ h
theorem State.poisonBytes_wf (s : State) (a n : Nat) (h : s.mem.wf = true) : (s.poisonBytes a n).mem.wf = true := h
theorem State.zero_wf (s : State) (a n : Nat) (h : s.mem.wf = true) : (s.zero a n).mem.wf = true := assocWf_filter _ _ _ h
theorem State.reset_wf : State.reset.mem.wf = true := rfl

end Sys2Proof.Machine
end

