-- ==== Sys2Proof/Laws/Order.lean ====
section
/-! SUPPORT. Scopes and what loads have read ahead of acquires (R118, R123): what a release does to them. -/

namespace Sys2Proof.Machine

/-- Every scope includes two threads of one group (R127). -/
@[simp] theorem includes_self (scope : Nat) (x : Nat × Nat × Nat) : includes scope x x = true := by
  unfold includes; split <;> simp

/-- A wider scope includes what a narrower one does (R118). -/
theorem includes_mono {m n : Nat} {x y : Nat × Nat × Nat} (h : includes m x y = true) (hmn : m ≤ n) : includes n x y = true := by
  obtain ⟨a, b, c⟩ := x
  obtain ⟨d, e, f⟩ := y
  by_cases hn : 5 ≤ n
  · obtain ⟨k, rfl⟩ := Nat.exists_eq_add_of_le hn
    simp [includes, Nat.add_comm]
  · obtain rfl | rfl | rfl | rfl | rfl : n = 0 ∨ n = 1 ∨ n = 2 ∨ n = 3 ∨ n = 4 := by omega
    all_goals
      obtain rfl | rfl | rfl | rfl | rfl : m = 0 ∨ m = 1 ∨ m = 2 ∨ m = 3 ∨ m = 4 := by omega
      all_goals simp_all [includes]

/-- An access but for what it has read ahead, and whether it has settled its value. -/
def Access.bare (a : Access) : Access := { a with looked := [], fixed := false }

/-- Forgetting changes what is read ahead and nothing else. -/
theorem forgetWhere_bare (f : Access → List Access → Access → Bool) (keep : Access → Part × List (Nat × Byte × Bool) → Bool) (pre l : List Access) :
    (forgetWhere f keep pre l).map Access.bare = l.map Access.bare := by
  induction l generalizing pre with
  | nil => rfl
  | cons b l ih =>
    simp only [forgetWhere, List.map_cons, ih, List.cons.injEq, and_true]
    split <;> rfl

/-- Settling the values of acquires that were passed changes nothing else. -/
theorem fixWhere_bare (f : Access → Bool) (l : List Access) : (fixWhere f l).map Access.bare = l.map Access.bare := by
  simp only [fixWhere, List.map_map]
  refine List.map_congr_left (fun a _ => ?_)
  simp only [Function.comp]
  split <;> rfl

/-- A release changes no memory, no long operation and no core; of accesses it changes what is read ahead, and which values are settled. -/
theorem State.releases_frame (s : State) (w : Access) (p : Option Part) :
    (s.releases w p).mem = s.mem ∧ (s.releases w p).longs = s.longs ∧ (s.releases w p).cores = s.cores ∧
      (s.releases w p).accs.map Access.bare = s.accs.map Access.bare := by
  unfold State.releases
  split
  · exact ⟨rfl, rfl, rfl, rfl⟩
  · exact ⟨rfl, rfl, rfl, by simp only [fixWhere_bare, forgetWhere_bare]⟩

/-- So does a write from outside the threads. -/
theorem State.releasesOutside_frame (s : State) :
    s.releasesOutside.mem = s.mem ∧ s.releasesOutside.longs = s.longs ∧ s.releasesOutside.cores = s.cores ∧
      s.releasesOutside.accs.map Access.bare = s.accs.map Access.bare :=
  ⟨rfl, rfl, rfl, by simp only [State.releasesOutside, fixWhere_bare, forgetWhere_bare]⟩

end Sys2Proof.Machine
end

