-- ==== Sys2Proof/Laws/Pass.lean ====
section
/-! SUPPORT. What a pass does (R46, R47, R54): the thread it serves, and what one operation of one thread comes to. -/

namespace Sys2Proof.Machine

/-! ### Finding what was put -/

theorem find_mapIf {α : Type} (p q : α → Bool) (f : α → α) (hf : ∀ x, p (f x) = p x) (l : List α) :
    (mapIf q f l).find? p = (l.find? p).map (fun x => if q x then f x else x) := by
  induction l with
  | nil => rfl
  | cons x l ih =>
    simp only [mapIf, List.map_cons, List.find?_cons] at *
    by_cases hq : q x = true
    · simp only [hq, if_true, hf]
      cases hp : p x
      · simpa using ih
      · simp [hq]
    · simp only [hq, Bool.false_eq_true, if_false]
      cases hp : p x
      · simpa using ih
      · simp [hq]

theorem core_cl_co (s : State) (cl co : Nat) : (s.core cl co).cl = cl ∧ (s.core cl co).co = co := by
  unfold State.core State.core?
  cases h : s.cores.find? (fun c => c.cl == cl && c.co == co) with
  | none => simp [Core.fresh]
  | some c => have := List.find?_some h; simp at this; simpa using this

theorem find_putCore (c : Core) (l : List Core) : (putCore c l).find? (fun x => x.cl == c.cl && x.co == c.co) = some c := by
  induction l with
  | nil => simp [putCore]
  | cons x l ih =>
    simp only [putCore]
    split
    · simp
    · next h => simp [h, ih]

/-- The core just put is the core found. -/
@[simp] theorem core_setCore (s : State) (c : Core) : (s.setCore c).core c.cl c.co = c := by
  simp [State.core, State.core?, find_putCore]

theorem core_setCore_same (s : State) (c : Core) {cl co : Nat} (h : c.cl = cl) (h' : c.co = co) : (s.setCore c).core cl co = c := by
  subst h h'; exact core_setCore s c

theorem find_putCore_other (c : Core) (l : List Core) {cl co : Nat} (h : ¬ (cl = c.cl ∧ co = c.co)) :
    (putCore c l).find? (fun x => x.cl == cl && x.co == co) = l.find? (fun x => x.cl == cl && x.co == co) := by
  have hc : (c.cl == cl && c.co == co) = false := by
    cases e : (c.cl == cl && c.co == co) with
    | false => rfl
    | true => simp at e; exact absurd ⟨e.1.symm, e.2.symm⟩ h
  induction l with
  | nil => simp [putCore, hc]
  | cons x l ih =>
    simp only [putCore]
    split
    · next hx =>
      have hx' : (x.cl == cl && x.co == co) = false := by
        simp at hx; rw [hx.1, hx.2]; exact hc
      rw [List.find?_cons, List.find?_cons, hc, hx']
    · rw [List.find?_cons, List.find?_cons, ih]

/-- Every other core is as it was. -/
theorem core_setCore_other (s : State) (c : Core) {cl co : Nat} (h : ¬ (cl = c.cl ∧ co = c.co)) : (s.setCore c).core cl co = s.core cl co := by
  simp [State.core, State.core?, find_putCore_other c s.cores h]

@[simp] theorem core_onCore (s : State) (cl co : Nat) (f : Core → Core) (h1 : (f (s.core cl co)).cl = (s.core cl co).cl)
    (h2 : (f (s.core cl co)).co = (s.core cl co).co) : (s.onCore cl co f).core cl co = f (s.core cl co) := by
  have := core_cl_co s cl co
  exact core_setCore_same _ _ (by omega) (by omega)

@[simp] theorem core_onThread (s : State) (cl co t : Nat) (f : Thread → Thread) : (s.onThread cl co t f).core cl co = (s.core cl co).onThread t f :=
  core_onCore s cl co _ rfl rfl

@[simp] theorem core_onGroup (s : State) (cl co gs : Nat) (f : Group → Group) : (s.onGroup cl co gs f).core cl co = (s.core cl co).onGroup gs f :=
  core_onCore s cl co _ rfl rfl

/-! ### One thread of a pass -/

theorem slotThread_core {s : State} {i : Issue} {k : Nat} {c : Core} {g : Group} {t : Thread} (h : s.slotThread i k = some (c, g, t)) :
    s.core i.cl i.co = c ∧ c.group? i.gs = some g ∧ c.threadAt g k = some t := by
  simp only [State.slotThread] at h
  split at h
  · simp at h
  · next g' hg =>
    split at h
    · simp at h
    · next t' ht => simp at h; obtain ⟨rfl, rfl, rfl⟩ := h; exact ⟨rfl, hg, ht⟩

theorem threadAt_tid {c : Core} {g : Group} {k : Nat} {t : Thread} (h : c.threadAt g k = some t) :
    g.tidAt k = some t.tid ∧ c.thread? t.tid = some t := by
  unfold Core.threadAt at h
  split at h
  · next n hn =>
    have : (t.tid == n) = true := by have := List.find?_some h; simpa using this
    simp at this; subst this; exact ⟨hn, h⟩
  · simp at h

/-- Changing the thread of a slot changes what that slot holds, and nothing else of what the pass sees of it. -/
theorem slotThread_onThread {s : State} {i : Issue} {k : Nat} {c : Core} {g : Group} {t : Thread} (h : s.slotThread i k = some (c, g, t))
    (f : Thread → Thread) (hf : ∀ x, (f x).tid = x.tid) :
    (s.onThread i.cl i.co t.tid f).slotThread i k = some (c.onThread t.tid f, g, f t) := by
  obtain ⟨rfl, hg, ht⟩ := slotThread_core h
  obtain ⟨hk, hx⟩ := threadAt_tid ht
  have e1 : ((s.core i.cl i.co).onThread t.tid f).group? i.gs = some g := hg
  have e2 : ((s.core i.cl i.co).onThread t.tid f).thread? t.tid = some (f t) := by
    unfold Core.thread? Core.onThread
    rw [find_mapIf _ _ _ (by intro x; simp [hf])]
    unfold Core.thread? at hx
    simp [hx]
  unfold State.slotThread
  simp only [core_onThread, e1]
  simp [Core.threadAt, hk, e2]

theorem retire_retire (t : Thread) : retire (retire t) = retire t := by simp [retire]

/-- Retiring one slot's thread leaves another slot's thread as it was, or retired if it is the same thread. -/
theorem slotThread_retireSlot {s : State} {i : Issue} {k : Nat} {c : Core} {g : Group} {t : Thread} (h : s.slotThread i k = some (c, g, t)) (j : Nat) :
    ∃ c' t', (retireSlot i s j).slotThread i k = some (c', g, t') ∧ (t' = t ∨ t' = retire t) ∧ (j = k → t' = retire t) ∧
      c'.cl = c.cl ∧ c'.co = c.co ∧ c'.gen = c.gen := by
  unfold retireSlot
  cases hj : s.slotThread i j with
  | none =>
    refine ⟨c, t, h, .inl rfl, ?_, rfl, rfl, rfl⟩
    intro e; subst e; rw [h] at hj; simp at hj
  | some x =>
    obtain ⟨c2, g2, t2⟩ := x
    obtain ⟨rfl, hg, ht⟩ := slotThread_core h
    obtain ⟨rfl, hg2, ht2⟩ := slotThread_core hj
    rw [hg] at hg2; simp at hg2; subst hg2
    obtain ⟨hk, hx⟩ := threadAt_tid ht
    obtain ⟨hk2, hx2⟩ := threadAt_tid ht2
    by_cases e : t2.tid = t.tid
    · have : t2 = t := by rw [e, hx] at hx2; simpa using hx2.symm
      subst this
      exact ⟨_, _, slotThread_onThread h retire (fun _ => rfl), .inr rfl, fun _ => rfl, rfl, rfl, rfl⟩
    · refine ⟨(s.core i.cl i.co).onThread t2.tid retire, t, ?_, .inl rfl, ?_, rfl, rfl, rfl⟩
      · have e1 : ((s.core i.cl i.co).onThread t2.tid retire).group? i.gs = some g := hg
        have e2 : ((s.core i.cl i.co).onThread t2.tid retire).thread? t.tid = some t := by
          unfold Core.thread? Core.onThread
          rw [find_mapIf _ _ _ (by intro x; simp [retire])]
          unfold Core.thread? at hx
          simp [hx, Ne.symm e]
        simp only [State.slotThread, core_onThread, e1]
        simp [Core.threadAt, hk, e2]
      · intro ejk; subst ejk; rw [hk] at hk2; simp at hk2; exact absurd hk2.symm e

theorem slotThread_retired_list {i : Issue} {k : Nat} {g : Group} (ks : List Nat) :
    ∀ {c : Core} {t : Thread} {s : State}, s.slotThread i k = some (c, g, t) →
      ∃ c' t', (ks.foldl (retireSlot i) s).slotThread i k = some (c', g, t') ∧ (t' = t ∨ t' = retire t) ∧ (k ∈ ks → t' = retire t) ∧
        c'.cl = c.cl ∧ c'.co = c.co ∧ c'.gen = c.gen := by
  induction ks with
  | nil => intro c t s h; exact ⟨c, t, h, .inl rfl, by simp, rfl, rfl, rfl⟩
  | cons j ks ih =>
    intro c t s h
    obtain ⟨c1, t1, h1, a1, b1, e1⟩ := slotThread_retireSlot h j
    obtain ⟨c2, t2, h2, a2, b2, e2⟩ := ih h1
    refine ⟨c2, t2, h2, ?_, ?_, e2.1.trans e1.1, e2.2.1.trans e1.2.1, e2.2.2.trans e1.2.2⟩
    · rcases a2 with rfl | rfl <;> rcases a1 with rfl | rfl <;> simp [retire_retire]
    · intro hm
      by_cases hjk : j = k
      · have := b1 hjk; subst this; rcases a2 with rfl | rfl <;> simp [retire_retire]
      · have := b2 (by simpa [Ne.symm hjk] using hm); subst this; rcases a1 with rfl | rfl <;> simp [retire_retire]

theorem retireSlot_launches (i : Issue) (s : State) (j : Nat) : (retireSlot i s j).launches = s.launches := by
  unfold retireSlot; split <;> rfl

theorem retired_launches (i : Issue) (ks : List Nat) : ∀ s : State, (ks.foldl (retireSlot i) s).launches = s.launches := by
  induction ks with
  | nil => intro s; rfl
  | cons j ks ih => intro s; rw [List.foldl_cons, ih, retireSlot_launches]

/-- The thread that a pass serves, once every thread of the pass has retired. -/
theorem slotThread_retiredAll {s : State} {i : Issue} {k : Nat} {c : Core} {g : Group} {t : Thread} (h : s.slotThread i k = some (c, g, t))
    (hk : k ∈ i.threads) : (retiredAll s i).slotThread i k = some ((retiredAll s i).core i.cl i.co, g, retire t) := by
  obtain ⟨c', t', h', -, b, -⟩ := slotThread_retired_list i.threads h
  obtain rfl := b hk
  have e := (slotThread_core h').1
  unfold retiredAll; rw [h', e]

/-- What an operation reads beside its thread and group is the same after the retirement. -/
theorem env_retiredAll {s : State} {i : Issue} {k : Nat} {c : Core} {g : Group} {t : Thread} (h : s.slotThread i k = some (c, g, t)) :
    Env.of (retiredAll s i) ((retiredAll s i).core i.cl i.co) g = Env.of s c g := by
  obtain ⟨c', t', h', -, -, e⟩ := slotThread_retired_list i.threads h
  obtain rfl := (slotThread_core h').1
  simp only [Env.of, State.launch?, retiredAll, retired_launches, e.1, e.2.1, e.2.2]

/-- A uniform operation that succeeds (R47). -/
theorem serveUniform_ok {f : Serve} {s s2 : State} {i : Issue} {k : Nat} {l : List Nat} {c : Core} {g : Group} {t : Thread} (hk : i.threads = k :: l)
    (ht : s.slotThread i k = some (c, g, t)) (hs : s.struck i k = (s, 0, none)) (hf : f i k (retiredAll s i) = .ok s2) :
    serveUniform f s i = (s2, { i with done := i.done ++ i.threads, first := false, uniform := true }) := by
  have hf' : f i k (i.threads.foldl (retireSlot i) s) = .ok s2 := hf
  unfold serveUniform
  split
  · next h => rw [hk] at h; cases h
  · next k' l' h =>
    rw [hk] at h; injection h with h1 _; subst h1
    simp [ht, hs, hf']

/-- An operation of one active thread that succeeds (R46). -/
theorem serveAll_one {f : Serve} {opc : Nat} {o : Ops} {s s2 : State} {i : Issue} {k : Nat} {c : Core} {g : Group} {t : Thread}
    {ks : List Nat} (hk : ks = [k]) (ht : s.slotThread i k = some (c, g, t)) (hg : guardVal o t = ⟨true, false⟩) (hs : s.struck i k = (s, 0, none))
    (hf : f i k (s.onThread i.cl i.co t.tid retire) = .ok s2) :
    ∃ i', serveAll f opc o ks s i = (s2, i') ∧ i' = { i with done := i.done ++ [k], first := false } := by
  subst hk
  simp only [serveAll, serveOne, ht, hg]
  simp [hs, hf]

/-- A pass that serves one thread, or a whole front by a uniform operation, and whose operation succeeds (R46, R47). -/
theorem runOp_next {ins : Instr} {opc : Nat} {o : Ops} {f : Serve} {s : State} {i : Issue} {k : Nat} {l : List Nat} {c : Core} {g : Group} {t : Thread}
    {s2 : State} (hc : s.cur = some i) (hk : i.threads = k :: l) (h1 : opUniform opc o = false → l = []) (ht : s.slotThread i k = some (c, g, t))
    (hg : guardVal o t = ⟨true, false⟩) (hu : s.upsetOf i k = none) (hd : ins.detail = none)
    (hf : f { i with soft := isSoft opc } k (retiredAll s i) = .ok s2) :
    runOp ins opc o f s = .next { s2 with cur := some (i.finished (opUniform opc o)) } := by
  unfold runOp
  simp only [hc, hd]
  have hs : s.struck { i with soft := isSoft opc } k = (s, 0, none) := by
    simp only [State.struck, show s.upsetOf { i with soft := isSoft opc } k = none from hu]
  cases hun : opUniform opc o with
  | true =>
    simp only [if_true, serveUniform_ok (i := { i with soft := isSoft opc }) hk ht hs hf]
    simp [Issue.finished, hk]
  | false =>
    obtain rfl := h1 hun
    have hr : retiredAll s i = s.onThread i.cl i.co t.tid retire := by simp [retiredAll, hk, retireSlot, ht]
    rw [hr] at hf
    obtain ⟨i', h2, hi⟩ := serveAll_one (opc := opc) (o := o) (i := { i with soft := isSoft opc }) hk ht hg hs hf
    simp only [Bool.false_eq_true, if_false, h2]
    simp [Issue.finished, hk, hi]

/-- The same for an operation on registers: the thread and group it gives are put in place. -/
theorem runLane_next {ins : Instr} {opc : Nat} {o : Ops} {f : LaneOp} {s : State} {i : Issue} {k : Nat} {l : List Nat} {c : Core} {g : Group}
    {t t' : Thread} {g' : Group} (hc : s.cur = some i) (hk : i.threads = k :: l)
    (h1 : opUniform opc o = false → l = []) (ht : s.slotThread i k = some (c, g, t)) (hg : guardVal o t = ⟨true, false⟩)
    (hu : s.upsetOf i k = none) (hd : ins.detail = none) (hf : f (Env.of s c g) (retire t) g = .ok (t', g')) :
    runLane ins opc o f s = .next { putBack s i t' g' with cur := some (i.finished (opUniform opc o)) } :=
  runOp_next hc hk h1 ht hg hu hd (by
    have hm : k ∈ i.threads := by simp [hk]
    have h := slotThread_retiredAll ht hm
    simp [laneServe, show (retiredAll s i).slotThread { i with soft := isSoft opc } k = _ from h, env_retiredAll ht, hf, putBack])

end Sys2Proof.Machine
end

