-- ==== Sys2Proof/Laws/PerInstr.lean ====
section
/-! SUPPORT. What holds of every instruction as syntax, one lemma per constructor: how many bytes it takes in the code stream. -/

namespace Sys2Proof.Laws.EncodeLength
open Sys2Proof

/-- A compact form takes four bytes, any other operation thirteen, a step of the machine none (R201, R204, R206). -/
def Statement (i : Instr) : Prop := (encode i).length = (if (compact i).isSome then 4 else if (canonical i).isSome then 13 else 0)

theorem nop (o) : Statement (Instr.nop o) := rfl
theorem exit (o) : Statement (Instr.exit o) := rfl
theorem next (o) : Statement (Instr.next o) := rfl
theorem ret (o) : Statement (Instr.ret o) := rfl
theorem quit (o) : Statement (Instr.quit o) := rfl
theorem yield (o) : Statement (Instr.yield o) := rfl
theorem barArrive (o) : Statement (Instr.barArrive o) := rfl
theorem barWait (o) : Statement (Instr.barWait o) := rfl
theorem barSync (o) : Statement (Instr.barSync o) := rfl
theorem spawn (o) : Statement (Instr.spawn o) := rfl
theorem trap (o) : Statement (Instr.trap o) := rfl
theorem tret (o) : Statement (Instr.tret o) := rfl
theorem bkpt (o) : Statement (Instr.bkpt o) := rfl
theorem movs (o) : Statement (Instr.movs o) := rfl
theorem ctlr (o) : Statement (Instr.ctlr o) := rfl
theorem ctlw (o) : Statement (Instr.ctlw o) := rfl
theorem add (o) : Statement (Instr.add o) := rfl
theorem addc (o) : Statement (Instr.addc o) := rfl
theorem sub (o) : Statement (Instr.sub o) := rfl
theorem subb (o) : Statement (Instr.subb o) := rfl
theorem mul (o) : Statement (Instr.mul o) := rfl
theorem mulh (o) : Statement (Instr.mulh o) := rfl
theorem mad (o) : Statement (Instr.mad o) := rfl
theorem madw (o) : Statement (Instr.madw o) := rfl
theorem min (o) : Statement (Instr.min o) := rfl
theorem max (o) : Statement (Instr.max o) := rfl
theorem abs (o) : Statement (Instr.abs o) := rfl
theorem neg (o) : Statement (Instr.neg o) := rfl
theorem clamp (o) : Statement (Instr.clamp o) := rfl
theorem idiv (o) : Statement (Instr.idiv o) := rfl
theorem irem (o) : Statement (Instr.irem o) := rfl
theorem shl (o) : Statement (Instr.shl o) := rfl
theorem shr (o) : Statement (Instr.shr o) := rfl
theorem sar (o) : Statement (Instr.sar o) := rfl
theorem rotl (o) : Statement (Instr.rotl o) := rfl
theorem fsh (o) : Statement (Instr.fsh o) := rfl
theorem bfx (o) : Statement (Instr.bfx o) := rfl
theorem bfi (o) : Statement (Instr.bfi o) := rfl
theorem popc (o) : Statement (Instr.popc o) := rfl
theorem clz (o) : Statement (Instr.clz o) := rfl
theorem ctz (o) : Statement (Instr.ctz o) := rfl
theorem brev (o) : Statement (Instr.brev o) := rfl
theorem and (o) : Statement (Instr.and o) := rfl
theorem or (o) : Statement (Instr.or o) := rfl
theorem xor (o) : Statement (Instr.xor o) := rfl
theorem not (o) : Statement (Instr.not o) := rfl
theorem andn (o) : Statement (Instr.andn o) := rfl
theorem bool3 (o) : Statement (Instr.bool3 o) := rfl
theorem mov (o) : Statement (Instr.mov o) := rfl
theorem movi (o) : Statement (Instr.movi o) := rfl
theorem csel (o) : Statement (Instr.csel o) := rfl
theorem cmp (o) : Statement (Instr.cmp o) := rfl
theorem setv (o) : Statement (Instr.setv o) := rfl
theorem lea (o) : Statement (Instr.lea o) := rfl
theorem pand (o) : Statement (Instr.pand o) := rfl
theorem por (o) : Statement (Instr.por o) := rfl
theorem pxor (o) : Statement (Instr.pxor o) := rfl
theorem pnot (o) : Statement (Instr.pnot o) := rfl
theorem pmov (o) : Statement (Instr.pmov o) := rfl
theorem xprev (o) : Statement (Instr.xprev o) := rfl
theorem xscan (o) : Statement (Instr.xscan o) := rfl
theorem xred (o) : Statement (Instr.xred o) := rfl
theorem xbcast (o) : Statement (Instr.xbcast o) := rfl
theorem xpick (o) : Statement (Instr.xpick o) := rfl
theorem xput (o) : Statement (Instr.xput o) := rfl
theorem xget (o) : Statement (Instr.xget o) := rfl
theorem vote (o) : Statement (Instr.vote o) := rfl
theorem first (o) : Statement (Instr.first o) := rfl
theorem actc (o) : Statement (Instr.actc o) := rfl
theorem fadd (o) : Statement (Instr.fadd o) := rfl
theorem fsub (o) : Statement (Instr.fsub o) := rfl
theorem fmul (o) : Statement (Instr.fmul o) := rfl
theorem ffma (o) : Statement (Instr.ffma o) := rfl
theorem fmin (o) : Statement (Instr.fmin o) := rfl
theorem fmax (o) : Statement (Instr.fmax o) := rfl
theorem fdiv (o) : Statement (Instr.fdiv o) := rfl
theorem fcmp (o) : Statement (Instr.fcmp o) := rfl
theorem fclass (o) : Statement (Instr.fclass o) := rfl
theorem frnd (o) : Statement (Instr.frnd o) := rfl
theorem ffrac (o) : Statement (Instr.ffrac o) := rfl
theorem rcp (o) : Statement (Instr.rcp o) := rfl
theorem rsq (o) : Statement (Instr.rsq o) := rfl
theorem sqrt (o) : Statement (Instr.sqrt o) := rfl
theorem exp2 (o) : Statement (Instr.exp2 o) := rfl
theorem log2 (o) : Statement (Instr.log2 o) := rfl
theorem sin (o) : Statement (Instr.sin o) := rfl
theorem cos (o) : Statement (Instr.cos o) := rfl
theorem tanh (o) : Statement (Instr.tanh o) := rfl
theorem erf (o) : Statement (Instr.erf o) := rfl
theorem cvt (o) : Statement (Instr.cvt o) := rfl
theorem cvtSc (o) : Statement (Instr.cvtSc o) := rfl
theorem bscale (o) : Statement (Instr.bscale o) := rfl
theorem pack (o) : Statement (Instr.pack o) := rfl
theorem unpack (o) : Statement (Instr.unpack o) := rfl
theorem ld (o) : Statement (Instr.ld o) := rfl
theorem st (o) : Statement (Instr.st o) := rfl
theorem ldk (o) : Statement (Instr.ldk o) := rfl
theorem prf (o) : Statement (Instr.prf o) := rfl
theorem atom (o) : Statement (Instr.atom o) := rfl
theorem red (o) : Statement (Instr.red o) := rfl
theorem fenceR (o) : Statement (Instr.fenceR o) := rfl
theorem fence (o) : Statement (Instr.fence o) := rfl
theorem cctl (o) : Statement (Instr.cctl o) := rfl
theorem copyBox (o) : Statement (Instr.copyBox o) := rfl
theorem copyT (o) : Statement (Instr.copyT o) := rfl
theorem copyFill (o) : Statement (Instr.copyFill o) := rfl
theorem layout (o) : Statement (Instr.layout o) := rfl
theorem mma (o) : Statement (Instr.mma o) := rfl
theorem mmaP (o) : Statement (Instr.mmaP o) := rfl
theorem mmaG (o) : Statement (Instr.mmaG o) := rfl
theorem mmaS (o) : Statement (Instr.mmaS o) := rfl
theorem accClr (o) : Statement (Instr.accClr o) := rfl
theorem accLd (o) : Statement (Instr.accLd o) := rfl
theorem accSt (o) : Statement (Instr.accSt o) := rfl
theorem accStx (o) : Statement (Instr.accStx o) := rfl
theorem bankop (o) : Statement (Instr.bankop o) := rfl
theorem cexp (o) : Statement (Instr.cexp o) := rfl
theorem cwait (o) : Statement (Instr.cwait o) := rfl
theorem cacq (o) : Statement (Instr.cacq o) := rfl
theorem cread (o) : Statement (Instr.cread o) := rfl
theorem creset (o) : Statement (Instr.creset o) := rfl
theorem addS32Compact (d) (a) (b) : Statement (Instr.addS32Compact d a b) := rfl
theorem subS32Compact (d) (a) (b) : Statement (Instr.subS32Compact d a b) := rfl
theorem mulS32Compact (d) (a) (b) : Statement (Instr.mulS32Compact d a b) := rfl
theorem madS32Compact (d) (a) (b) (c) : Statement (Instr.madS32Compact d a b c) := rfl
theorem minS32Compact (d) (a) (b) : Statement (Instr.minS32Compact d a b) := rfl
theorem maxS32Compact (d) (a) (b) : Statement (Instr.maxS32Compact d a b) := rfl
theorem minZ32Compact (d) (a) (b) : Statement (Instr.minZ32Compact d a b) := rfl
theorem maxZ32Compact (d) (a) (b) : Statement (Instr.maxZ32Compact d a b) := rfl
theorem andCompact (d) (a) (b) : Statement (Instr.andCompact d a b) := rfl
theorem orCompact (d) (a) (b) : Statement (Instr.orCompact d a b) := rfl
theorem xorCompact (d) (a) (b) : Statement (Instr.xorCompact d a b) := rfl
theorem andnCompact (d) (a) (b) : Statement (Instr.andnCompact d a b) := rfl
theorem shlCompact (d) (a) (b) : Statement (Instr.shlCompact d a b) := rfl
theorem shrCompact (d) (a) (b) : Statement (Instr.shrCompact d a b) := rfl
theorem sarCompact (d) (a) (b) : Statement (Instr.sarCompact d a b) := rfl
theorem movCompact (d) (a) : Statement (Instr.movCompact d a) := rfl
theorem faddCompact (d) (a) (b) : Statement (Instr.faddCompact d a b) := rfl
theorem fsubCompact (d) (a) (b) : Statement (Instr.fsubCompact d a b) := rfl
theorem fmulCompact (d) (a) (b) : Statement (Instr.fmulCompact d a b) := rfl
theorem ffmaCompact (d) (a) (b) (c) : Statement (Instr.ffmaCompact d a b c) := rfl
theorem fminCompact (d) (a) (b) : Statement (Instr.fminCompact d a b) := rfl
theorem fmaxCompact (d) (a) (b) : Statement (Instr.fmaxCompact d a b) := rfl
theorem cmpEqS32Compact (d) (a) (b) : Statement (Instr.cmpEqS32Compact d a b) := rfl
theorem cmpNeS32Compact (d) (a) (b) : Statement (Instr.cmpNeS32Compact d a b) := rfl
theorem cmpLtS32Compact (d) (a) (b) : Statement (Instr.cmpLtS32Compact d a b) := rfl
theorem cmpLeS32Compact (d) (a) (b) : Statement (Instr.cmpLeS32Compact d a b) := rfl
theorem cmpGtS32Compact (d) (a) (b) : Statement (Instr.cmpGtS32Compact d a b) := rfl
theorem cmpGeS32Compact (d) (a) (b) : Statement (Instr.cmpGeS32Compact d a b) := rfl
theorem cmpLtZ32Compact (d) (a) (b) : Statement (Instr.cmpLtZ32Compact d a b) := rfl
theorem cmpLeZ32Compact (d) (a) (b) : Statement (Instr.cmpLeZ32Compact d a b) := rfl
theorem cmpGtZ32Compact (d) (a) (b) : Statement (Instr.cmpGtZ32Compact d a b) := rfl
theorem cmpGeZ32Compact (d) (a) (b) : Statement (Instr.cmpGeZ32Compact d a b) := rfl
theorem ldGmCompact (d) (a) (b) : Statement (Instr.ldGmCompact d a b) := rfl
theorem stGmCompact (d) (a) (b) : Statement (Instr.stGmCompact d a b) := rfl
theorem ldSpCompact (d) (a) (b) : Statement (Instr.ldSpCompact d a b) := rfl
theorem stSpCompact (d) (a) (b) : Statement (Instr.stSpCompact d a b) := rfl
theorem addImmCompact (d) (a) (k) : Statement (Instr.addImmCompact d a k) := rfl
theorem mulImmCompact (d) (a) (k) : Statement (Instr.mulImmCompact d a k) := rfl
theorem andImmCompact (d) (a) (k) : Statement (Instr.andImmCompact d a k) := rfl
theorem orImmCompact (d) (a) (k) : Statement (Instr.orImmCompact d a k) := rfl
theorem xorImmCompact (d) (a) (k) : Statement (Instr.xorImmCompact d a k) := rfl
theorem shlImmCompact (d) (a) (k) : Statement (Instr.shlImmCompact d a k) := rfl
theorem shrImmCompact (d) (a) (k) : Statement (Instr.shrImmCompact d a k) := rfl
theorem sarImmCompact (d) (a) (k) : Statement (Instr.sarImmCompact d a k) := rfl
theorem moviCompact (d) (k) : Statement (Instr.moviCompact d k) := rfl
theorem cmpEqImmCompact (d) (a) (k) : Statement (Instr.cmpEqImmCompact d a k) := rfl
theorem cmpNeImmCompact (d) (a) (k) : Statement (Instr.cmpNeImmCompact d a k) := rfl
theorem cmpLtImmCompact (d) (a) (k) : Statement (Instr.cmpLtImmCompact d a k) := rfl
theorem cmpLeImmCompact (d) (a) (k) : Statement (Instr.cmpLeImmCompact d a k) := rfl
theorem cmpGtImmCompact (d) (a) (k) : Statement (Instr.cmpGtImmCompact d a k) := rfl
theorem cmpGeImmCompact (d) (a) (k) : Statement (Instr.cmpGeImmCompact d a k) := rfl
theorem ldGmImmCompact (d) (a) (k) : Statement (Instr.ldGmImmCompact d a k) := rfl
theorem stGmImmCompact (d) (a) (k) : Statement (Instr.stGmImmCompact d a k) := rfl
theorem ldSpImmCompact (d) (a) (k) : Statement (Instr.ldSpImmCompact d a k) := rfl
theorem stSpImmCompact (d) (a) (k) : Statement (Instr.stSpImmCompact d a k) := rfl
theorem nodeMove (cl) (co) (t) : Statement (Instr.nodeMove cl co t) := rfl
theorem call (cl) (co) (t) : Statement (Instr.call cl co t) := rfl
theorem returnFrame (cl) (co) (t) : Statement (Instr.returnFrame cl co t) := rfl
theorem reform (cl) (co) (t) : Statement (Instr.reform cl co t) := rfl
theorem safeArrival (cl) (co) (t) : Statement (Instr.safeArrival cl co t) := rfl
theorem instructionFetch (cl) (co) (gs) (fi) : Statement (Instr.instructionFetch cl co gs fi) := rfl
theorem longOpLands (id) : Statement (Instr.longOpLands id) := rfl
theorem accessPerform (id) : Statement (Instr.accessPerform id) := rfl
theorem homeAtomicPerform (id) : Statement (Instr.homeAtomicPerform id) := rfl
theorem trapDeliver (cl) (co) (gs) : Statement (Instr.trapDeliver cl co gs) := rfl
theorem asyncErrorDeliver (cl) (co) (gs) : Statement (Instr.asyncErrorDeliver cl co gs) := rfl
theorem binFile (cl) (co) (t) : Statement (Instr.binFile cl co t) := rfl
theorem binAgeLimit (cl) (co) (b) : Statement (Instr.binAgeLimit cl co b) := rfl
theorem threadSlotFree (cl) (co) (t) : Statement (Instr.threadSlotFree cl co t) := rfl
theorem chunkSpill (cl) (co) (t) (x) : Statement (Instr.chunkSpill cl co t x) := rfl
theorem chunkFill (cl) (co) (t) (x) : Statement (Instr.chunkFill cl co t x) := rfl
theorem chunkTransferDone (id) : Statement (Instr.chunkTransferDone id) := rfl
theorem spawnRingTake (cl) (co) : Statement (Instr.spawnRingTake cl co) := rfl
theorem blockPlace (launch) (block) (cl) (co) : Statement (Instr.blockPlace launch block cl co) := rfl
theorem blockSaved (cl) (co) : Statement (Instr.blockSaved cl co) := rfl
theorem blockEnd (cl) (co) : Statement (Instr.blockEnd cl co) := rfl
theorem engineQueueEntry (id) : Statement (Instr.engineQueueEntry id) := rfl
theorem destExpectationArrive (id) (dest) : Statement (Instr.destExpectationArrive id dest) := rfl
theorem engineBytesLand (id) (k) : Statement (Instr.engineBytesLand id k) := rfl
theorem matrixRowFinal (id) (row) : Statement (Instr.matrixRowFinal id row) := rfl
theorem bankElementUpdate (id) (k) : Statement (Instr.bankElementUpdate id k) := rfl
theorem commandFinish (id) : Statement (Instr.commandFinish id) := rfl
theorem commandAbort (id) : Statement (Instr.commandAbort id) := rfl
theorem cwaitReturn (cl) (co) (gs) (fi) : Statement (Instr.cwaitReturn cl co gs fi) := rfl
theorem cacqTake (cl) (co) (gs) (fi) : Statement (Instr.cacqTake cl co gs fi) := rfl
theorem tableWalk (cl) (co) (ctx) (va) (acc) : Statement (Instr.tableWalk cl co ctx va acc) := rfl
theorem faultEntryWrite (id) : Statement (Instr.faultEntryWrite id) := rfl
theorem faultResponse (part) (v) : Statement (Instr.faultResponse part v) := rfl
theorem invalidationRequest (part) (v) : Statement (Instr.invalidationRequest part v) := rfl
theorem invalidationComplete (part) : Statement (Instr.invalidationComplete part) := rfl
theorem peerAccess (part) (off) (len) (acc) : Statement (Instr.peerAccess part off len acc) := rfl
theorem doorbell (part) (tag) (v) : Statement (Instr.doorbell part tag v) := rfl
theorem pktLaunch (qcb) : Statement (Instr.pktLaunch qcb) := rfl
theorem pktResume (qcb) : Statement (Instr.pktResume qcb) := rfl
theorem pktWrite (qcb) : Statement (Instr.pktWrite qcb) := rfl
theorem pktSignalWrite (qcb) : Statement (Instr.pktSignalWrite qcb) := rfl
theorem pktWait (qcb) : Statement (Instr.pktWait qcb) := rfl
theorem pktImageLoad (qcb) : Statement (Instr.pktImageLoad qcb) := rfl
theorem imageLoadVerify (id) : Statement (Instr.imageLoadVerify id) := rfl
theorem imageLoadResult (qcb) : Statement (Instr.imageLoadResult qcb) := rfl
theorem launchEnd (id) : Statement (Instr.launchEnd id) := rfl
theorem sliceEdge : Statement Instr.sliceEdge := rfl
theorem clusterSwitch (cl) : Statement (Instr.clusterSwitch cl) := rfl
theorem clearSequenceComplete (cl) (ok) : Statement (Instr.clearSequenceComplete cl ok) := rfl
theorem ctxCreate (fn) (health) : Statement (Instr.ctxCreate fn health) := rfl
theorem ctxDestroy (fn) : Statement (Instr.ctxDestroy fn) := rfl
theorem ctxSupervisor (fn) : Statement (Instr.ctxSupervisor fn) := rfl
theorem queueCreate (fn) : Statement (Instr.queueCreate fn) := rfl
theorem queueDestroy (fn) : Statement (Instr.queueDestroy fn) := rfl
theorem sessionStart (fn) : Statement (Instr.sessionStart fn) := rfl
theorem sessionStop (fn) : Statement (Instr.sessionStop fn) := rfl
theorem attention (fn) : Statement (Instr.attention fn) := rfl
theorem partitionSet (fn) : Statement (Instr.partitionSet fn) := rfl
theorem carveoutSet (fn) (health) : Statement (Instr.carveoutSet fn health) := rfl
theorem sliceSet (fn) : Statement (Instr.sliceSet fn) := rfl
theorem faultringSet (fn) : Statement (Instr.faultringSet fn) := rfl
theorem qtableSet (fn) : Statement (Instr.qtableSet fn) := rfl
theorem perrrecSet (fn) : Statement (Instr.perrrecSet fn) := rfl
theorem policySet (fn) : Statement (Instr.policySet fn) := rfl
theorem powerSet (fn) : Statement (Instr.powerSet fn) := rfl
theorem repair (fn) : Statement (Instr.repair fn) := rfl
theorem spare (fn) : Statement (Instr.spare fn) := rfl
theorem peerSet (fn) : Statement (Instr.peerSet fn) := rfl
theorem exportSet (fn) : Statement (Instr.exportSet fn) := rfl
theorem ownerSet (fn) : Statement (Instr.ownerSet fn) := rfl
theorem signerAdd (fn) : Statement (Instr.signerAdd fn) := rfl
theorem signerRevoke (fn) : Statement (Instr.signerRevoke fn) := rfl
theorem signerList (fn) : Statement (Instr.signerList fn) := rfl
theorem fwStage (fn) : Statement (Instr.fwStage fn) := rfl
theorem fwAbandon (fn) : Statement (Instr.fwAbandon fn) := rfl
theorem mailboxUnknownOpcode (fn) : Statement (Instr.mailboxUnknownOpcode fn) := rfl
theorem mailboxCommandComplete (fn) : Statement (Instr.mailboxCommandComplete fn) := rfl
theorem registerWrite (fn) (off) (v) : Statement (Instr.registerWrite fn off v) := rfl
theorem fwCommit : Statement Instr.fwCommit := rfl
theorem getVersion (fn) : Statement (Instr.getVersion fn) := rfl
theorem getCapabilities (fn) : Statement (Instr.getCapabilities fn) := rfl
theorem negotiateAlgorithms (fn) (offer) : Statement (Instr.negotiateAlgorithms fn offer) := rfl
theorem getDigests (fn) : Statement (Instr.getDigests fn) := rfl
theorem getCertificate (fn) (slot) : Statement (Instr.getCertificate fn slot) := rfl
theorem challenge (fn) (slot) (nonce) : Statement (Instr.challenge fn slot nonce) := rfl
theorem getMeasurements (fn) (index) (signed) (nonce) : Statement (Instr.getMeasurements fn index signed nonce) := rfl
theorem keyExchange (fn) (share) : Statement (Instr.keyExchange fn share) := rfl
theorem finish (fn) (verify) : Statement (Instr.finish fn verify) := rfl
theorem keyUpdate (fn) : Statement (Instr.keyUpdate fn) := rfl
theorem endSession (fn) : Statement (Instr.endSession fn) := rfl
theorem tdiError (fn) : Statement (Instr.tdiError fn) := rfl
theorem correctableError (stack) (channel) (row) : Statement (Instr.correctableError stack channel row) := rfl
theorem uncorrectableError (place) : Statement (Instr.uncorrectableError place) := rfl
theorem softRepairStart (stack) (channel) (row) : Statement (Instr.softRepairStart stack channel row) := rfl
theorem softRepairDone (stack) : Statement (Instr.softRepairDone stack) := rfl
theorem iftDue (cl) (co) : Statement (Instr.iftDue cl co) := rfl
theorem drainLimitExpire (cl) (co) : Statement (Instr.drainLimitExpire cl co) := rfl
theorem iftComplete (cl) (co) (pass) : Statement (Instr.iftComplete cl co pass) := rfl
theorem portRetrainStart (port) : Statement (Instr.portRetrainStart port) := rfl
theorem portRetrainDone (port) (lanes) : Statement (Instr.portRetrainDone port lanes) := rfl
theorem thermalClockStep (up) : Statement (Instr.thermalClockStep up) := rfl
theorem thermalTrip : Statement Instr.thermalTrip := rfl
theorem bringUp (b) : Statement (Instr.bringUp b) := rfl
theorem logDrain (ctx) (ok) : Statement (Instr.logDrain ctx ok) := rfl
theorem logFill (ctx) : Statement (Instr.logFill ctx) := rfl
theorem hashBoundary (cl) (co) (gs) : Statement (Instr.hashBoundary cl co gs) := rfl
theorem gateAdmit (id) : Statement (Instr.gateAdmit id) := rfl
theorem gateTimeout (ctx) (stream) : Statement (Instr.gateTimeout ctx stream) := rfl
theorem mailboxWriteWhileBusy (fn) (v) : Statement (Instr.mailboxWriteWhileBusy fn v) := rfl
theorem tdispRequest (fn) (target) : Statement (Instr.tdispRequest fn target) := rfl
theorem ideKmRequest (fn) (stream) (key) : Statement (Instr.ideKmRequest fn stream key) := rfl
theorem recoveryMailboxImage (img) (sig) : Statement (Instr.recoveryMailboxImage img sig) := rfl

end Sys2Proof.Laws.EncodeLength
end

