-- ==== Sys2Proof/Tests/Slice0.lean ====
section
/-! SUPPORT. Tests: words of the encoding, one step at a time, and for every statement's hypotheses a state that meets them. -/

namespace Sys2Proof.Tests
set_option Elab.async false
open Sys2Proof Sys2Proof.Machine Sys2Proof.Claims

/-! ### A state in which one thread issues -/

/-- An issue of the one thread of a placed program. -/
def wI : Issue := { cl := 0, co := 0, gs := 0, front := [0], threads := [0] }
/-- Its group. -/
def wG : Group := { slot := 0, launch := 1, members := [(0, 1)], fronts := [{ tslots := [0] }] }
/-- Its core. -/
def wC : Core := placedCore
/-- The thread. -/
def wT : Thread := placedThread
/-- Its launch, with every slot bound to f16. -/
def wL : Launch := { placedLaunch with slots := List.replicate 8 1 }
/-- Its context, with a bank window on the first die. -/
def wX : Context := { ctx := 0, part := 0, bkwin := [⟨0, 64⟩] }
/-- Its image: one procedure, with a constant pool of 8 bytes. -/
def wImg : Image :=
  { handle := 1, ctx := 0, part := 0, va := Config.codeVa, frame := 0, len := 64, procs := [{ num := 1, f := 128, args := 0, clen := 18, pool := 32, poolLen := 8 }],
    safes := [] }
/-- A held translation of the first GiB, with R, W, A and D. -/
def wTlb : TlbEntry := ⟨0, 0, 0, 0, 2 ^ 30, 0x00100000000008C3⟩
/-- The state. -/
def wS : State :=
  { State.reset.place (encode (.movCompact 1 2)) with cur := some wI, launches := [wL], tlb := [wTlb], ctxs := [wX], images := [wImg] }

/-- The thread can be served by any operation without a guard. -/
theorem serves (opc : Nat) (o : Ops) (h : guardVal o wT = ⟨true, false⟩) : Serves wS wI 0 wC wG wT opc o :=
  ⟨rfl, rfl, fun _ => rfl, rfl, h, rfl⟩

/-- An operation that the thread can issue with readable operands. -/
structure Runs (ins : Instr) (opc : Nat) (o : Ops) : Prop where
  serves : Serves wS wI 0 wC wG wT opc o
  detail : ins.detail = none
  reads : Readable opc o wT wG

theorem runs {ins : Instr} {opc : Nat} {o : Ops}
    (h : guardVal o wT = ⟨true, false⟩ ∧ ins.detail = none ∧ operandHalt wT wG o (widths opc o) 0 0 0 = none) : Runs ins opc o :=
  ⟨serves opc o h.1, h.2.1, h.2.2⟩

/-- An operation without a guard. -/
def op (d a b c : Spec) (t : Fin 8) (mod : BitVec 12) (imm : Word) : Ops := ⟨false, 0, t, d, a, b, c, mod, imm⟩
/-- Two sources, at the ends of the register range. -/
def o2 (t : Fin 8) : Ops := op (.v 127) (.v 0) (.v 126) .zero t 0 0
/-- One source. -/
def o1 (t : Fin 8) : Ops := op (.v 127) (.v 0) .zero .zero t 0 0
/-- Three sources. -/
def o3 (t : Fin 8) : Ops := op (.v 127) (.v 0) (.v 126) (.v 1) t 0 0

theorem witness_IntegerResults :
    Runs (.add (o2 0)) 0x040 (o2 0) ∧
    Runs (.sub (o2 2)) 0x042 (o2 2) ∧
    Runs (.mul (o2 1)) 0x044 (o2 1) ∧
    Runs (.mulh (op (.v 126) (.v 0) (.v 2) .zero 0 0x800#12 0)) 0x045 (op (.v 126) (.v 0) (.v 2) .zero 0 0x800#12 0) ∧
    Runs (.mad (o3 0)) 0x046 (o3 0) ∧
    Runs (.madw (op (.v 126) (.v 0) (.v 1) (.v 2) 0 0 0)) 0x047 (op (.v 126) (.v 0) (.v 1) (.v 2) 0 0 0) ∧
    Runs (.min (op (.v 5) .imm (.v 5) .zero 0 0 0x80000000)) 0x048 (op (.v 5) .imm (.v 5) .zero 0 0 0x80000000) ∧
    Runs (.max (o2 1)) 0x049 (o2 1) ∧
    Runs (.abs (o1 0)) 0x04A (o1 0) ∧
    Runs (.neg (o1 0)) 0x04B (o1 0) ∧
    Runs (.clamp (o3 0)) 0x04C (o3 0) :=
  ⟨runs (by decide), runs (by decide), runs (by decide), runs (by decide), runs (by decide), runs (by decide), runs (by decide), runs (by decide), runs (by decide), runs (by decide), runs (by decide)⟩

theorem witness_DivisionResults :
    Runs (.idiv (o2 0)) 0x04D (o2 0) ∧
    Runs (.irem (o2 1)) 0x04E (o2 1) :=
  ⟨runs (by decide), runs (by decide)⟩

theorem witness_ShiftResults :
    Runs (.shl (op (.v 1) (.v 2) .imm .zero 2 0 32)) 0x080 (op (.v 1) (.v 2) .imm .zero 2 0 32) ∧
    Runs (.shr (op (.v 1) (.v 2) .imm .zero 2 0 31)) 0x081 (op (.v 1) (.v 2) .imm .zero 2 0 31) ∧
    Runs (.sar (o2 0)) 0x082 (o2 0) ∧
    Runs (.rotl (o2 0)) 0x083 (o2 0) ∧
    Runs (.fsh (o3 0)) 0x084 (o3 0) ∧
    Runs (.bfx (o3 0)) 0x085 (o3 0) ∧
    Runs (.bfi (o3 2)) 0x086 (o3 2) ∧
    Runs (.popc (o1 2)) 0x087 (o1 2) ∧
    Runs (.clz (o1 2)) 0x088 (o1 2) ∧
    Runs (.ctz (op (.v 126) (.v 0) .zero .zero 2 0x800#12 0)) 0x089 (op (.v 126) (.v 0) .zero .zero 2 0x800#12 0) ∧
    Runs (.brev (o1 2)) 0x08A (o1 2) :=
  ⟨runs (by decide), runs (by decide), runs (by decide), runs (by decide), runs (by decide), runs (by decide), runs (by decide), runs (by decide), runs (by decide), runs (by decide), runs (by decide)⟩

theorem witness_LogicResults :
    Runs (.and (o2 2)) 0x090 (o2 2) ∧
    Runs (.or (o2 2)) 0x091 (o2 2) ∧
    Runs (.xor (op (.g 1) (.g 2) (.g 63) .zero 2 0 0)) 0x092 (op (.g 1) (.g 2) (.g 63) .zero 2 0 0) ∧
    Runs (.not (o1 2)) 0x093 (o1 2) ∧
    Runs (.andn (o2 2)) 0x094 (o2 2) ∧
    Runs (.bool3 (op (.v 1) (.v 2) (.v 3) (.v 4) 2 0 0xF8)) 0x095 (op (.v 1) (.v 2) (.v 3) (.v 4) 2 0 0xF8) ∧
    Runs (.mov (o1 2)) 0x0C0 (o1 2) ∧
    Runs (.movi (op (.v 1) .imm .zero .zero 2 0 0xFFFFFFFF)) 0x0C1 (op (.v 1) .imm .zero .zero 2 0 0xFFFFFFFF) ∧
    Runs (.csel (op (.v 1) (.v 2) (.v 3) (.p 7) 2 0 0)) 0x0C2 (op (.v 1) (.v 2) (.v 3) (.p 7) 2 0 0) ∧
    Runs (.setv (op (.v 1) (.p 0) .zero .zero 2 0 0)) 0x0C4 (op (.v 1) (.p 0) .zero .zero 2 0 0) ∧
    Runs (.lea (op (.v 126) (.v 4) .zero .zero 0 0 0xFFFFFFFC)) 0x0C5 (op (.v 126) (.v 4) .zero .zero 0 0 0xFFFFFFFC) :=
  ⟨runs (by decide), runs (by decide), runs (by decide), runs (by decide), runs (by decide), runs (by decide), runs (by decide), runs (by decide), runs (by decide), runs (by decide), runs (by decide)⟩

theorem witness_PredicateResults :
    Runs (.cmp (op (.p 7) (.v 0) (.v 1) .zero 0 0x050#12 0)) 0x0C3 (op (.p 7) (.v 0) (.v 1) .zero 0 0x050#12 0) ∧
    Runs (.pand (op (.p 1) (.p 2) (.p 7) .zero 0 0 0)) 0x0D0 (op (.p 1) (.p 2) (.p 7) .zero 0 0 0) ∧
    Runs (.por (op (.q 3) (.q 0) (.q 1) .zero 0 0 0)) 0x0D1 (op (.q 3) (.q 0) (.q 1) .zero 0 0 0) ∧
    Runs (.pxor (op (.p 0) (.p 2) (.p 7) .zero 0 0 0)) 0x0D2 (op (.p 0) (.p 2) (.p 7) .zero 0 0 0) ∧
    Runs (.pnot (op (.p 1) (.p 2) .zero .zero 0 0 0)) 0x0D3 (op (.p 1) (.p 2) .zero .zero 0 0 0) ∧
    Runs (.pmov (op (.p 1) (.p 0) .zero .zero 0 0 0)) 0x0D4 (op (.p 1) (.p 0) .zero .zero 0 0 0) ∧
    Runs (.fcmp (op (.p 1) (.v 0) (.v 1) .zero 2 0x070#12 0)) 0x148 (op (.p 1) (.v 0) (.v 1) .zero 2 0x070#12 0) ∧
    Runs (.fclass (op (.p 1) (.v 0) .imm .zero 2 0 0x3FF)) 0x149 (op (.p 1) (.v 0) .imm .zero 2 0 0x3FF) ∧
    Runs (.addc (op (.v 1) (.v 2) (.v 3) (.p 1) 1 0 0)) 0x041 (op (.v 1) (.v 2) (.v 3) (.p 1) 1 0 0) ∧
    Runs (.subb (op (.v 1) (.v 2) (.v 3) (.p 7) 1 0 0)) 0x043 (op (.v 1) (.v 2) (.v 3) (.p 7) 1 0 0) :=
  ⟨runs (by decide), runs (by decide), runs (by decide), runs (by decide), runs (by decide), runs (by decide), runs (by decide), runs (by decide), runs (by decide), runs (by decide)⟩

theorem witness_FloatResults :
    Runs (.fadd (o2 2)) 0x140 (o2 2) ∧
    Runs (.fsub (o2 0)) 0x141 (o2 0) ∧
    Runs (.fmul (op (.v 126) (.v 0) (.v 2) .zero 3 0x300#12 0)) 0x142 (op (.v 126) (.v 0) (.v 2) .zero 3 0x300#12 0) ∧
    Runs (.ffma (o3 2)) 0x143 (o3 2) ∧
    Runs (.fmin (o2 2)) 0x144 (o2 2) ∧
    Runs (.fmax (o2 1)) 0x145 (o2 1) ∧
    Runs (.frnd (o1 2)) 0x14A (o1 2) ∧
    Runs (.ffrac (o1 2)) 0x14B (o1 2) :=
  ⟨runs (by decide), runs (by decide), runs (by decide), runs (by decide), runs (by decide), runs (by decide), runs (by decide), runs (by decide)⟩

theorem witness_LongResults :
    Runs (.fdiv (o2 2)) 0x146 (o2 2) ∧
    Runs (.rcp (o1 2)) 0x180 (o1 2) ∧
    Runs (.rsq (o1 0)) 0x181 (o1 0) ∧
    Runs (.sqrt (op (.v 126) (.v 0) .zero .zero 3 0 0)) 0x182 (op (.v 126) (.v 0) .zero .zero 3 0 0) ∧
    Runs (.exp2 (o1 2)) 0x183 (o1 2) ∧
    Runs (.log2 (o1 2)) 0x184 (o1 2) ∧
    Runs (.sin (o1 1)) 0x185 (o1 1) ∧
    Runs (.cos (o1 2)) 0x186 (o1 2) ∧
    Runs (.tanh (o1 2)) 0x187 (o1 2) ∧
    Runs (.erf (o1 2)) 0x188 (o1 2) :=
  ⟨runs (by decide), runs (by decide), runs (by decide), runs (by decide), runs (by decide), runs (by decide), runs (by decide), runs (by decide), runs (by decide), runs (by decide)⟩

theorem witness_CompactResults :
    (wT.v 0).poison = false ∧ (wT.v 63).poison = false ∧ (wT.v 62).poison = false ∧
    Serves wS wI 0 wC wG wT 0x040 (compactOps (.addS32Compact 63 0 62)) ∧
    Serves wS wI 0 wC wG wT 0x042 (compactOps (.subS32Compact 63 0 62)) ∧
    Serves wS wI 0 wC wG wT 0x044 (compactOps (.mulS32Compact 63 0 62)) ∧
    Serves wS wI 0 wC wG wT 0x048 (compactOps (.minS32Compact 63 0 62)) ∧
    Serves wS wI 0 wC wG wT 0x049 (compactOps (.maxS32Compact 63 0 62)) ∧
    Serves wS wI 0 wC wG wT 0x048 (compactOps (.minZ32Compact 63 0 62)) ∧
    Serves wS wI 0 wC wG wT 0x049 (compactOps (.maxZ32Compact 63 0 62)) ∧
    Serves wS wI 0 wC wG wT 0x090 (compactOps (.andCompact 63 0 62)) ∧
    Serves wS wI 0 wC wG wT 0x091 (compactOps (.orCompact 63 0 62)) ∧
    Serves wS wI 0 wC wG wT 0x092 (compactOps (.xorCompact 63 0 62)) ∧
    Serves wS wI 0 wC wG wT 0x094 (compactOps (.andnCompact 63 0 62)) ∧
    Serves wS wI 0 wC wG wT 0x080 (compactOps (.shlCompact 63 0 62)) ∧
    Serves wS wI 0 wC wG wT 0x081 (compactOps (.shrCompact 63 0 62)) ∧
    Serves wS wI 0 wC wG wT 0x082 (compactOps (.sarCompact 63 0 62)) ∧
    Serves wS wI 0 wC wG wT 0x140 (compactOps (.faddCompact 63 0 62)) ∧
    Serves wS wI 0 wC wG wT 0x141 (compactOps (.fsubCompact 63 0 62)) ∧
    Serves wS wI 0 wC wG wT 0x142 (compactOps (.fmulCompact 63 0 62)) ∧
    Serves wS wI 0 wC wG wT 0x144 (compactOps (.fminCompact 63 0 62)) ∧
    Serves wS wI 0 wC wG wT 0x145 (compactOps (.fmaxCompact 63 0 62)) ∧
    Serves wS wI 0 wC wG wT 0x046 (compactOps (.madS32Compact 63 0 62 63)) ∧
    Serves wS wI 0 wC wG wT 0x143 (compactOps (.ffmaCompact 63 0 62 63)) ∧
    Serves wS wI 0 wC wG wT 0x0C0 (compactOps (.movCompact 63 0)) :=
  ⟨rfl, rfl, rfl, serves _ _ rfl, serves _ _ rfl, serves _ _ rfl, serves _ _ rfl, serves _ _ rfl, serves _ _ rfl, serves _ _ rfl, serves _ _ rfl, serves _ _ rfl, serves _ _ rfl, serves _ _ rfl, serves _ _ rfl, serves _ _ rfl, serves _ _ rfl, serves _ _ rfl, serves _ _ rfl, serves _ _ rfl, serves _ _ rfl, serves _ _ rfl, serves _ _ rfl, serves _ _ rfl, serves _ _ rfl⟩

theorem witness_CompactComparesAndImmediates :
    (wT.v 0).poison = false ∧ (wT.v 63).poison = false ∧ (wT.v 62).poison = false ∧
    Serves wS wI 0 wC wG wT 0x0C3 (compactOps (.cmpEqS32Compact 7 0 63)) ∧
    Serves wS wI 0 wC wG wT 0x0C3 (compactOps (.cmpNeS32Compact 7 0 63)) ∧
    Serves wS wI 0 wC wG wT 0x0C3 (compactOps (.cmpLtS32Compact 7 0 63)) ∧
    Serves wS wI 0 wC wG wT 0x0C3 (compactOps (.cmpLeS32Compact 7 0 63)) ∧
    Serves wS wI 0 wC wG wT 0x0C3 (compactOps (.cmpGtS32Compact 7 0 63)) ∧
    Serves wS wI 0 wC wG wT 0x0C3 (compactOps (.cmpGeS32Compact 7 0 63)) ∧
    Serves wS wI 0 wC wG wT 0x0C3 (compactOps (.cmpLtZ32Compact 7 0 63)) ∧
    Serves wS wI 0 wC wG wT 0x0C3 (compactOps (.cmpLeZ32Compact 7 0 63)) ∧
    Serves wS wI 0 wC wG wT 0x0C3 (compactOps (.cmpGtZ32Compact 7 0 63)) ∧
    Serves wS wI 0 wC wG wT 0x0C3 (compactOps (.cmpGeZ32Compact 7 0 63)) ∧
    Serves wS wI 0 wC wG wT 0x0C3 (compactOps (.cmpEqImmCompact 7 0 0x800#12)) ∧
    Serves wS wI 0 wC wG wT 0x0C3 (compactOps (.cmpNeImmCompact 7 0 0x800#12)) ∧
    Serves wS wI 0 wC wG wT 0x0C3 (compactOps (.cmpLtImmCompact 7 0 0x800#12)) ∧
    Serves wS wI 0 wC wG wT 0x0C3 (compactOps (.cmpLeImmCompact 7 0 0x800#12)) ∧
    Serves wS wI 0 wC wG wT 0x0C3 (compactOps (.cmpGtImmCompact 7 0 0x800#12)) ∧
    Serves wS wI 0 wC wG wT 0x0C3 (compactOps (.cmpGeImmCompact 7 0 0x800#12)) ∧
    Serves wS wI 0 wC wG wT 0x040 (compactOps (.addImmCompact 63 0 0xFFF#12)) ∧
    Serves wS wI 0 wC wG wT 0x044 (compactOps (.mulImmCompact 63 0 0xFFF#12)) ∧
    Serves wS wI 0 wC wG wT 0x090 (compactOps (.andImmCompact 63 0 0xFFF#12)) ∧
    Serves wS wI 0 wC wG wT 0x091 (compactOps (.orImmCompact 63 0 0xFFF#12)) ∧
    Serves wS wI 0 wC wG wT 0x092 (compactOps (.xorImmCompact 63 0 0xFFF#12)) ∧
    Serves wS wI 0 wC wG wT 0x080 (compactOps (.shlImmCompact 63 0 0xFFF#12)) ∧
    Serves wS wI 0 wC wG wT 0x081 (compactOps (.shrImmCompact 63 0 0xFFF#12)) ∧
    Serves wS wI 0 wC wG wT 0x082 (compactOps (.sarImmCompact 63 0 0xFFF#12)) ∧
    Serves wS wI 0 wC wG wT 0x0C1 (compactOps (.moviCompact 63 0x20000#18)) :=
  ⟨rfl, rfl, rfl, serves _ _ rfl, serves _ _ rfl, serves _ _ rfl, serves _ _ rfl, serves _ _ rfl, serves _ _ rfl, serves _ _ rfl, serves _ _ rfl, serves _ _ rfl, serves _ _ rfl, serves _ _ rfl, serves _ _ rfl, serves _ _ rfl, serves _ _ rfl, serves _ _ rfl, serves _ _ rfl, serves _ _ rfl, serves _ _ rfl, serves _ _ rfl, serves _ _ rfl, serves _ _ rfl, serves _ _ rfl, serves _ _ rfl, serves _ _ rfl, serves _ _ rfl⟩

/-- A slot of the launch is bound. -/
theorem bound (n : Nat) (h : n < 8) : unbound (Env.of wS wC wG) n = false := by
  have : ∀ n < 8, unbound (Env.of wS wC wG) n = false := by decide
  exact this n h

/-- The group's launch has no slot bound (R147). -/
def wSu : State := { wS with launches := [{ wL with slots := [] }] }

/-- The thread in a state whose slots are not bound. -/
theorem servesUnbound (opc : Nat) (o : Ops) (h : guardVal o wT = ⟨true, false⟩) : Serves wSu wI 0 wC wG wT opc o :=
  ⟨rfl, rfl, fun _ => rfl, rfl, h, rfl⟩

/-- cvt with a SUB, of one word of source. -/
def oCvt (sub : BitVec 4) (t : Fin 8) : Ops := op (.v 126) (.v 0) .zero .zero t (sub.setWidth 12 <<< 4) 0

theorem witness_ConversionResults :
    (∀ sub : Fin 14, opSub (oCvt (BitVec.ofFin (sub.castLE (by decide))) 0) = sub.val ∧
      Runs (.cvt (oCvt (BitVec.ofFin (sub.castLE (by decide))) 0)) 0x190 (oCvt (BitVec.ofFin (sub.castLE (by decide))) 0)) ∧
    (unbound (Env.of wS wC wG) 7 = false ∧ Runs (.cvt (oCvt 14 7)) 0x190 (oCvt 14 7) ∧ Runs (.cvt (oCvt 15 7)) 0x190 (oCvt 15 7)) ∧
    Runs (.cvtSc (o2 7)) 0x191 (o2 7) ∧ Runs (.bscale (o1 7)) 0x192 (o1 7) ∧ Runs (.pack (o2 7)) 0x193 (o2 7) ∧
    (((Env.of wS wC wG).slot 7).elem ≠ .none ∧ opSub (o1 7) < 32 / elemWidth ((Env.of wS wC wG).slot 7).elem ∧ Runs (.unpack (o1 7)) 0x194 (o1 7)) ∧
    (32 / elemWidth ((Env.of wS wC wG).slot 7).elem ≤ opSub (oCvt 2 7) ∧ Runs (.unpack (oCvt 2 7)) 0x194 (oCvt 2 7)) ∧
    (((Env.of wSu wC wG).slot 7).elem = .none ∧ Serves wSu wI 0 wC wG wT 0x190 (oCvt 14 7) ∧ Serves wSu wI 0 wC wG wT 0x194 (o1 7)) :=
  ⟨fun sub => ⟨by revert sub; decide, runs (by revert sub; decide)⟩, ⟨bound 7 (by decide), runs (by decide), runs (by decide)⟩, runs (by decide), runs (by decide), runs (by decide),
   ⟨by decide, by decide, runs (by decide)⟩, ⟨by decide, runs (by decide)⟩, by decide, servesUnbound _ _ rfl, servesUnbound _ _ rfl⟩

/-- The active threads of the pass are the one thread; a uniform operation has the whole front. -/
theorem servesAll (opc : Nat) (o : Ops) (h : guardVal o wT = ⟨true, false⟩ ∧ crossActive o wS wI [0] = ([wT], none)) : ServesAll wS wI wC wG [wT] opc o where
  cur := rfl
  core := rfl
  group := rfl
  active := fun _ => h.2
  front := fun _ => ⟨rfl, 0, wT, rfl, rfl, rfl⟩
  slots := by intro k hk t ht; simp [wI] at hk; subst hk; cases ht; rfl
  upset := by intro t ht; simp at ht; subst ht; rfl
  whole := by intro k hk t ht hg; simp [wI] at hk; subst hk; cases ht; exact absurd (h.1.symm.trans hg) (by decide)

/-- A cross-thread operation that the front can issue. -/
structure RunsAll (ins : Instr) (opc : Nat) (o : Ops) : Prop where
  serves : ServesAll wS wI wC wG [wT] opc o
  detail : ins.detail = none
  reads : ∀ t ∈ [wT], Readable opc o t wG

theorem runsAll {ins : Instr} {opc : Nat} {o : Ops} (h : guardVal o wT = ⟨true, false⟩ ∧ crossActive o wS wI [0] = ([wT], none))
    (h2 : ins.detail = none ∧ operandHalt wT wG o (widths opc o) 0 0 0 = none) : RunsAll ins opc o :=
  ⟨servesAll opc o h, h2.1, by intro t ht; simp at ht; subst ht; exact h2.2⟩

/-- The one thread is the source of the broadcast, and its source can be read. -/
def PicksOwn (o : Ops) : Prop :=
  poisonOf wT wG o.b 1 0 = none ∧ (rd32 (Env.of wS wC wG) o wT wG o.b).toNat = 0 ∧ wC.threadAt wG 0 = some wT ∧ wT.live = true ∧ awayChunk wT o.a (crossWords o) = none ∧
    poisonOf wT wG o.a (crossWords o) 0 = none ∧ misaligned o.d (crossWords o) = false ∧ misaligned o.a (crossWords o) = false

theorem witness_CrossResults :
    RunsAll (.xprev (op (.v 1) (.v 2) .imm .zero 2 0 5)) 0x100 (op (.v 1) (.v 2) .imm .zero 2 0 5) ∧
    RunsAll (.xscan (op (.v 1) (.v 2) .imm .zero 0 0x080#12 5)) 0x101 (op (.v 1) (.v 2) .imm .zero 0 0x080#12 5) ∧
    RunsAll (.xred (op (.g 63) (.v 2) .zero .zero 0 0 0)) 0x102 (op (.g 63) (.v 2) .zero .zero 0 0 0) ∧
    RunsAll (.xput (op .zero (.v 1) (.v 2) .zero 2 0 0)) 0x105 (op .zero (.v 1) (.v 2) .zero 2 0 0) ∧
    RunsAll (.xget (op (.v 1) (.v 2) .zero .zero 2 0 0)) 0x106 (op (.v 1) (.v 2) .zero .zero 2 0 0) ∧
    RunsAll (.vote (op (.q 3) (.p 1) .zero .zero 0 0 0)) 0x107 (op (.q 3) (.p 1) .zero .zero 0 0 0) ∧
    RunsAll (.first (op (.g 0) .zero .zero .zero 0 0 0)) 0x108 (op (.g 0) .zero .zero .zero 0 0 0) ∧
    RunsAll (.actc (op (.g 0) .zero .zero .zero 0 0 0)) 0x109 (op (.g 0) .zero .zero .zero 0 0 0) ∧
    ((Instr.xbcast (op (.v 1) (.v 2) .imm .zero 2 0 0)).detail = none ∧ ServesAll wS wI wC wG [wT] 0x103 (op (.v 1) (.v 2) .imm .zero 2 0 0) ∧
      PicksOwn (op (.v 1) (.v 2) .imm .zero 2 0 0)) ∧
    ((Instr.xpick (op (.g 1) (.v 2) .imm .zero 2 0 0)).detail = none ∧ ServesAll wS wI wC wG [wT] 0x104 (op (.g 1) (.v 2) .imm .zero 2 0 0) ∧
      PicksOwn (op (.g 1) (.v 2) .imm .zero 2 0 0)) :=
  ⟨runsAll ⟨rfl, rfl⟩ (by decide), runsAll ⟨rfl, rfl⟩ (by decide), runsAll ⟨rfl, rfl⟩ (by decide), runsAll ⟨rfl, rfl⟩ (by decide), runsAll ⟨rfl, rfl⟩ (by decide),
   runsAll ⟨rfl, rfl⟩ (by decide), runsAll ⟨rfl, rfl⟩ (by decide), runsAll ⟨rfl, rfl⟩ (by decide),
   ⟨by decide, servesAll _ _ ⟨rfl, rfl⟩, by decide, by decide, by decide, by decide, by decide, by decide, by decide, by decide⟩,
   by decide, servesAll _ _ ⟨rfl, rfl⟩, by decide, by decide, by decide, by decide, by decide, by decide, by decide, by decide⟩

/-! ### Memory operations -/

/-- The check of an access of the thread, once it has retired. -/
def chk (sp acc a n : Nat) : State × Except Halt Found := (retiredAll wS wI).checkAccess 0 0 ((retiredAll wS wI).ctxOf 0) (retire wT) sp acc a n

theorem found_gm (acc : Nat) (h : acc < 3) : ∃ s1 ps, chk 0 acc 0 4 = (s1, .ok (.parts ps)) ∧
    s1.roomFor wI .load ps = true ∧ s1.roomFor wI (.store [1, 2, 3, 4]) ps = true ∧ s1.roomFor wI (.update 0 1 0 false) ps = true := by
  match acc, h with
  | 0, _ => exact ⟨_, _, rfl, by decide, by decide, by decide⟩
  | 1, _ => exact ⟨_, _, rfl, by decide, by decide, by decide⟩
  | 2, _ => exact ⟨_, _, rfl, by decide, by decide, by decide⟩
theorem found_sp (acc n : Nat) (h : n = 4 ∨ n = 16) : ∃ s1 ps, chk 1 acc 0 n = (s1, .ok (.parts ps)) ∧
    s1.roomFor wI .load ps = true ∧ s1.roomFor wI (.store [1, 2, 3, 4]) ps = true := by
  rcases h with rfl | rfl
  · exact ⟨_, _, rfl, by decide, by decide⟩
  · exact ⟨_, _, rfl, by decide, by decide⟩
/-- The thread's own first register, through the register space. -/
theorem found_rg (acc : Nat) (h : acc < 2) : ∃ s1 cl co tid w, chk 3 acc 0 4 = (s1, .ok (.reg cl co tid w)) ∧ wT.level = .user ∧
    s1.roomFor wI (.rgLoad cl co tid w) [] = true := by
  match acc, h with
  | 0, _ => exact ⟨_, _, _, _, _, rfl, rfl, by decide⟩
  | 1, _ => exact ⟨_, _, _, _, _, rfl, rfl, by decide⟩
/-- A prefetch of an address that is mapped, and of one that is not. -/
theorem found_prf : (canonicalVa 0 = true ∧ (retiredAll wS wI).onCode (Env.of wS wC wG).ctx 0 = false ∧
      ∃ s1 ps, (retiredAll wS wI).checkGm 0 0 ((retiredAll wS wI).ctxOf 0) ⟨0, true, false, false⟩ 0 1 = (s1, .ok ps) ∧ s1.roomFor wI .prefetch ps = true) ∧
    (canonicalVa (2 ^ 40) = true ∧ (retiredAll wS wI).onCode (Env.of wS wC wG).ctx (2 ^ 40) = false ∧
      ∃ s1 x, (retiredAll wS wI).checkGm 0 0 ((retiredAll wS wI).ctxOf 0) ⟨0, true, false, false⟩ (2 ^ 40) 1 = (s1, .error x)) ∧
    canonicalVa (2 ^ 60) = false := by
  refine ⟨⟨by decide, by decide, _, _, rfl, by decide⟩, ⟨by decide, by decide, _, _, rfl⟩, by decide⟩

/-- A load that issues: the operand checks, and the address. -/
def LoadFits (ins : Instr) (o : Ops) (sp n : Nat) : Prop :=
  Serves wS wI 0 wC wG wT 0x1C0 o ∧ ins.detail = none ∧ operandHalt wT wG o (widths 0x1C0 o) 1 1 0 = none ∧ spOf o = sp ∧
    (effAddr (Env.of wS wC wG) o wT wG o.imm).toNat = 0 ∧ memBytes o.t.val = n
/-- A store that issues. -/
def StoreFits (ins : Instr) (o : Ops) (sp n : Nat) : Prop :=
  Serves wS wI 0 wC wG wT 0x1C1 o ∧ ins.detail = none ∧ operandHalt wT wG o (widths 0x1C1 o) 1 1 2 = none ∧ spOf o = sp ∧
    (effAddr (Env.of wS wC wG) o wT wG (if o.b = .imm ∨ o.c = .imm then 0 else o.imm)).toNat = 0 ∧ memBytes o.t.val = n

theorem witness_LoadsAndStoresIssue :
    LoadFits (.ld (op (.v 127) (.v 0) .zero .zero 4 0 0)) (op (.v 127) (.v 0) .zero .zero 4 0 0) 0 4 ∧
    LoadFits (.ld (op (.v 124) (.v 0) (.v 1) .zero 6 0x040#12 0)) (op (.v 124) (.v 0) (.v 1) .zero 6 0x040#12 0) 1 16 ∧
    LoadFits (.ld (op (.v 1) (.v 0) .zero .zero 4 0x0C0#12 0)) (op (.v 1) (.v 0) .zero .zero 4 0x0C0#12 0) 3 4 ∧
    LoadFits (.ldGmCompact 63 0 1) (compactOps (.ldGmCompact 63 0 1)) 0 4 ∧ LoadFits (.ldSpCompact 63 0 1) (compactOps (.ldSpCompact 63 0 1)) 1 4 ∧
    LoadFits (.ldGmImmCompact 63 0 0) (compactOps (.ldGmImmCompact 63 0 0)) 0 4 ∧ LoadFits (.ldSpImmCompact 63 0 0) (compactOps (.ldSpImmCompact 63 0 0)) 1 4 ∧
    StoreFits (.st (op .zero (.v 0) .zero (.v 127) 4 0 0)) (op .zero (.v 0) .zero (.v 127) 4 0 0) 0 4 ∧
    StoreFits (.st (op .zero (.v 0) .zero .imm 4 0x040#12 7)) (op .zero (.v 0) .zero .imm 4 0x040#12 7) 1 4 ∧
    StoreFits (.st (op .zero (.v 0) .zero (.v 2) 4 0x0C0#12 0)) (op .zero (.v 0) .zero (.v 2) 4 0x0C0#12 0) 3 4 ∧
    StoreFits (.stGmCompact 63 0 1) (compactOps (.stGmCompact 63 0 1)) 0 4 ∧ StoreFits (.stSpCompact 63 0 1) (compactOps (.stSpCompact 63 0 1)) 1 4 ∧
    StoreFits (.stGmImmCompact 63 0 0) (compactOps (.stGmImmCompact 63 0 0)) 0 4 ∧ StoreFits (.stSpImmCompact 63 0 0) (compactOps (.stSpImmCompact 63 0 0)) 1 4 := by
  refine ⟨?_, ?_, ?_, ?_, ?_, ?_, ?_, ?_, ?_, ?_, ?_, ?_, ?_, ?_⟩ <;> exact ⟨serves _ _ rfl, by decide⟩

/-- An atomic, a reduction, a constant load, hints and fences that issue; addresses as found_gm has them. -/
theorem witness_OtherAccessesIssue :
    (let o := op (.v 2) (.v 0) (.v 127) .zero 4 0 0
     Serves wS wI 0 wC wG wT 0x1C4 o ∧ (Instr.atom o).detail = none ∧ operandHalt wT wG o (widths 0x1C4 o) 1 2 2 = none ∧ spOf o = 0 ∧ longDests wT o.d (widths 0x1C4 o).d ≠ []) ∧
    (let o := op .zero (.v 0) .imm .zero 4 0x000#12 0xFFFFFFFF
     Serves wS wI 0 wC wG wT 0x1C5 o ∧ (Instr.red o).detail = none ∧ operandHalt wT wG o (widths 0x1C5 o) 1 2 2 = none) ∧
    (let o := op (.v 1) .imm .zero .zero 4 0 4
     Runs (.ldk o) 0x1C2 o ∧ wS.image? wT.image = some wImg ∧ (wS.proc? wT.image wT.path.proc).map (fun p => p.poolLen) = some 8 ∧
      (rd32 (Env.of wS wC wG) o wT wG o.a).toNat + memBytes o.t.val = 8) ∧
    (let o := op .zero (.v 0) .zero .zero 0 0 0
     Serves wS wI 0 wC wG wT 0x1C3 o ∧ (Instr.prf o).detail = none ∧ operandHalt wT wG o (widths 0x1C3 o) 1 1 0 = none) ∧
    (let o := op .zero (.v 0) (.v 2) .zero 0 0 0
     Serves wS wI 0 wC wG wT 0x1CA o ∧ (Instr.cctl o).detail = none ∧ poisonOf wT wG o.a 2 1 = none ∧ poisonOf wT wG o.b 2 0 = none) ∧
    (let o := op .zero .zero .zero .zero 0 0x03E#12 0
     Serves wS wI 0 wC wG wT 0x1C9 o ∧ (Instr.fence o).detail = none) ∧
    (let o := op .zero (.v 0) (.v 2) .zero 0 0x010#12 0
     Serves wS wI 0 wC wG wT 0x1C8 o ∧ (Instr.fenceR o).detail = none ∧ poisonOf wT wG o.a (widths 0x1C8 o).a 1 = none ∧ poisonOf wT wG o.b (widths 0x1C8 o).b 0 = none) := by
  refine ⟨⟨serves _ _ rfl, by decide⟩, ⟨serves _ _ rfl, by decide⟩, ⟨runs (by decide), by decide⟩, ⟨serves _ _ rfl, by decide⟩, ⟨serves _ _ rfl, by decide⟩,
    ⟨serves _ _ rfl, by decide⟩, ⟨serves _ _ rfl, by decide⟩⟩

/-! ### Accesses whose check fails -/

/-- The thread with an address in v0 and v1. -/
def wTa (a : Nat) : Thread := { wT with stk := [(0, ⟨BitVec.ofNat 32 a, false⟩), (1, ⟨BitVec.ofNat 32 (a / 2 ^ 32), false⟩)] }
/-- The state with it, in the state s. -/
def wSa (s : State) (a : Nat) : State := { s with cores := [{ wC with threads := [wTa a] }] }
/-- An access with the address in v0 and v1, of a type and a space. -/
def oAcc (acc : Nat) (t : Fin 8) (sp : BitVec 12) : Ops :=
  if acc = 0 then op (.v 4) (.v 0) .zero .zero t (sp <<< 6) 0 else if acc = 1 then op .zero (.v 0) .zero (.v 4) t (sp <<< 6) 0 else op (.v 4) (.v 0) (.v 6) .zero t (sp <<< 6) 0
/-- Its instruction. -/
def iAcc (acc : Nat) (t : Fin 8) (sp : BitVec 12) : Instr :=
  if acc = 0 then .ld (oAcc acc t sp) else if acc = 1 then .st (oAcc acc t sp) else .atom (oAcc acc t sp)
/-- The operation's code. -/
def nAcc (acc : Nat) : Nat := 0x1C0 + (if acc = 2 then 4 else acc)

/-- The thread can serve the access in a state that differs from wS in no core and no mismatch. -/
theorem servesA (s : State) (acc a : Nat) (t : Fin 8) (sp : BitVec 12) (h : s.cur = some wI ∧ s.upsets = []) :
    Serves (wSa s a) wI 0 { wC with threads := [wTa a] } wG (wTa a) (nAcc acc) (oAcc acc t sp) := by
  refine ⟨h.1, rfl, fun _ => rfl, rfl, ?_, ?_⟩
  · unfold oAcc
    repeat' split
    all_goals rfl
  · show s.upsets.find? _ = none
    rw [h.2]
    rfl

/-- The operand checks pass, and the effective address is a. -/
def Reaches (acc a : Nat) (t : Fin 8) (sp : BitVec 12) : Bool :=
  let o := oAcc acc t sp
  (iAcc acc t sp).detail.isNone &&
    (operandHalt (wTa a) wG o (widths (nAcc acc) o) (sourceRoles (nAcc acc)).1 (sourceRoles (nAcc acc)).2.1 (sourceRoles (nAcc acc)).2.2).isNone && spOf o == sp.toNat &&
    (if acc = 0 then (effAddr (Env.of wS wC wG) o (wTa a) wG 0).toNat else if acc = 1 then storeEa o (Env.of wS wC wG) (wTa a) wG
     else atomEa o (Env.of wS wC wG) (wTa a) wG) == a

/-- The check of global memory that an access of the thread makes, in a state. -/
def gmChk (s : State) (acc a n : Nat) : State × Except PageFault (List Part) :=
  let r := retiredAll (wSa s a) wI
  r.checkGm 0 0 (r.ctxOf 0) ⟨acc, acc != 1, acc != 0, recordAccess (r.ctxOf 0) (retire (wTa a)) a n && acc != 2⟩ a n

/-- The context with traps taken or resolved; a state whose mapped GiB has this leaf. -/
def wSx (trap : Bool) : State := { wS with ctxs := [{ wX with trapMode := trap }] }
def wSleaf (e : DWord) : State := { wS with tlb := [⟨0, 0, 0, 0, 2 ^ 30, e⟩] }

/-- What a check of global memory says: the kind of its fault in the order of R264, whether its entry was invalid, and the byte. -/
def faultOf (x : State × Except PageFault (List Part)) : Option (Nat × Bool × Nat) :=
  match x.2 with
  | .error (.translation b v) => some (6, b, v)
  | .error (.permission v) => some (7, false, v)
  | .error (.protection v) => some (8, false, v)
  | .error (.unreachable v) => some (9, false, v)
  | .ok _ => none

/-- Every channel of stack 0 is under a soft repair, and no translation is held. -/
def wSaway : State :=
  { wS with tlb := [], pkg := { wS.pkg with repairing := (List.range 32).map (fun ch => ⟨0, ch, 0⟩) } }

theorem away (n : Nat) : ((List.range 32).map (fun ch => (⟨0, ch, 0⟩ : Repair))).any (fun r => r.stack == 0 && r.channel == n % 32) = true := by
  simp only [List.any_map, List.any_eq_true, List.mem_range]
  exact ⟨n % 32, Nat.mod_lt _ (by decide), by simp⟩

/-- A table that cannot be read now ends a walk at once, with nothing kept. -/
theorem walk_waits {s : State} {c : Context} {va k t b : Nat} (h : s.tableAt c t = some b) (h2 : s.stallsAt (b + 8 * bits va (12 + 9 * (k + 1)) 9) = true) :
    s.walk c va (k + 1) t = .wait ∧ s.walkTables c va (k + 1) t = [] := by
  constructor
  · unfold State.walk; simp [h, h2]
  · unfold State.walkTables; simp [h, h2]

/-- A page of which the table cannot be read now is found so (R369). -/
theorem unreachable_found (acc : Nat) : faultOf (gmChk wSaway acc 0 4) = some (9, false, 0) := by
  let r := retiredAll (wSa wSaway 0) wI
  have hq : r.stallsAt (Config.hbmBase + 8 * bits 0 (12 + 9 * (3 + 1)) 9) = true := by
    simp only [State.stallsAt, State.quiesced, Bool.or_eq_true, Bool.and_eq_true]
    exact .inr ⟨⟨by decide, by decide⟩, away _⟩
  have hw := walk_waits (s := r) (c := r.ctxOf 0) (va := 0) (k := 3) (t := 0) (b := Config.hbmBase) (by decide +kernel) hq
  have hf : r.walkFrom 0 (r.ctxOf 0) 0 = (r, .wait) := by
    unfold State.walkFrom
    rw [show r.walkStart 0 (r.ctxOf 0) 0 [0, 1, 2, 3] = (r, 4, 0) from rfl]
    dsimp only
    rw [hw.1, hw.2]
    rfl
  have hl : ∀ d, r.tlbLoad 0 0 (r.ctxOf 0) 0 d = (r, .wait) := by
    intro d
    unfold State.tlbLoad
    rw [hf]
  have ht : ∀ w, r.translate 0 0 (r.ctxOf 0) 0 w = (r, .error .wait) := by
    intro w
    cases w
    · unfold State.translate
      rw [if_neg (by decide)]
      dsimp only
      rw [show r.tlbUse 0 0 (r.ctxOf 0).ctx (0 % 2 ^ 57) false = none from rfl, if_neg (by decide +kernel)]
      simp [hl]
    · unfold State.translate
      rw [if_neg (by decide)]
      dsimp only
      rw [show r.tlbUse 0 0 (r.ctxOf 0).ctx (0 % 2 ^ 57) true = none from rfl, if_neg (by decide +kernel),
        show (if true = true then r.tlbForget (r.ctxOf 0).ctx (0 % 2 ^ 57) else r) = r from rfl]
      simp [hl]
  have hc : ∀ u : GmUse, r.checkPage 0 0 (r.ctxOf 0) u 0 = (r, .error (.unreachable 0)) := by
    intro u
    unfold State.checkPage
    rw [if_neg (by decide +kernel), ht]
  show faultOf (r.checkGm 0 0 (r.ctxOf 0) _ 0 4) = _
  unfold State.checkGm
  rw [if_pos (by decide), hc]
  rfl

/-- The protected context whose first GiB is mapped to its carve-out. -/
def wSprot : State :=
  { wSleaf (0x00100000000008D3 + BitVec.ofNat 64 (wS.partCap - 2 ^ 30)) with ctxs := [{ wX with prot := true }], parts := [{ idx := 0, ctxList := [0], carve := 2 ^ 30 }] }
/-- A second core with the same thread, and the state of both. -/
def wStwo (a : Nat) : State := { wSa wS a with cores := [{ wC with threads := [wTa a] }, { wC with co := 1, threads := [wTa a] }] }
/-- The target of a register access of the thread in a state. -/
def regTarget (s : State) (a : Nat) : Option Thread :=
  let r := retiredAll s wI
  let c := r.core 0 (a / 2 ^ 25 % 2 ^ 7)
  (c.group? (a / 2 ^ 19 % 2 ^ 6)).bind (fun h => c.threadAt h (a / 2 ^ 14 % 2 ^ 5))
/-- The state with every request of the core taken by an access that is stalled on a page. -/
def wSfull : State := { wS with stalls := List.replicate 2048 { id := 9, part := 0, cl := 0, ctx := 0, va := 0, src := 0, acc := .read, who := some (0, 0, 0) } }

/-- An address that no page maps, in both modes, a code page, and a page of the carve-out. -/
theorem pages : ∀ acc < 3, (Reaches acc (2 ^ 40) 4 0 ∧ ∀ trap, faultOf (gmChk (wSx trap) acc (2 ^ 40) 4) = some (6, true, 2 ^ 40)) ∧
    (Reaches acc Config.codeVa 4 0 ∧ faultOf (gmChk wS acc Config.codeVa 4) = some (7, false, Config.codeVa)) ∧
    (Reaches acc 0 4 0 ∧ faultOf (gmChk wSprot acc 0 4) = some (8, false, 0)) := by decide +kernel

/-- Each case of a failing check has a state and an access that meet it, by space: addresses that are no addresses, pages, places outside a block's
scratchpad, a window or a frame, misaligned addresses; and a core whose requests are all taken. -/
theorem witness_ChecksFail :
    (∀ acc < 3, Reaches acc (2 ^ 60) 4 0 ∧ canonicalVa (2 ^ 60) = false) ∧
    (∀ acc < 2, Reaches acc (2 ^ 56 - 2) 4 0 ∧ canonicalVa (2 ^ 56 - 2) = true ∧ canonicalVa (2 ^ 56) = false) ∧
    (Reaches 2 2 4 0 ∧ 2 % 4 ≠ 0) ∧
    (∀ acc < 3, (Reaches acc (2 ^ 40) 4 0 ∧ ∀ trap, faultOf (gmChk (wSx trap) acc (2 ^ 40) 4) = some (6, true, 2 ^ 40)) ∧
      (Reaches acc Config.codeVa 4 0 ∧ faultOf (gmChk wS acc Config.codeVa 4) = some (7, false, Config.codeVa)) ∧
      (Reaches acc 0 4 0 ∧ faultOf (gmChk wSprot acc 0 4) = some (8, false, 0)) ∧ faultOf (gmChk wSaway acc 0 4) = some (9, false, 0)) ∧
    (∀ acc < 3, (Reaches acc (2 ^ 20) 4 1 ∧ (wSa wS 0).spPart 0 0 (2 ^ 20) 4 = none) ∧
      (Reaches acc 2 4 1 ∧ ((wSa wS 0).spPart 0 0 2 4).isSome = true ∧ 2 % 4 ≠ 0)) ∧
    (∀ acc < 3, (Reaches acc 64 4 2 ∧ bkPart wX 64 4 = none) ∧ (Reaches acc 2 4 2 ∧ (bkPart wX 2 4).isSome = true ∧ 2 % 4 ≠ 0)) ∧
    (∀ acc < 2, (Reaches acc (2 ^ 19) 4 3 ∧ regTarget (wSa wS (2 ^ 19)) (2 ^ 19) = none) ∧
      (Reaches acc 127 5 3 ∧ (regTarget (wSa wS 127) 127).any (fun x => x.live && !decide (127 + 8 / 4 ≤ wS.frameOf x)) = true) ∧
      (Reaches acc (2 ^ 25) 4 3 ∧ (regTarget (wStwo (2 ^ 25)) (2 ^ 25)).any (fun x => x.live && decide (0 + 4 / 4 ≤ wS.frameOf x)) = true) ∧
      (Reaches acc 1 5 3 ∧ (regTarget (wSa wS 1) 1).any (fun x => x.live && decide (1 + 8 / 4 ≤ wS.frameOf x)) = true)) ∧
    (∀ acc < 3, Reaches acc 0 4 1 ∧ (match (retiredAll (wSa wSfull 0) wI).checkAccess 0 0 wX (retire (wTa 0)) 1 acc 0 4 with
      | (s1, .ok (.parts ps)) => s1.roomFor wI (if acc = 0 then .load else if acc = 1 then .store [] else .update 0 0 0 false) ps
      | _ => true) = false) := by
  exact ⟨by decide +kernel, by decide +kernel, by decide +kernel, fun acc h => ⟨(pages acc h).1, (pages acc h).2.1, (pages acc h).2.2, unreachable_found acc⟩, by decide +kernel, by decide +kernel, by decide +kernel, by decide +kernel⟩

/-! ### Accesses and long operations -/

/-- An access of the thread to four bytes of memory. -/
def wA (op : AccOp) : Access :=
  { id := 5, cl := 0, co := 0, ctx := 0, launch := 1, tid := 1, gslot := 0, passes := [0], tslot := 0, op := op, space := .gm, ea := 0, parts := [⟨0, 4, 0, .rc, none, false, false, false⟩],
    width := 4, long := some 6 }
/-- A long operation of the thread that writes the last word of its window and a group register. -/
def wLong : LongOp := { id := 6, cl := 0, co := 0, tid := 1, gslot := 0, dests := [.v 127, .g 63], data := some [⟨1, false⟩, ⟨2, true⟩] }
/-- The state with that access and that long operation. -/
def wSA (op : AccOp) : State := { wS with accs := [wA op], longs := [{ wLong with data := none }] }

/-- A release store of core 3 at `.cluster`, an acquire load of core `co` of the same bytes with a scope, a load behind it that has or has not read
ahead. -/
def wRelA : Access := { wA (.store [1, 0, 0, 0]) with co := 3, tid := 9, passes := [3], ord := .rel, scope := 3, long := none }
def wAcq (scope co : Nat) : Access := { wA .load with id := 7, co := co, passes := [1], ord := .acq, scope := scope }
def wLook (co : Nat) (looked : Bool) : Access :=
  let p : Part := ⟨64, 4, 0, .rc, none, false, false, false⟩
  { wA .load with id := 8, co := co, passes := [2], parts := [p], looked := if looked then [(p, [])] else [] }
def wRel (scope co : Nat) (looked : Bool) : State := { wS with accs := [wRelA, wAcq scope co, wLook co looked] }

theorem ready (op : AccOp) (h : (wSA op).partsReady (wA op) = (wA op).parts) : Ready (wSA op) (wA op) ⟨0, 4, 0, .rc, none, false, false, false⟩ :=
  ⟨rfl, rfl, h, rfl, rfl, rfl, rfl⟩

theorem witness_StorePerforms : Ready (wSA (.store [1, 2, 3, 4])) (wA (.store [1, 2, 3, 4])) ⟨0, 4, 0, .rc, none, false, false, false⟩ ∧
    0 + 4 ≤ [1, 2, 3, 4].length ∧ (wSA (.store [1, 2, 3, 4])).partlyPoisoned ⟨0, 4, 0, .rc, none, false, false, false⟩ = [] ∧
    Ready (wRel 3 70 true) wRelA ⟨0, 4, 0, .rc, none, false, false, false⟩ ∧ wRelA.ord = .rel ∧ ((wRel 3 70 true).accs.map (fun x => x.id)).Nodup ∧
    (wRel 3 70 true).accs[1]? = some (wAcq 3 70) ∧ (wRel 3 70 true).accs[2]? = some (wLook 70 true) ∧ (wAcq 3 70).nonUo = true ∧ (wLook 70 true).nonUo = true ∧
    (wAcq 3 70).sharesOwner (wLook 70 true) = true ∧ includes wRelA.scope wRelA.agent (wAcq 3 70).agent = true ∧ includes (wAcq 3 70).scope wRelA.agent (wAcq 3 70).agent = true ∧
    (wLook 70 true).missed = [] ∧ (wAcq 3 70).parts.any (fun q => q.meets ⟨0, 4, 0, .rc, none, false, false, false⟩) = true :=
  ⟨ready _ rfl, by decide, by decide, ⟨rfl, rfl, by decide +kernel, rfl, rfl, rfl, rfl⟩, rfl, by decide, rfl, rfl, by decide, by decide, by decide, by decide, by decide, rfl, by decide⟩
theorem witness_LoadPerforms : Ready (wSA .load) (wA .load) ⟨0, 4, 0, .rc, none, false, false, false⟩ ∧ (wA .load).long = some 6 ∧
    (wSA .load).long? 6 = some { wLong with data := none } ∧
    (let a := { wA .load with looked := [(⟨0, 4, 0, .rc, none, false, false, false⟩, [])] }
     Ready { wS with accs := [a] } a ⟨0, 4, 0, .rc, none, false, false, false⟩) ∧
    (let a := { wA .load with fixed := true, passed := [(⟨0, 4, 0, .rc, none, false, false, false⟩, [])] }
     Ready { wS with accs := [a] } a ⟨0, 4, 0, .rc, none, false, false, false⟩) ∧
    (let s := wRel 1 70 false
     s.acc? 8 = some (wLook 70 false) ∧ s.partsReady (wLook 70 false) = [] ∧ s.partsAhead (wLook 70 false) = (wLook 70 false).parts ∧ (wLook 70 false).looked = []) :=
  ⟨ready _ rfl, rfl, rfl, ⟨rfl, rfl, by decide +kernel, rfl, rfl, rfl, rfl⟩, ⟨rfl, rfl, by decide +kernel, rfl, rfl, rfl, rfl⟩, rfl, by decide +kernel, by decide +kernel, rfl⟩

/-- Table 3 and Table 1 of spec/09_ordering.md: a load that has read behind an acquire keeps what it read where a release on core 3 of `.core` meets
the acquire on core 70, and reads anew where both scopes are `.cluster`. -/
theorem test_scopes :
    ((({ wRel 1 70 true with accs := (wRel 1 70 true).accs.map (fun a => if a.id == 5 then { a with scope := 1 } else a) } : State).releases
      { wRelA with scope := 1 } (some ⟨0, 4, 0, .rc, none, false, false, false⟩)).accs.map (fun a => a.looked.isEmpty)) = [true, true, false] ∧
    (((wRel 3 70 true).releases wRelA (some ⟨0, 4, 0, .rc, none, false, false, false⟩)).accs.map (fun a => a.looked.isEmpty)) = [true, true, true] := by decide +kernel
theorem witness_AtomicPerforms : Ready (wSA (.update 9 0 0xFFFFFFFF false)) (wA (.update 9 0 0xFFFFFFFF false)) ⟨0, 4, 0, .rc, none, false, false, false⟩ ∧
    (wSA (.update 9 0 0xFFFFFFFF false)).poisoned 0 4 = false ∧ (0xFFFFFFFF : DWord).toNat < 2 ^ (8 * 4) ∧ (wSA (.update 9 0 0xFFFFFFFF false)).session? 0 = none ∧
    (wSA (.update 9 0 0xFFFFFFFF false)).long? 6 = some { wLong with data := none } :=
  ⟨ready _ rfl, by decide, by decide, rfl, rfl⟩
theorem witness_LongOpLands : let s : State := { wS with longs := [wLong] }
    s.long? 6 = some wLong ∧ wLong.data = some [⟨1, false⟩, ⟨2, true⟩] ∧ wLong.dests.Nodup ∧ s.thread? 0 0 1 = some wT ∧ (s.core 0 0).group? 0 = some wG :=
  ⟨rfl, rfl, by decide, rfl, rfl⟩

/-! ### Control operations -/

/-- A control operand. -/
def oi (n : Word) : Ops := op .zero .zero .zero .zero 0 0 n

/-- A pass of the one thread t on the core c. -/
def wTh (c : Core) (t : Thread) : State := { wS with cores := [{ c with threads := [t] }] }

theorem witness_ClauseControls :
    (Serves wS wI 0 wC wG wT 0x000 (oi 0) ∧ (Instr.nop (oi 0)).detail = none) ∧ (Serves wS wI 0 wC wG wT 0x001 (oi 15) ∧ (Instr.exit (oi 15)).detail = none) ∧
    (Serves wS wI 0 wC wG wT 0x002 (oi 1) ∧ (Instr.next (oi 1)).detail = none) ∧ (Serves wS wI 0 wC wG wT 0x003 (oi 0) ∧ (Instr.ret (oi 0)).detail = none) ∧
    (Serves wS wI 0 wC wG wT 0x004 (oi 0) ∧ (Instr.quit (oi 0)).detail = none ∧ wT.frame = none ∧ wT.gslot = some 0 ∧ wT.tslot = 0) ∧
    (Serves wS wI 0 wC wG wT 0x005 (oi 0) ∧ (Instr.yield (oi 0)).detail = none) :=
  ⟨⟨serves _ _ rfl, by decide⟩, ⟨serves _ _ rfl, by decide⟩, ⟨serves _ _ rfl, by decide⟩, ⟨serves _ _ rfl, by decide⟩, ⟨serves _ _ rfl, by decide⟩, serves _ _ rfl, by decide⟩

theorem witness_TrapsAndBreakpoints : wS.cur = some wI ∧ wI.threads = [0] ∧ wS.slotThread wI 0 = some (wC, wG, wT) ∧ guardVal (oi 15) wT = ⟨true, false⟩ ∧
    wS.upsetOf wI 0 = none ∧ (Instr.trap (oi 15)).detail = none ∧ (Instr.bkpt (oi 0xFFFF)).detail = none ∧ wC.bkpten = false ∧
    (wTh { wC with bkpten := true } wT).slotThread wI 0 = some ({ wC with bkpten := true }, wG, wT) ∧ (wTh { wC with bkpten := true } wT).cur = some wI ∧
    (wTh { wC with bkpten := true } wT).upsetOf wI 0 = none := by
  refine ⟨rfl, rfl, rfl, rfl, rfl, by decide, by decide, rfl, rfl, rfl, rfl⟩

/-- The frame of a trap taken at the operation, of a class. -/
def wFr (cause : Nat) : TrapFrame :=
  { cause := cause, k := 0, addr := 0, path := ⟨1, [0], 0⟩, rest := ⟨1, [0], 0⟩, act := .rest, level := .supervisor, fromLevel := .user, preds := [(7, ⟨true, false⟩)], wb := 0, f := 128, depth := 0,
    image := 1, trips := [] }
/-- A thread in a supervisor handler. -/
def wTf (cause : Nat) : Thread := { wT with frame := some (wFr cause), level := .supervisor, wb := 128, preds := [] }

theorem servesTh (t : Thread) (opc : Nat) (o : Ops) (h1 : (wTh wC t).slotThread wI 0 = some ({ wC with threads := [t] }, wG, t)) (h : guardVal o t = ⟨true, false⟩) :
    Serves (wTh wC t) wI 0 { wC with threads := [t] } wG t opc o := ⟨rfl, rfl, fun _ => rfl, h1, h, rfl⟩

theorem witness_TrapReturns :
    (∀ a < 4, (Instr.tret (oi (BitVec.ofNat 32 a))).detail = none ∧ opUniform 0x011 (oi (BitVec.ofNat 32 a)) = false) ∧
    Serves (wTh wC (wTf 0)) wI 0 { wC with threads := [wTf 0] } wG (wTf 0) 0x011 (oi 0) ∧
    Serves (wTh wC (wTf 0x150)) wI 0 { wC with threads := [wTf 0x150] } wG (wTf 0x150) 0x011 (oi 0) ∧
    Serves (wTh wC (wTf 0x40)) wI 0 { wC with threads := [wTf 0x40] } wG (wTf 0x40) 0x011 (oi 3) ∧ Serves wS wI 0 wC wG wT 0x011 (oi 0) ∧ wT.frame = none :=
  ⟨by decide, servesTh _ _ _ rfl rfl, servesTh _ _ _ rfl rfl, servesTh _ _ _ rfl rfl, serves _ _ rfl, rfl⟩

/-- movs with a selector. -/
def oSel (n : Word) : Ops := op (.v 126) .imm .zero .zero 2 0 n
/-- ctlr and ctlw of a control register. -/
def oRd (n : Word) : Ops := op (.v 1) .zero .zero .zero 0 0 n
/-- ctlw of a control register. -/
def oWr (n : Word) : Ops := op .zero (.v 1) .zero .zero 0 0 n

/-- ctlr and ctlw of a control register are instructions that the framed thread can issue. -/
theorem ctl_ok {n : Word} (h : (Instr.ctlr (oRd n)).detail = none ∧ (Instr.ctlw (oWr n)).detail = none ∧ operandHalt (wTf 0) wG (oWr n) (widths 0x016 (oWr n)) 0 0 0 = none) :
    (Instr.ctlr (oRd n)).detail = none ∧ (Instr.ctlw (oWr n)).detail = none ∧ Readable 0x016 (oWr n) (wTf 0) wG := h

theorem witness_SystemRegisters :
    ((rd32 (Env.of wS wC wG) (oSel 15) wT wG .imm).toNat ≤ 15 ∧ (Instr.movs (oSel 15)).detail = none ∧ Readable 0x014 (oSel 15) wT wG ∧ Readable 0x014 (oSel 15) (wTf 0) wG) ∧
    ((Instr.movs (op (.v 126) .imm .zero .zero 2 0x800#12 14)).detail = none ∧ Readable 0x014 (op (.v 126) .imm .zero .zero 2 0x800#12 14) wT wG) ∧
    ((Instr.ctlr (oRd 0)).detail = none ∧ (Instr.ctlw (oWr 0)).detail = none ∧ Readable 0x016 (oWr 0) (wTf 0) wG) ∧
    ((Instr.ctlr (oRd 1)).detail = none ∧ (Instr.ctlw (oWr 1)).detail = none ∧ Readable 0x016 (oWr 1) (wTf 0) wG) ∧
    ((Instr.ctlr (oRd 2)).detail = none ∧ (Instr.ctlw (oWr 2)).detail = none ∧ Readable 0x016 (oWr 2) (wTf 0) wG) ∧
    ((Instr.ctlr (oRd 3)).detail = none ∧ (Instr.ctlw (oWr 3)).detail = none ∧ Readable 0x016 (oWr 3) (wTf 0) wG) ∧
    ((Instr.ctlr (oRd 0x100)).detail = none ∧ (Instr.ctlw (oWr 0x100)).detail = none ∧ Readable 0x016 (oWr 0x100) (wTf 0) wG) ∧
    ((Instr.ctlr (oRd 0x17F)).detail = none ∧ (Instr.ctlw (oWr 0x17F)).detail = none ∧ Readable 0x016 (oWr 0x17F) (wTf 0) wG) ∧
    ((Instr.ctlr (oRd 0x180)).detail = none ∧ (Instr.ctlw (oWr 0x180)).detail = none ∧ Readable 0x016 (oWr 0x180) (wTf 0) wG) ∧
    ((Instr.ctlr (oRd 0x181)).detail = none ∧ (Instr.ctlw (oWr 0x181)).detail = none ∧ Readable 0x016 (oWr 0x181) (wTf 0) wG) ∧
    ((Instr.ctlr (oRd 0x187)).detail = none ∧ (Instr.ctlw (oWr 0x187)).detail = none ∧ Readable 0x016 (oWr 0x187) (wTf 0) wG) ∧
    opUniform 0x015 (oRd 0) = false ∧ opUniform 0x016 (oWr 0) = false ∧
    Serves (wTh wC (wTf 0)) wI 0 { wC with threads := [wTf 0] } wG (wTf 0) 0x014 (oSel 15) ∧
    Serves (wTh wC (wTf 0)) wI 0 { wC with threads := [wTf 0] } wG (wTf 0) 0x015 (oRd 0x17F) ∧
    Serves (wTh wC (wTf 0)) wI 0 { wC with threads := [wTf 0] } wG (wTf 0) 0x016 (oWr 0x187) ∧
    (wTf 0).level = .supervisor ∧ (wTf 0).frame = some (wFr 0) ∧ 0x17F - 0x100 < (wFr 0).f ∧ (assocGet ⟨0, false⟩ (wTf 0).stk ((wFr 0).wb + 127)).poison = false ∧
    (assocGet ⟨false, false⟩ (wFr 0).preds 7).poison = false ∧ (wFr 0).preds = [(7, ⟨true, false⟩)] ∧ wT.level = .user ∧ wC.bkpten = false := by
  refine ⟨by decide, by decide, ctl_ok (by decide), ctl_ok (by decide), ctl_ok (by decide), ctl_ok (by decide), ctl_ok (by decide), ctl_ok (by decide), ctl_ok (by decide), ctl_ok (by decide), ctl_ok (by decide), rfl, rfl, servesTh _ _ _ rfl rfl, servesTh _ _ _ rfl rfl, servesTh _ _ _ rfl rfl, rfl, rfl, by decide, rfl, rfl, rfl, rfl, rfl⟩

/-- A thread that has arrived at the barrier of its block. -/
def wTp (ph : Nat) : Thread := { wT with pending := [(1, ph)] }
/-- The core whose block's barrier has completed one phase. -/
def wCb : Core := { wC with block := some { launch := 1, index := 0, z := 2 ^ 20, ctx := 0, barriers := [⟨1, 0, 1, 0, []⟩] } }

theorem witness_Barriers :
    ((Instr.barArrive (oi 1)).detail = none ∧ (Instr.barWait (oi 1)).detail = none ∧ (Instr.barSync (oi 0)).detail = none ∧ barBad wL wT 1 = false ∧ barBad wL wT 0 = false) ∧
    Serves wS wI 0 wC wG wT 0x008 (oi 1) ∧ Serves wS wI 0 wC wG wT 0x00A (oi 0) ∧ wS.launch? wT.launch = some wL ∧ wC.block.isSome = true ∧ pendingAt wT 1 = none ∧
    (retiredAll wS wI).aliveIn wL 1 (wL.unitOf 1 wT.linear) = (wS.barrier 0 0 wL 1 (wL.unitOf 1 wT.linear)).arrived + 1 ∧ forkAfter wS.accs [wT.tid] = [] ∧
    wS.arrivalPends wL.id 1 (wL.unitOf 1 wT.linear) = false ∧
    Serves (wTh wCb (wTp 0)) wI 0 { wCb with threads := [wTp 0] } wG (wTp 0) 0x009 (oi 1) ∧ (wTh wCb (wTp 0)).phaseDone 0 0 (wTp 0) 1 = true ∧
    (wTh wCb (wTp 1)).phaseDone 0 0 (wTp 1) 1 = false := by
  refine ⟨by decide, serves _ _ rfl, serves _ _ rfl, rfl, rfl, rfl, by decide, rfl, by decide, ⟨rfl, rfl, fun _ => rfl, rfl, rfl, rfl⟩, by decide, by decide⟩

/-- A launch with room for 65,536 children; a ring where sra is not 0. -/
def wLc (next : Nat) : Launch := { wL with m := 65537, nextChild := next }
/-- spawn with its count in a register. -/
def oSpv : Ops := op (.v 1) (.v 3) (.v 4) .zero 0 0 1
/-- The thread with the count there. -/
def wTn (n : Word) : Thread := { wT with stk := [(3, ⟨n, false⟩)] }

/-- A spawn of n children by the thread, with a launch. -/
structure SpawnRuns (n : Word) (l : Launch) : Prop where
  serves : Serves { wTh wC (wTn n) with launches := [l] } wI 0 { wC with threads := [wTn n] } wG (wTn n) 0x00C oSpv
  launch : ({ wTh wC (wTn n) with launches := [l] } : State).launch? (wTn n).launch = some l
  reads : Readable 0x00C oSpv (wTn n) wG
  count : (rd32 (Env.of { wTh wC (wTn n) with launches := [l] } wC wG) oSpv (wTn n) wG oSpv.a) = n

theorem witness_SpawnedChildren :
    ((Instr.spawn oSpv).detail = none ∧ opUniform 0x00C oSpv = false ∧ (wTn 0).overlay = .none ∧ wS.spawnHeld (wLc 0) 0 0 0 (wI.front ++ wI.peers) = false) ∧
    (SpawnRuns 2 (wLc 0) ∧ 0 + 2 ≤ (wLc 0).m - (wLc 0).threads ∧ 2 ≤ ({ wC with threads := [wTn 2] } : Core).freeSlots ∧ (wTn 2).tid < wS.nextId) ∧
    SpawnRuns 65537 (wLc 0) ∧ (SpawnRuns 65536 (wLc 1) ∧ (wLc 1).m - (wLc 1).threads < (wLc 1).nextChild + 65536) ∧
    (SpawnRuns 65536 (wLc 0) ∧ (wLc 0).sra = 0 ∧ (wLc 0).nextChild + 65536 ≤ (wLc 0).m - (wLc 0).threads ∧ ({ wC with threads := [wTn 65536] } : Core).freeSlots < 65536) ∧
    (let l : Launch := { wLc 0 with sra := 0x10000 }
     let s : State := { wS with launches := [l], clusters := [{ id := 0, ctx := some 0, rings := [(1, 0xFFFFFFFF, 0)] }] }
     let c := s.core 0 0
     s.ringHead c = .record l wX ∧ (s.cluster 0).ring 1 = (0xFFFFFFFF, 0) ∧
       ∃ s1 bytes, s.gmRead 0 0 wX false (0x10000 + 0x1000 + 64 * (0xFFFFFFFF % 4096)) 64 = (s1, .ok (bytes, false)) ∧ s1.cores = s.cores ∧ s1.clusters = s.clusters ∧
         bytes.length = 64) :=
  ⟨⟨by decide, rfl, rfl, by decide⟩, ⟨⟨⟨rfl, rfl, fun _ => rfl, rfl, rfl, rfl⟩, rfl, by decide, rfl⟩, by decide, by decide, by decide⟩, ⟨⟨rfl, rfl, fun _ => rfl, rfl, rfl, rfl⟩, rfl, by decide, rfl⟩,
   ⟨⟨⟨rfl, rfl, fun _ => rfl, rfl, rfl, rfl⟩, rfl, by decide, rfl⟩, by decide⟩, ⟨⟨⟨rfl, rfl, fun _ => rfl, rfl, rfl, rfl⟩, rfl, by decide, rfl⟩, rfl, by decide, by decide⟩,
   rfl, rfl, _, _, rfl, rfl, rfl, rfl⟩

/-! ### Cells and engine commands -/

/-- A cell command on cell 63 with an immediate. -/
def oCell (d a : Spec) (n : Word) : Ops := op d a .zero .zero 0 0x03F#12 n
/-- The core with a cell. -/
def wCc (y : CCell) : Core := { wC with cells := [(63, y)] }

theorem witness_CellCommands :
    Runs (.cexp (oCell .zero .imm 0x80000000)) 0x218 (oCell .zero .imm 0x80000000) ∧ Runs (.cread (oCell (.g 62) .zero 0)) 0x21B (oCell (.g 62) .zero 0) ∧
    Runs (.creset (oCell .zero .zero 0)) 0x21C (oCell .zero .zero 0) ∧ Runs (.cwait (oCell (.q 3) .zero 0)) 0x219 (oCell (.q 3) .zero 0) ∧
    Runs (.cacq (oCell .zero .imm 0)) 0x21A (oCell .zero .imm 0) ∧ Runs (.cacq (oCell .zero .imm 65535)) 0x21A (oCell .zero .imm 65535) ∧
    Runs (.cacq (oCell .zero .imm 65536)) 0x21A (oCell .zero .imm 65536) ∧
    wI.stop = none ∧ wI.wait = none ∧ (wC.cell 63).pend = 0 ∧ ((wCc ⟨0, 0, 2 ^ 39 - 1, 0⟩).cell 63).pend ≠ 0 ∧
    65535 ≤ ((wCc ⟨65535, 0, 0, 0⟩).cell 63).done ∧ (wC.cell 63).done < 65535 ∧
    (frontOperand wG (oCell .zero .imm 65535)).toNat = 65535 ∧ (frontOperand wG (oCell .zero .imm 65536)).toNat = 65536 ∧
    Serves (wTh (wCc ⟨65535, 0, 0, 0⟩) wT) wI 0 (wCc ⟨65535, 0, 0, 0⟩) wG wT 0x21A (oCell .zero .imm 65536) ∧
    Serves (wTh (wCc ⟨0, 0, 1, 0⟩) wT) wI 0 (wCc ⟨0, 0, 1, 0⟩) wG wT 0x219 (oCell (.q 3) .zero 0) := by
  refine ⟨runs (by decide), runs (by decide), runs (by decide), runs (by decide), runs (by decide), runs (by decide), runs (by decide), rfl, rfl, rfl, by decide, by decide,
    by decide, by decide, by decide, ⟨rfl, rfl, fun _ => rfl, rfl, rfl, rfl⟩, ⟨rfl, rfl, fun _ => rfl, rfl, rfl, rfl⟩⟩

/-- A command that the front can issue. -/
structure Commands (ins : Instr) (opc : Nat) (o : Ops) : Prop where
  serves : Serves wS wI 0 wC wG wT opc o
  detail : ins.detail = none
  reads : CmdReadable opc o wT wG

theorem commands {ins : Instr} {opc : Nat} {o : Ops} (h : guardVal o wT = ⟨true, false⟩ ∧ ins.detail = none)
    (h2 : operandHalt wT wG o { widths opc o with a := if opc = 0x202 then 3 else (widths opc o).a, d := if dIsSource opc then (widths opc o).d else 0 } 0 0 0 = none ∧
      poisonOf wT wG o.d (widths opc o).d 0 = none) : Commands ins opc o := ⟨serves opc o h.1, h.2, h2.1, fun _ => h2.2⟩

/-- An engine command with its operands from a g register on. -/
def oEng (d a b : Spec) (t : Fin 8) (mod : BitVec 12) (imm : Word) : Ops := op d a b .zero t mod imm

theorem witness_EngineCommandsIssue :
    Commands (.copyBox (oEng .zero (.g 0) .zero 0 0x03F#12 0)) 0x200 (oEng .zero (.g 0) .zero 0 0x03F#12 0) ∧
    (let o := oEng .zero (.v 0) (.v 2) 0 0x040#12 0
     Serves wS wI 0 wC wG wT 0x201 o ∧ (Instr.copyT o).detail = none ∧ ∀ j ∈ wI.threads, ∀ x, wS.slotThread wI j = some x → Readable 0x201 o x.2.2 x.2.1) ∧
    (Commands (.copyFill (oEng .zero (.g 60) .zero 0 0 0)) 0x202 (oEng .zero (.g 60) .zero 0 0 0) ∧ (wG.gReg 63).poison = false) ∧
    Commands (.layout (oEng .zero (.g 56) .zero 0 0 0)) 0x204 (oEng .zero (.g 56) .zero 0 0 0) ∧
    Commands (.bankop (oEng .zero (.g 0) .zero 2 0x0C0#12 0)) 0x210 (oEng .zero (.g 0) .zero 2 0x0C0#12 0) ∧
    Commands (.bankop (oEng .zero (.g 60) .zero 5 0x500#12 0)) 0x210 (oEng .zero (.g 60) .zero 5 0x500#12 0) := by
  refine ⟨commands (by decide) (by decide), ⟨serves _ _ rfl, by decide, ?_⟩, ⟨commands (by decide) (by decide), by decide⟩, commands (by decide) (by decide),
    commands (by decide) (by decide), commands (by decide) (by decide)⟩
  intro j hj x hx
  have : j = 0 := by simpa [wI] using hj
  subst this
  obtain rfl : (wC, wG, wT) = x := Option.some.inj hx
  decide

/-- A multiply of slots 0 and 7 into tile 3. -/
def oMma (v : BitVec 12) : Ops := oEng (.a 3) (.g 0) (.g 60) 0 (0x007#12 ||| (v <<< 3)) 63

theorem witness_MatrixCommandsIssue :
    (Commands (.mma (oMma 0)) 0x208 (oMma 0) ∧ Commands (.mmaP (oMma 1)) 0x208 (oMma 1) ∧ Commands (.mmaG (oMma 2)) 0x208 (oMma 2) ∧ Commands (.mmaS (oMma 3)) 0x208 (oMma 3) ∧
      slotsOk (Env.of wS wC wG) 0 7) ∧
    Commands (.accClr (oEng (.a 0) .zero .zero 0 0 0x40)) 0x20C (oEng (.a 0) .zero .zero 0 0 0x40) ∧
    Commands (.accLd (oEng (.a 3) (.g 62) .zero 0 0x080#12 63)) 0x20D (oEng (.a 3) (.g 62) .zero 0 0x080#12 63) ∧
    (Commands (.accSt (oEng (.g 62) (.a 3) .zero 7 0 0)) 0x20E (oEng (.g 62) (.a 3) .zero 7 0 0) ∧ unbound (Env.of wS wC wG) 7 = false) ∧
    Commands (.accStx (oEng (.g 63) (.a 3) (.g 62) 0 0x300#12 0)) 0x20F (oEng (.g 63) (.a 3) (.g 62) 0 0x300#12 0) := by
  refine ⟨⟨commands (by decide) (by decide), commands (by decide) (by decide), commands (by decide) (by decide), commands (by decide) (by decide), ?_⟩,
    commands (by decide) (by decide), commands (by decide) (by decide), ⟨commands (by decide) (by decide), by decide⟩, commands (by decide) (by decide)⟩
  exact ⟨by decide, by decide, by decide, by decide, fun _ _ => by decide⟩


/-! ### Threads between operations -/

/-- A clause of one operation. -/
def wCl : List Byte := [0xCB, 1, 0, 0, 13] ++ encodeSegment ⟨0, none, none, 1⟩ ++ encode (.movCompact 1 2)
/-- The code of procedure 1: a SEQ of a node of each kind that no loop is. -/
def wCode : List Byte :=
  [0xC0, 9, 0, 0, 169] ++ wCl ++ [0xC0, 1, 0, 0, 18] ++ wCl ++ [0xC1, 1, 0, 0, 18] ++ wCl ++ [0xC2, 2, 0, 0, 32, 0xC1] ++ wCl ++ wCl ++
    [0xC2, 2, 0, 0, 32, 0xCB] ++ wCl ++ wCl ++ [0xC3, 2, 0, 0, 32, 0x00] ++ wCl ++ wCl ++ [0xC7, 0, 0, 0, 8, 0, 1, 1] ++ [0xC9, 0, 0, 0, 5] ++ [0xCA, 0, 0, 0, 6, 3]
/-- Its image, with safe point 3 and a handler. -/
def wIm : Image :=
  { wImg with procs := [{ num := 1, f := 16, args := 0, clen := 169, spCnt := 1, handler := some 1 }],
              safes := [{ k := 3, save := 1, restore := 1, mask := 0, keep := [] }] }
/-- The thread at a node with an act. -/
def wAt (act : Act) (digits : List Nat) : Thread := { wT with act := act, path := ⟨1, digits, 0⟩ }
/-- A state with that code, this core and this thread. -/
def wM (c : Core) (t : Thread) : State :=
  { wS with images := [wIm], cur := none, cores := [{ c with threads := [t] }], mem := placedTables (wS.codeLeaf 0) (Memory.writeBytes [] Config.codeBase wCode) }
/-- The same core with the thread. -/
def wCM (t : Thread) : Core := { wC with threads := [t] }

/-- A thread of the placed program whose node move is due, alone, and how its walk ends: at a thread, with a cause, at an item that cannot be
fetched. -/
def Walks (t : Thread) (p : Walk → Bool) : Bool :=
  (wM wC t).moveDue (wCM t) t && t.pagerFault.isNone && (wM wC t).moversWith (wCM t) t .enter == [t] &&
    (match (wM wC t).walkOf (wCM t) t .enter with | some (x, _) => p x | none => false)

theorem witness_NodeMoves :
    Walks (wAt (.move .enter) [1]) (fun x => match x with | .done t => t == wAt .rest [1, 0] && t.gslot.isSome | _ => false) = true ∧
    Walks { wAt (.move .enter) [3] with preds := [(1, ⟨true, true⟩)] } (fun x => match x with | .stop _ n => n == 0x13B | _ => false) = true ∧
    Walks (wAt (.move .enter) [9]) (fun x => match x with | .fetch _ _ => true | _ => false) = true ∧
    (let s := wM wC (wAt .rest [])
     ∀ x ∈ [([0], NodeLoc.mk 5 ⟨.clause, 1, 13, 5⟩), ([1], ⟨18, ⟨.seq, 1, 18, 5⟩⟩), ([2], ⟨36, ⟨.block, 1, 18, 5⟩⟩), ([3], ⟨54, ⟨.sel (.p 1), 2, 32, 6⟩⟩),
         ([4], ⟨86, ⟨.sel (.q 3), 2, 32, 6⟩⟩), ([5], ⟨118, ⟨.case (.v 0), 2, 32, 6⟩⟩), ([6], ⟨150, ⟨.call 1 8, 0, 8, 8⟩⟩), ([7], ⟨158, ⟨.reform, 0, 5, 5⟩⟩),
         ([8], ⟨163, ⟨.safe 3, 0, 6, 6⟩⟩)],
       (s.nodeAt wIm 1 x.1).toOption = some x.2 ∧ s.headerOk wIm (s.frameOf (wAt .rest [])) x.1 x.2 = true) ∧
    (wT.p_ 1).poison = false ∧ (wG.qReg 3).poison = false ∧ (wT.v 0).poison = false := by
  refine ⟨by decide +kernel, by decide +kernel, by decide +kernel, by decide +kernel, rfl, rfl, rfl⟩

/-- A thread in a call of procedure 1 from its call node, with its link below its window. -/
def wRet (op : Nat) : Thread :=
  { wAt .ret [] with wb := 8, calls := [⟨1, [6], op⟩], stk := ((List.range 4).map (fun j => (4 + j, ⟨BitVec.ofNat 32 ((⟨1, [6], op⟩ : Path).encode / 2 ^ (32 * j)), false⟩))) }
/-- A thread at the end of a restore procedure. -/
def wRst : Thread := { wAt .ret [] with overlay := .restore 3 0 ⟨1, [8], 1⟩ 0 }

theorem witness_CallsAndReturns :
    (let t := wAt .call [6]
     (wM wC t).callReady (wCM t) t = true ∧ ((wM wC t).restNode t).toOption = some (.call 1 8) ∧ t.pagerFault = none ∧ ((wM wC t).proc? t.image 1).isSome = true ∧ 8 ≤ (wM wC t).frameOf t ∧
       t.sptr.toNat + t.p + 4 * (t.wb + 8 + (wM wC t).frameSize t.image 1) ≤ t.slim.toNat ∧ tripsAt t.trips t.path = []) ∧
    (let t : Thread := { wAt .call [6] with slim := 0x100000 }
     (wM wC t).callReady (wCM t) t = true ∧ ((wM wC t).restNode t).toOption = some (.call 1 8) ∧ t.pagerFault = none ∧ t.slim.toNat < t.sptr.toNat + t.p + 4 * (t.wb + 8 + (wM wC t).frameSize t.image 1)) := by
  refine ⟨⟨by decide +kernel, by decide +kernel, rfl, by decide +kernel, by decide +kernel, by decide +kernel, rfl⟩, by decide +kernel, by decide +kernel, rfl, by decide +kernel⟩

theorem witness_CallsAndReturns_returns :
    ((wM wC (wAt .ret [])).returnReady (wCM (wAt .ret [])) (wAt .ret []) = true ∧ (wAt .ret []).wb = 0) ∧
    ((wM wC (wRet 1)).returnReady (wCM (wRet 1)) (wRet 1) = true ∧ (wRet 1).wb ≠ 0 ∧ ((wM wC (wRet 1)).linkNode (wRet 1)).toOption = some (⟨1, [6], 1⟩, 8)) ∧
    ((wM wC (wRet 0)).returnReady (wCM (wRet 0)) (wRet 0) = true ∧ (match (wM wC (wRet 0)).linkNode (wRet 0) with | .error (.link _) => true | _ => false) = true) ∧
    ((wM wC wRst).returnReady (wCM wRst) wRst = true ∧ wRst.calls.length = 0) ∧
    ((wAt .ret []).frame = none ∧ wRst.frame = none ∧ ∀ op, (wRet op).frame = none ∧ (wRet op).pagerFault = none) := by
  refine ⟨⟨by decide +kernel, rfl⟩, ?_, ?_, ⟨by decide +kernel, rfl⟩, rfl, rfl, fun _ => ⟨rfl, rfl⟩⟩
  · exact ⟨by decide +kernel, by decide +kernel, by decide +kernel⟩
  · exact ⟨by decide +kernel, by decide +kernel⟩

/-- The core with a save requested. -/
def wCs : Core := { wC with block := some { launch := 1, index := 0, z := 2 ^ 20, ctx := 0, save := some .slice } }

theorem witness_ReformAndSafePoints :
    (wM wC (wAt .reform [7])).freeToGo (wCM (wAt .reform [7])) (wAt .reform [7]) .reform = true ∧
    (wM wC (wAt .safe [8])).freeToGo (wCM (wAt .safe [8])) (wAt .safe [8]) .safe = true ∧ wC.saving = false ∧
    (let t := wAt .safe [8]
     let s := wM wCs t
     let c : Core := { wCs with threads := [t] }
     let e : SafePoint := { k := 3, save := 1, restore := 1, mask := 0, keep := [] }
     s.freeToGo c t .safe = true ∧ c.saving = true ∧ (s.safeNode t).toOption = some (some e) ∧ s.launch? t.launch = some wL ∧
       s.callerChunks t = [] ∧ wL.ra.toNat + 576 * t.stackNo < 2 ^ 64 ∧
       (s.gmWrite 0 0 (s.ctxOf wL.ctx) (s.ctxOf wL.ctx).prot (wL.ra + BitVec.ofNat 64 (576 * t.stackNo)).toNat (recordHeader t (s.frameOf t) e)).2.isOk = true) := by
  refine ⟨by decide +kernel, by decide +kernel, rfl, by decide +kernel, by decide +kernel, by decide +kernel, by decide +kernel, by decide +kernel, by decide +kernel, by decide +kernel⟩

/-- A thread that waits to be filed, and one that has ended. -/
def wFile : Thread := { wAt .file [0] with gslot := none }
/-- The core with one bin that is full. -/
def wBin : Bin := { image := 1, key := ⟨1, [0], 0⟩, threads := [1], unit := some 1 }

theorem witness_FetchingAndGroups :
    ((wM { wC with ibuf := [] } (wAt .rest [0])).leastFetch { wCM (wAt .rest [0]) with ibuf := [] } wG = some 0 ∧
      ((wM wC (wAt .rest [0])).nextOf (wAt .rest [0])).isOk = true) ∧
    ((wM { wC with ibuf := [] } (wAt .rest [9])).leastFetch { wCM (wAt .rest [9]) with ibuf := [] } wG = some 0 ∧
      ((wM wC (wAt .rest [9])).nextOf (wAt .rest [9])).isOk = false) ∧
    (((wM { wC with groups := [] } wFile).nextToFile { wCM wFile with groups := [] }).find? (fun x => x.tid == 1) = some wFile ∧
      (wM { wC with groups := [] } wFile).filing { wCM wFile with groups := [] } wFile = .open_ none) ∧
    (let c : Core := { wCM { wFile with act := .binned } with groups := [], bins := [wBin] }
     let s := wM c { wFile with act := .binned }
     c.bins[0]? = some wBin ∧ wBin.due (s.ageLimit c) c.saving = true ∧ s.canRelease c wBin = true ∧ s.lowestSlot c = some 0 ∧ wBin.leaving.Nodup) ∧
    ((wM wC (wAt .ended [])).longsOf 1 = [] ∧ (wM wC (wAt .ended [])).regAwaited 0 0 1 = false) ∧
    (∀ trap, let s : State := { wM { wC with ibuf := [] } (wAt .rest [0]) with mem := [], ctxs := [{ wX with trapMode := trap }] }
     s.leastFetch { wCM (wAt .rest [0]) with ibuf := [] } wG = some 0 ∧ (match s.nextOf (wAt .rest [0]) with | .error e => e.resolve | .ok _ => false) = true ∧ (s.ctxOf 0).trapMode = trap) := by
  refine ⟨⟨by decide +kernel, by decide +kernel⟩, ⟨by decide +kernel, by decide +kernel⟩, ⟨by decide +kernel, by decide +kernel⟩, ⟨rfl, by decide +kernel, by decide +kernel, by decide +kernel, by decide +kernel⟩, ⟨rfl, rfl⟩, ?_⟩
  intro trap
  cases trap <;> exact ⟨by decide +kernel, by decide +kernel, rfl⟩

/-- The group with a front stopped by a trap, or with an error pending. -/
def wGt : Group := { wG with fronts := [{ tslots := [0], stop := some (.trap 5 0 9 ⟨1, [0], 0⟩) }] }

theorem witness_TrapEntry :
    (let c : Core := { wC with groups := [wGt] }
     let s := wM c (wAt .rest [0])
     wGt.fronts.find? (s.deliverable { c with threads := [wAt .rest [0]] } wGt) = wGt.fronts.head? ∧ s.handlerOf (wAt .rest [0]) 5 1 = some (1, 1, .user) ∧
       trapRoom (wAt .rest [0]) ⟨1, [0], 0⟩ (s.frameSize 1 1) (s.frameSize 1 1) = true) ∧
    (let t : Thread := { wAt .rest [0] with frame := some (wFr 0) }
     let c : Core := { wC with groups := [{ wGt with handler := some 1 }], threads := [t] }
     wGt.fronts.find? ((wM c t).deliverable c { wGt with handler := some 1 }) = wGt.fronts.head? ∧ t.frame.isSome = true) ∧
    (let g : Group := { wG with pend := some 0x160 }
     let c : Core := { wC with groups := [g], threads := [wAt .rest [0]] }
     let s : State := { wM c (wAt .rest [0]) with ctxs := [{ wX with svimg := 1, svproc := some 1 }] }
     s.asyncReady c g = some ({ tslots := [0] }, wAt .rest [0]) ∧ s.handlerOf (wAt .rest [0]) 0x160 1 = some (1, 1, .supervisor)) := by
  refine ⟨⟨by decide +kernel, by decide +kernel, by decide +kernel⟩, ⟨by decide +kernel, rfl⟩, by decide +kernel, by decide +kernel⟩

/-! ### The pager, engines at work -/

/-- The thread with a chunk out, with a high window, and a transfer of the chunk. -/
def wOut : Thread := { wT with spilled := [0] }
def wHigh : Thread := { wT with wb := 61600 }
def wXf (fill : Bool) : Transfer := { id := 9, tid := 1, item := .chunk 0, fill := fill, va := 0x100000 }

theorem witness_PagerMoves :
    ((1, PagerItem.chunk 0) ∈ (wTh wC wHigh).victims (wCM wHigh) ∧ (wTh wC wHigh).outstanding (wCM wHigh) < Config.requestCount ∧
      (wTh wC wOut).fillReady (wCM wOut) wOut (.chunk 0) = true) ∧
    (∀ fill, let c : Core := { wCM wOut with xfers := [wXf fill] }
      let s := wTh { wC with xfers := [wXf fill] } wOut
      s.cores.find? (fun c => c.xfers.any (fun x => x.id == 9)) = some c ∧ s.core c.cl c.co = c ∧ c.xfers.find? (fun x => x.id == 9) = some (wXf fill) ∧
        s.xferFree (wXf fill) = true ∧ c.thread? 1 = some wOut ∧ 0 ∈ wOut.spilled) ∧
    (let s := wTh { wC with xfers := [wXf true] } wOut
     let r := s.itemRead 0 0 (s.ctxOf 0) 0x100000
     r.2.toOption.map List.length = some 8 ∧ r.1.cores = s.cores) ∧
    (let s := wTh { wC with xfers := [wXf false] } wOut
     let r := s.itemWrite 0 0 (s.ctxOf 0) 0x100000 (chunkWords wOut 0)
     r.2.isOk = true ∧ r.1.cores = s.cores) := by
  refine ⟨⟨?_, by decide +kernel, by decide +kernel⟩, ?_, ⟨by decide +kernel, by decide +kernel⟩, by decide +kernel, by decide +kernel⟩
  · decide +kernel
  · intro fill
    cases fill <;> exact ⟨rfl, rfl, rfl, rfl, rfl, by decide⟩

/-- A command of the core on cell 63. -/
def wCmd (kind : CmdKind) (eng : Engine) (entered : Bool) (todo : List (Nat × Nat)) : Cmd :=
  { id := 7, cl := 0, co := 0, ctx := 0, launch := 1, block := 0, gen := 1, key := 0, gslot := 0, tslot := 0, path := ⟨1, [0], 0⟩, kind := kind, engine := eng,
    cell := some 63, entered := entered, todo := todo }
/-- The state with the command. -/
def wSm (m : Cmd) : State := { wS with cmds := [m] }
/-- A fill that has not entered. -/
def wFill (dst : DWord) (n : Nat) : Cmd := wCmd (.fill dst n 0x01020304) .copy false []

theorem counts (m : Cmd) (h : m.cell = some 63 ∧ m.gen = ((wSm m).core m.cl m.co).gen ∧ m.epoch = (((wSm m).core m.cl m.co).cell 63).epoch) :
    Counts (wSm m) m 63 := ⟨h.1, h.2.1.symm, h.2.2.symm⟩

/-- A fill that may enter. -/
structure Enters (m : Cmd) (dst : DWord) (n : Nat) : Prop where
  found : (wSm m).cmd? m.id = some m
  may : (wSm m).mayEnter m = true
  kind : m.kind = .fill dst n 0x01020304
  counts : Counts (wSm m) m 63
  done : (cellIn (wSm m) m 63).done < 65535

theorem enters (dst : DWord) (n : Nat) : Enters (wFill dst n) dst n := ⟨rfl, rfl, rfl, ⟨rfl, rfl, rfl⟩, by show 0 < 65535; decide⟩

/-- A fill with a part for core 0. -/
def wPart (gen : Nat) : Cmd := { wCmd (.fill 0 8 0) .copy true [(0, 2)] with dests := [⟨0, gen, 8, false, true, 0, false, false⟩], owed := 8 }

theorem witness_EngineEntry :
    (Enters (wFill 0x100000 8) 0x100000 8 ∧ (0x100000 : DWord).toNat / 2 ^ 60 = 0 ∧ (0x100000 : DWord).toNat % 4 = 0 ∧ 8 % 4 = 0 ∧ (cellIn (wSm (wFill 0x100000 8)) (wFill 0x100000 8) 63).pend = 0) ∧
    (Enters (wFill 0x2000000000000000 0) 0x2000000000000000 0 ∧ (0x2000000000000000 : DWord).toNat / 2 ^ 60 = 2 ∧ (0x2000000000000000 : DWord).toNat % 4 = 0) ∧
    (Enters (wFill 0x3000000000000000 0) 0x3000000000000000 0 ∧ 2 < (0x3000000000000000 : DWord).toNat / 2 ^ 60) ∧
    (Enters (wFill 1 8) 1 8 ∧ (1 : DWord).toNat % 4 ≠ 0 ∧ Enters (wFill 0 6) 0 6 ∧ 6 % 4 ≠ 0) ∧
    (∀ gen, let m := wPart gen
      (wSm m).cmd? m.id = some m ∧ m.entered = true ∧ m.cell = some 63 ∧ m.dests.find? (fun x => x.co == 0 && x.expect && !x.posted && !x.finished) = m.dests.head?) ∧
    ((wSm (wPart 1)).core 0 0).gen = 1 ∧ ((wSm (wPart 2)).core 0 0).gen ≠ 2 ∧ (((wSm (wPart 1)).core 0 0).cell 63).epoch = 0 ∧ (((wSm (wPart 1)).core 0 0).cell 63).pend = 0 :=
  ⟨⟨enters _ _, by decide, by decide, by decide, rfl⟩, ⟨enters _ _, by decide, by decide⟩, ⟨enters _ _, by decide⟩, ⟨enters _ _, by decide, enters _ _, by decide⟩,
   fun _ => ⟨rfl, rfl, rfl, rfl⟩, rfl, by decide, rfl, rfl⟩

/-- A fill with its first word still to land. -/
def wLand : Cmd := { wCmd (.fill 0x100000 8 0x01020304) .copy true [(0, 1)] with owed := 4 }

/-- The state with the command, this open choice next, and these mismatches under way. -/
def wSo (m : Cmd) (n : Nat) (e : List EngUpset) : State := { wSm m with oracle := [n], engUpsets := e }
/-- A mismatch of the command's engine. -/
def wEu (m : Cmd) (second : Bool) : EngUpset := ⟨0, 0, m.engine, second⟩
/-- An element of a command is to land, counted in cell 63, and no fault is about to strike. -/
def Lnd (s : State) (m : Cmd) (k : Nat) : Bool :=
  decide (s.cmd? m.id = some m) && s.landReady m k && !hasIndex k (takeIndex k m.todo) && decide (m.cell = some 63) && decide ((s.core m.cl m.co).gen = m.gen) &&
    decide (((s.core m.cl m.co).cell 63).epoch = m.epoch) && decide (m.dests = []) && (s.engUpset m m.co).isNone

theorem landing {s : State} {m : Cmd} {k : Nat} (h : Lnd s m k = true) : Landing s m k 63 := by
  simp only [Lnd, Bool.and_eq_true, decide_eq_true_eq, Bool.not_eq_true', Option.isNone_iff_eq_none] at h
  obtain ⟨⟨⟨⟨⟨⟨⟨h1, h2⟩, h3⟩, h4⟩, h5⟩, h6⟩, h7⟩, h8⟩ := h
  exact ⟨h1, h2, h3, ⟨h4, h5, h6⟩, h7, h8⟩

/-- One after another, an engine finds n bytes at these addresses of global memory, to read or to write, each in one plain part. -/
def Finds (m : Cmd) (n : Nat) : State → List (Bool × DWord) → Bool
  | _, [] => true
  | s, (w, a) :: l =>
    match s.engPart m w false .gm (engOff a 0) n with
    | (s1, .ok p) => !p.prot && decide (p.len = n) && decide (s1.cores = s.cores) && decide (s1.cmds = s.cmds) &&
        (if w then (s1.partlyPoisoned p).isEmpty else !s1.poisoned p.addr n) && Finds m n s1 l
    | _ => false

/-- Element k of a command is to land and finds its bytes: at once, after the open choice of R289, and once it has been acknowledged. -/
def Moves3 (m : Cmd) (k n : Nat) (l : List (Bool × DWord)) : Bool :=
  [(m, 0), (m, 1), ({ m with early := [(k, none)], owed := 0 }, 0)].all (fun x =>
    let s := wSo x.1 x.2 []
    Lnd s x.1 k && Finds x.1 n (landsFrom s x.1 k) l && (x.2 == 0 || decide (n ≤ x.1.owed)) && s.choose.1 % 2 == x.2)

/-- A copy of two words, the parts of two threads, a layout of two rows of atoms that is split in its second dimension, with a point outside. -/
def wBx : Box := { ext := [2, 1, 1, 1, 1], sstr := [0, 0, 0, 0], dstr := [0, 0, 0, 0], esize := 4 }
def wBox : Cmd := { wCmd (.box 0x100000 0x200000 0 wBx) .copy true [(0, 2)] with owed := 8 }
def wCpt : Cmd := { wCmd (.copyT 4 [(0, 0x100000, 0x200000), (3, 0x100004, 0x200002)]) .copy true [(0, 2)] with owed := 8, writers := [(Config.hbmBase + 0x200003, 3)] }
def wShp (edge : Bool) : Shape := { edge := edge, wa := 16, ext := [2, 3], sstr := [1, 2], dstr := [1, 2, 4], pad := 0x7766, order := [0, 1, 2], split := [0, 0] }
def wLay (edge : Bool) : Cmd := { wCmd (.layout 0x100000 0x200000 0 0x100 (wShp edge)) .layout true [(0, 8)] with owed := 16, stash := [(8, 0)] }

/-- The same bytes lie under other names of the source's pages in no way. -/
def Apart (m : Cmd) (src : DWord) (off n : Nat) : Bool :=
  (List.range n).all (fun i => !((wSo m 0 []).choose.2.namesOf m .gm (wBx.pages src) (off + i)).any (wBx.reads src))

theorem witness_EngineBytesLand :
    (Moves3 wLand 0 4 [(true, 0x100000)] = true ∧ engSpace 0x100000 = some .gm ∧ Landing (wSo wLand 0 []) wLand 0 63) ∧
    (Moves3 wBox 1 4 [(false, 0x100004), (true, 0x200004)] = true ∧ Apart wBox 0x100000 0x200004 4 = true ∧ 0 < 4 ∧ engSpace 0x200000 = some .gm) ∧
    (Moves3 wCpt 0 4 [(false, 0x100000), (true, 0x200000)] = true ∧ ∃ p, wCpt.kind = .copyT 4 p ∧ p[0]? = some (0, 0x100000, 0x200000)) ∧
    (∀ edge, (layoutPoint 0x100 (wShp edge) 3 = (some 3, 3) ∧ Moves3 (wLay edge) 3 2 [(false, 0x100006), (true, 0x200006)] = true ∧
        layoutOverlaps 0x100 (wShp edge) 0x100000 ((wSo (wLay edge) 0 []).namesOf (wLay edge) .gm (layoutPages 0x100 (wShp edge) 0x100000) 0x200006) 0 16 = false) ∧
      layoutPoint 0x100 (wShp edge) 6 = (none, 6) ∧ Moves3 (wLay edge) 6 2 [(true, 0x20000C)] = true ∧ (wLay edge).stash = [(8, 0)] ∧ (wShp edge).wa = 8 * 2 ∧
        layoutOverlaps 0x100 (wShp edge) 0x100000 ((wSo (wLay edge) 0 []).namesOf (wLay edge) .gm (layoutPages 0x100 (wShp edge) 0x100000) 0x20000C) 0 16 = false) ∧
    (splitOf 0 0 = 0 ∧ splitOf 0 1 = 0 ∧ (wShp true).ext = [2, 3] ∧ (wShp true).dstr.take 2 = [1, 2] ∧ 1 < 2 ∧ 2 < 3) ∧
    ((wSo wLand 0 [wEu wLand false]).engUpset wLand 0 = some (wEu wLand false) ∧ (wSo wLand 0 [wEu wLand false]).landReady wLand 0 = true) := by
  refine ⟨⟨by decide +kernel, by decide, landing (by decide +kernel)⟩, ⟨by decide +kernel, by decide +kernel, by decide, by decide⟩, ⟨by decide +kernel, _, rfl, rfl⟩, ?_,
    by decide, by decide +kernel⟩
  intro edge
  cases edge <;> exact ⟨⟨by decide +kernel, by decide +kernel, by decide +kernel⟩, by decide +kernel, by decide +kernel, rfl, rfl, by decide +kernel⟩

/-- A clear of tile 3, a multiply of no columns, a bank update. -/
def wClr : Cmd := wCmd (.accClr 3) .matrix true [(127, 128)]
def wMma : Cmd := wCmd (.mma .plain 0 0 0 3 ⟨0, 1, 0, 0, 0⟩ ⟨0, 1, 0, 0, 0⟩ false) .matrix true [(0, 128)]
def wAxpy : Cmd := wCmd (.bankop .axpy 5 0 0 0x20 1 3) .bank true [(0, 1)]

/-- acc.ld of tile 3; acc.st of it through slot 0, an f16 slot, and an f8 slot with scales; acc.stx of it to memory and to the banks. -/
def wAld : Cmd := wCmd (.accLd .gm 0x100000 3) .matrix true [(0, 128)]
def wAst : Cmd := { wCmd (.accSt .gm 0x200000 3 0) .matrix true [(0, 4096)] with owed := 65536 }
def wStx (add : Bool) : Cmd :=
  { wCmd (.accStx (if add then .bk else .gm) add (if add then 0 else 0x200000) 3 0 512 [0, 1]) (if add then .bank else .matrix) true [(0, 256)] with owed := 1024 }
/-- The state of an acc.st through that slot. -/
def wSslot (code : DWord) : State := { wSo wAst 0 [] with launches := [{ wL with slots := [code] }] }

/-- A row of acc.ld finds its 512 bytes, unit by unit, and nothing moves on the way. -/
def RowFinds (row : Nat) : Bool :=
  let s := wSm wAld
  (List.range 8).all (fun n => match accOff .gm (0x100000 + 512 * row + 64 * n) with
    | .ok off => (match s.engPart wAld false false .gm off 64 with | (s1, .ok p) => decide (s1 = s) && !p.prot && decide (p.len = 64) && !s.poisoned p.addr 64 | _ => false)
    | _ => false)

/-- The accumulator's rows and elements that load, store and scatter. -/
theorem witness_Accumulator :
    ((wSm wAld).cmd? wAld.id = some wAld ∧ (wSm wAld).rowReady wAld 127 = true ∧ Counts (wSm wAld) wAld 63 ∧ RowFinds 127 = true) ∧
    (Moves3 wAst 5 16 [(true, 0x200050)] = true ∧ 16 * 5 < 2048 * elemWidth ((wSslot 1).cmdSlot wAst 0).elem) ∧
    (Moves3 wAst 1030 16 [(true, 0x204060)] = true ∧ 2048 * elemWidth ((wSslot 0x144).cmdSlot wAst 0).elem ≤ 16 * 1030) ∧
    (Moves3 (wStx false) 133 4 [(true, 0x200214)] = true ∧ accOff .gm (0x200000 + 512 * 1 + 4 * 5) = .ok 0x200214 ∧ (wSm (wStx false)).poisoned (spAddr 0 0 516) 4 = false) ∧
    (∀ n, let s := wSo (wStx true) n []
      s.cmd? (wStx true).id = some (wStx true) ∧ (wStx true).going = true ∧ hasIndex 5 (wStx true).todo = true ∧ s.atHead (wStx true) = true ∧
        hasIndex 5 (takeIndex 5 (wStx true).todo) = false ∧ Counts s (wStx true) 63 ∧ s.session? 0 = none ∧ s.engUpsets = [] ∧ s.choose.1 = n ∧
        (bkPart (s.ctxOf 0) 20 4).isSome = true) := by
  refine ⟨⟨rfl, by decide +kernel, ⟨rfl, rfl, rfl⟩, by decide +kernel⟩, ⟨by decide +kernel, by decide⟩, ⟨by decide +kernel, by decide⟩, ⟨by decide +kernel, rfl, by decide +kernel⟩, ?_⟩
  intro n
  exact ⟨rfl, rfl, rfl, rfl, rfl, ⟨rfl, rfl, rfl⟩, rfl, rfl, rfl, rfl⟩

theorem witness_MatrixRowsAndBankUpdates :
    ((wSm wClr).cmd? wClr.id = some wClr ∧ (wSm wClr).rowReady wClr 127 = true ∧ Counts (wSm wClr) wClr 63) ∧
    ((wSm wMma).rowReady wMma 0 = true ∧ Counts (wSm wMma) wMma 63 ∧
      (match (wSm wMma).mmaRow wMma .plain 0 0 0 3 ⟨0, 1, 0, 0, 0⟩ ⟨0, 1, 0, 0, 0⟩ 0 0 with
       | .row l => l.length = 128 ∧ ∀ x ∈ l, x < 2 ^ 32
       | _ => False)) ∧
    (∀ b, (wSo wMma 0 [wEu wMma b]).engUpset wMma 0 = some (wEu wMma b) ∧ (wSo wMma 0 [wEu wMma b]).mmaRow wMma .plain 0 0 0 3 ⟨0, 1, 0, 0, 0⟩ ⟨0, 1, 0, 0, 0⟩ 0 0 =
      (wSm wMma).mmaRow wMma .plain 0 0 0 3 ⟨0, 1, 0, 0, 0⟩ ⟨0, 1, 0, 0, 0⟩ 0 0) ∧ (wSm wMma).engUpset wMma 0 = none ∧
    ((wSm wAxpy).engUpset wAxpy 0 = none ∧ hasIndex 0 (takeIndex 0 wAxpy.todo) = false) ∧
    ((wSm wAxpy).cmd? wAxpy.id = some wAxpy ∧ wAxpy.going = true ∧ hasIndex 0 wAxpy.todo = true ∧ (wSm wAxpy).session? wAxpy.ctx = none ∧ wAxpy.dests = [] ∧
      (bkPart ((wSm wAxpy).ctxOf 0) 0x20 4).isSome = true ∧ (bkPart ((wSm wAxpy).ctxOf 0) 0 4).isSome = true ∧ (wSm wAxpy).poison = []) := by
  refine ⟨⟨rfl, rfl, ⟨rfl, rfl, rfl⟩⟩, ⟨by decide +kernel, ⟨rfl, rfl, rfl⟩, ?_⟩, by decide +kernel, rfl, ⟨rfl, by decide⟩, rfl, rfl, rfl, rfl, rfl, by decide +kernel, by decide +kernel, rfl⟩
  have h : (match (wSm wMma).mmaRow wMma .plain 0 0 0 3 ⟨0, 1, 0, 0, 0⟩ ⟨0, 1, 0, 0, 0⟩ 0 0 with
    | .row l => l == List.replicate 128 0
    | _ => false) = true := by decide +kernel
  split at h
  · rename_i l _
    have : l = List.replicate 128 0 := by simpa using h
    subst this
    exact ⟨by simp, by simp⟩
  · cases h

/-- A front that waits for a cell. -/
def wGw (w : Wait) : Group := { wG with fronts := [{ tslots := [0], wait := some w }] }
/-- A load that aborts. -/
def wAbt : Cmd := { wCmd (.accLd .gm 0 3) .matrix true [(0, 128)] with err := some (2, 0) }

theorem witness_CommandsEnd :
    ((wSm { wClr with todo := [] }).finishReady { wClr with todo := [] } = true ∧ Counts (wSm { wClr with todo := [] }) { wClr with todo := [] } 63 ∧
      (cellIn (wSm wClr) wClr 63).done < 65535) ∧
    ((wSm wAbt).abortReady wAbt = true ∧ Counts (wSm wAbt) wAbt 63 ∧ wAbt.dests = [] ∧ (wSm wAbt).unobserved wAbt [] wAbt.apart 2 = none) ∧
    (∀ w, { wC with groups := [wGw w] }.group? 0 = some (wGw w) ∧ (wGw w).fronts[0]? = some { tslots := [0], wait := some w }) ∧
    (({ wC with groups := [wGw (.cwait 3 63)] } : Core).cell 63).pend = 0 ∧ wS.earlyIn { wC with groups := [wGw (.cwait 3 63)] } 63 = false ∧ 0 ≤ (({ wC with groups := [wGw (.cacq 63 0)] } : Core).cell 63).done :=
  ⟨⟨rfl, ⟨rfl, rfl, rfl⟩, by show 0 < 65535; decide⟩, ⟨by decide +kernel, ⟨rfl, rfl, rfl⟩, rfl, by decide +kernel⟩, fun _ => ⟨rfl, rfl⟩, rfl, rfl, by decide⟩

/-! ### Blocks, queues, launches, images -/

/-- Memory that holds bytes from an address on. -/
def wBytes (a : Nat) (l : List Byte) : Memory := l.zipIdx.filterMap (fun x => if x.1 = 0 then none else some (a + x.2, x.1))

/-- A launch with its block waiting; a free core 0; the block, ended or saved. -/
def wLw : Launch := { wL with blocks := [{ index := 0, at_ := .waiting }] }
def wSw : State := { wS with launches := [wLw], cores := [{ wC with block := none, threads := [], groups := [] }], cur := none }
def wBl (parked : Bool) : Block := { launch := 1, index := 0, z := 2 ^ 20, ctx := 0, save := if parked then some .slice else none, parked := parked, keep := [(0, 64)] }
def wCe (parked : Bool) : Core := { wC with block := some (wBl parked), threads := [], groups := [] }
def wSe (parked : Bool) : State := { wS with cores := [wCe parked], cur := none }

/-- A launch with a spawn ring whose two blocks are a GANG unit, on two cores of the cluster. -/
def wLg : Launch := { wL with sra := 0x100000, levels := [⟨1, 0, false⟩, ⟨1, 1, false⟩, ⟨2, 2, true⟩], blocks := [{ index := 0, at_ := .placed 0 0 }, { index := 1, at_ := .placed 0 1 }] }
def wSgang : State := { wS with cores := [wCe false, { wCe false with co := 1, block := some { wBl false with index := 1 } }], launches := [wLg], cur := none }

theorem witness_BlocksComeAndGo :
    (wSw.launch? 1 = some wLw ∧ wSw.placement wLw 0 0 0 0 = some [(0, 0, 0)] ∧ wLw.gangLevel = none ∧ wLw.sra = 0 ∧
      wLw.blocks.find? (fun x => x.index == 0) = some { index := 0, at_ := .waiting } ∧ wLw.relaunches { index := 0, at_ := .waiting } = false) ∧
    (∀ p, (wCe p).block = some (wBl p) ∧ (wSe p).launch? (wBl p).launch = some wL ∧ (wSe p).blockIdle (wCe p) (wBl p) = true ∧
      (wCe p).svc.replaceDue = false ∧ (wCe p).svc.testDue = false ∧ (wBl p).parked = p ∧ (wBl p).isOver = false ∧ wL.sra = 0 ∧
      (wSe p).unitCores wL 0 = [(wCe p, wBl p)]) ∧
    (wSgang.core 0 0 = wCe false ∧ wSgang.launch? 1 = some wLg ∧ wSgang.blockIdle (wCe false) (wBl false) = true ∧ wLg.sra ≠ 0 ∧
      ({ wBl false with index := 1 } : Block).isOver = false ∧ (wSgang.unitCores wLg 0).map (fun x => (x.1.cl, x.1.co, x.2.isOver)) = [(0, 0, false), (0, 1, false)]) ∧
    (let r := (wSe true).keepOut 0 0 wL 0 (wBl true).keep.eraseDups
     r.2 = none ∧ r.1.cores = (wSe true).cores ∧ r.1.launches = (wSe true).launches) := by
  refine ⟨⟨by decide, by decide +kernel, by decide, by decide, by decide, by decide⟩, ?_, by decide +kernel, by decide +kernel, by decide +kernel, by decide +kernel⟩
  intro p
  cases p <;> exact ⟨rfl, rfl, by decide +kernel, rfl, rfl, rfl, rfl, rfl, by decide +kernel⟩

/-- The place of a queue's control block. -/
def wQ : Nat := Config.qcbBase
/-- The partition that serves it, with a queue table at 0x2000. -/
def wP : Partition := { idx := 0, ctxList := [0], slices := [[0]], queues := [wQ], activeQ := [wQ], qtable := some 0x2000, qtableK := 8 }
/-- A translation of the first GiB for the partition's Eland. -/
def wTlbE : TlbEntry := ⟨2, 6, 0, 0, 2 ^ 30, 0x00100000000008C3⟩
/-- A state with a packet in the queue's ring at 0x1000, at this step of it, in this state of the queue. -/
def wSq (pkt : List Nat) (step state : Nat) : State :=
  { wS with parts := [wP], tlb := [wTlbE], cur := none, launches := [],
            mem := wBytes 0x1000 (pkt.flatMap (leBytes 8)) ++ wBytes (0x2000 + 16 * queueHash 0 5 8) (leBytes 16 (wQ + 5 * 2 ^ 84 + 2 ^ 100)) ++
              wBytes wQ (leBytes 24 (0x1000 + 4 * 2 ^ 64 + 1 * 2 ^ 128 + step * 2 ^ 160 + state * 2 ^ 168)) }

/-- A packet may be served. -/
def ServesQ (s : State) (p : Pkt) (step : Nat) : Prop :=
  s.serves wQ = true ∧ s.fenced wQ = false ∧ pktOf (s.packet wQ) = p ∧ (s.queue wQ).step = step

theorem witness_QueuesAndPackets :
    (∀ prot, let s : State := { wSq [2, 0, 0, 0x100, 7, 0, 0, 0] 0 0 with ctxs := [{ wX with prot := prot }] }
     s.part? 0 = some wP ∧ s.foreignPasid 0 0 = false ∧ s.findQueue wP 0 5 = some wQ ∧ s.findQueue wP 0 6 = none ∧ s.turnsAway (s.ctxOf (s.queue wQ).ctx) none true = prot ∧
       (2 : Nat) ≠ (s.queue wQ).rd ∧ (s.queue wQ).state = 0) ∧
    (ServesQ (wSq [2, 0, 0, 0x100, 7, 0, 0, 0] 0 1) (.write 0x100 7) 0 ∧
      let s := wSq [2, 0, 0, 0x100, 7, 0, 0, 0] 0 1
      (s.elandWrite (s.ctxOf (s.queue wQ).ctx) (wQ, 0, 0) 0x100 7).2 = .ok []) ∧
    (ServesQ (wSq [4, 0, 0, 0x100, 7, 0, 0, 0] 0 2) (.wait 0x100 7 0) 0 ∧
      let s := wSq [4, 0, 0, 0x100, 7, 0, 0, 0] 0 2
      (s.elandRead (s.ctxOf (s.queue wQ).ctx) (wQ, 0, 0) 0x100 8 8).2 = .ok [0, 0, 0, 0, 0, 0, 0, 0]) ∧
    ServesQ (wSq [4, 0, 0, 0x100, 0, 0, 0, 0] 0 2) (.wait 0x100 0 0) 0 ∧
    (ServesQ (wSq [0x203, 0, 0, 0, 0, 0, 0, 0] 0 1) .signal 0 ∧ sigAddr ((wSq [0x203, 0, 0, 0, 0, 0, 0, 0] 0 1).packet wQ) = 0) ∧
    ServesQ (wSq [2, 0, 0, 0x100, 7, 0, 0, 0] 1 1) (.write 0x100 7) 1 ∧
    ServesQ (wSq [6, 0, 0, 0x4000, 0x8000, 320, 0, 0] 0 1) (.imageLoad 0x4000 0x8000 320 false) 0 ∧
    ServesQ (wSq [6, 0, 0, 0x4000, 0x8000, 320, 0, 0] 1 2) (.imageLoad 0x4000 0x8000 320 false) 1 := by
  unfold ServesQ
  refine ⟨?_, by decide +kernel⟩
  intro prot
  cases prot <;> exact ⟨rfl, by decide +kernel, by decide +kernel, by decide +kernel, by decide +kernel, by decide +kernel, by decide +kernel⟩

/-- A launch record: image 1, procedure 1, one level, Z of one page, one stack of 4 KiB. -/
def wRec : List Nat := [1 + 1 * 2 ^ 32 + 1 * 2 ^ 48 + 1 * 2 ^ 56, 64, 0x100000, 0x1000, 1, 0, 0, 0, 0, 0, 0, 0, 1 * 2 ^ 16]
/-- The state in which a queue's packet names it. -/
def wSl (ty : Nat) (r : List Nat) : State :=
  { wSq [] 0 1 with mem := wBytes 0x1000 ([ty, 0, 0, 0x1100, 0, 0, 0, 0].flatMap (leBytes 8)) ++ wBytes 0x1100 (r.flatMap (leBytes 8)) ++
              wBytes wQ (leBytes 24 (0x1000 + 4 * 2 ^ 64 + 1 * 2 ^ 128 + 1 * 2 ^ 168)) }
/-- A launch that is done, with a signal or none. -/
def wLd (sig : DWord) : Launch := { wL with blocks := [{ index := 0, at_ := .ended }], sigAddr := sig, sigVal := 9, irq := true }
def wSd (sig : DWord) : State := { wS with launches := [wLd sig], tlb := [wTlbE] }

/-- Step 0 of a packet makes a launch of the record at `record`, whose bytes are read and whose image stands, with these rejected addresses and
these records. -/
def Makes (s : State) (record : Nat) (pool : Option (Nat × Nat)) (bad recs : List Nat) : Bool :=
  (match (s.makeLaunch (s.ctxOf (s.queue wQ).ctx) wQ (s.packet wQ) record pool).2 with
   | .launch l b => b.map Prod.fst == bad && l.blocks.flatMap (fun k => k.records.map (fun r => r.addr.toNat)) == recs
   | _ => false) &&
  (match s.elandRead (s.ctxOf (s.queue wQ).ctx) (wQ, 0, 0) record 256 64 with | (s0, .ok b) => (s0.image? (leNat b % 2 ^ 32)).isSome | _ => false)
/-- The record of `wRec` with a pool of one record at 0x6000, and a state that holds them with code, whose packet of type `ty` names the record. -/
def wRecP : List Nat := wRec.take 8 ++ [0x6000, 1, 0, 0, 1 * 2 ^ 16]
def wSr1 (ty : Nat) : State :=
  { wSq [] 0 1 with images := [wIm],
                    mem := (wM wC wT).mem.filter (fun x => decide (x.1 < 0x5000)) ++ wBytes 0x5000 (([ty, 0, 0, 0x5100] ++ (if ty = 7 then [0x6000, 1, 0, 0] else [0, 0, 0, 0])).flatMap (leBytes 8)) ++ wBytes 0x5100 (wRecP.flatMap (leBytes 8)) ++ wBytes 0x6000 (leBytes 64 ((⟨1, [8], 1⟩ : Path).encode + 1 * 2 ^ 368)) ++ wBytes wQ (leBytes 24 (0x5000 + 4 * 2 ^ 64 + 1 * 2 ^ 128 + 1 * 2 ^ 168)) ++ wBytes Config.codeBase wCode }
/-- Step 0 of a packet refuses its launch. -/
def Refuses (s : State) : Bool :=
  match (s.makeLaunch (s.ctxOf (s.queue wQ).ctx) wQ (s.packet wQ) 0x1100 none) with | (s1, .refuse _ _) => s1.packet wQ == s.packet wQ | _ => false

theorem witness_Launches :
    (ServesQ (wSl 1 wRec) (.launch 0x1100) 0 ∧ Makes (wSl 1 wRec) 0x1100 none [] [] = true) ∧
    (ServesQ (wSr1 1) (.launch 0x5100) 0 ∧ Makes (wSr1 1) 0x5100 none [] [0x6000] = true) ∧
    (ServesQ (wSr1 7) (.resume 0x5100 0x6000 1) 0 ∧ Makes (wSr1 7) 0x5100 (some (0x6000, 1)) [] [0x6000] = true) ∧
    Makes (wSl 7 wRec) 0x1100 (some (0x2000, 1)) [0x2000] [] = true ∧
    (ServesQ (wSl 1 []) (.launch 0x1100) 0 ∧ Refuses (wSl 1 []) = true ∧ sigAddr ((wSl 1 []).packet wQ) = 0) ∧
    (ServesQ (wSl 7 wRec) (.resume 0x1100 0 0) 0 ∧ Makes (wSl 7 wRec) 0x1100 (some (0, 0)) [] [] = true) ∧
    ((wSd 0).launch? 1 = some (wLd 0) ∧ (wSd 0).launchDone (wLd 0) = true) ∧
    ((wSd 8).launchDone (wLd 8) = true ∧
      ((wSd 8).elandWrite ((wSd 8).ctxOf 0) (0, 1, 1) 8 9).2 = .ok [] ∧ ((wSd 8).elandWrite ((wSd 8).ctxOf 0) (0, 1, 1) 8 9).1.outputs = (wSd 8).outputs) := by
  unfold ServesQ
  decide +kernel

/-! ### Image loads -/

/-- An image of 376 bytes: one procedure of one clause, under signer 5. -/
def wHdr : Nat :=
  0x4954594E + 1 * 2 ^ 32 + 1 * 2 ^ 48 + 5 * 2 ^ 128 + 376 * 2 ^ 768 + 256 * 2 ^ 800 + 288 * 2 ^ 864 + 18 * 2 ^ 896 + 312 * 2 ^ 928 + 312 * 2 ^ 992 +
    ([12, 2, 32, 32, 8, 64, 4, 16, 64, 4096, 1].zipIdx.map (fun (x : Nat × Nat) => x.1 * 2 ^ (1600 + 16 * x.2))).foldl (· + ·) 0
def wObj : List Byte :=
  leBytes 256 wHdr ++ leBytes 32 (1 + 8 * 2 ^ 16 + 0xFFFF * 2 ^ 32 + 18 * 2 ^ 96) ++ ([0xC0, 1, 0, 0, 18] ++ wCl) ++ List.replicate 70 0
/-- The signer. -/
def wSg : Signer := { id := 5, key := 0, state := 1 }
/-- A load of it from 0x4000, with the signer in the table or not. -/
def wLt : LoadTask := { id := 3, qcb := wQ, ctx := 0, img := 0x4000, len := 376, dataDst := 0x8000, commit := false }
def wSi (l : List Signer) : State :=
  { wS with tlb := [wTlbE], loads := [wLt], cur := none, launches := [], images := [], mem := wBytes 0x4000 wObj, pkg := { wS.pkg with signers := l } }

/-- The image is installed where its signature is good: whether it is stands in no rule (log entry 7). -/
theorem witness_ImageLoads :
    (∀ l, (wSi l).loads.find? (fun x => x.id == 3 && x.answer.isNone) = some wLt ∧ ((wSi l).loads.filter (fun x => x.id == 3)).length = 1) ∧
    (((wSi []).elandRead ((wSi []).ctxOf 0) (wQ, 2, 3) 0x4000 376 1).2 = .ok wObj ∧ ((wSi []).elandRead ((wSi []).ctxOf 0) (wQ, 2, 3) 0x4000 376 1).1.loads = [wLt]) ∧
    (match (wSi []).verify wObj 376 with | .error e => e == .signer | _ => false) = true ∧
    (Config.sm2Verify 0 ((wObj.drop 16).take 16) (wObj.take 312) (bytes512 (wObj.drop 312)) = true →
      ∃ r, (wSi [wSg]).verify wObj 376 = .ok r ∧ (wSi [wSg]).codeFrame 0 r.code.length = some 0 ∧ (wSi [wSg]).floorFull wLt r.hdr = false ∧
        ∃ s2, (wSi [wSg]).gmWriteAll (elandCl 0) 0 ((wSi [wSg]).ctxOf 0) false (r.data.length / 4096 + 2) 0x8000 r.data = (s2, .ok ()) ∧ s2.loads = [wLt] ∧
          (s2.putImage (s2.newImage wLt 0 0 r) r.code).isSome = true) ∧ wX.part < 12 ∧ wX.ptroot % 4096 = 0 := by
  refine ⟨fun _ => ⟨rfl, rfl⟩, ⟨by decide +kernel, by decide +kernel⟩, ?_, ?_, by decide, by decide⟩
  · decide +kernel
  · intro hv
    have h : ∃ r, (wSi [wSg]).verify wObj 376 = .ok r ∧ r.code.length ≤ 4096 ∧ r.data = [] ∧
        ((wSi [wSg]).putImage ((wSi [wSg]).newImage wLt 0 0 r) r.code).isSome = true := by
      refine ⟨?r, ?p, ?q⟩
      case p =>
        have hs : (wSi [wSg]).pkg.signers.find? (fun y => y.id == (imageHdr (leNat (wObj.take 256))).signer && y.state == 1) = some wSg := by decide +kernel
        unfold State.verify
        rw [if_neg (by decide +kernel), hs]
        change (if (!Config.sm2Verify 0 ((wObj.drop 16).take 16) (wObj.take 312) (bytes512 (wObj.drop 312))) = true then _ else _) = _
        rw [hv, if_neg (by decide), if_neg (by decide +kernel), if_neg (by decide +kernel), if_neg (by decide +kernel)]
        dsimp only
        rw [if_neg (by decide +kernel)]
      case q => exact ⟨by decide +kernel, by decide +kernel, by decide +kernel⟩
    obtain ⟨r, hr, hc, hd, hp⟩ := h
    refine ⟨r, hr, ?_, rfl, ?_⟩
    · have : (r.code.length + 4095) / 4096 ≤ Config.codePages := by show _ ≤ 262144; omega
      simp [State.codeFrame, wSi, wS, wX, this]
    · rw [hd]
      exact ⟨_, rfl, rfl, hp⟩

/-! ### Translation, time slices, replay -/

/-- A stalled read of a thread. -/
def wSt : Stall := { id := 4, part := 0, cl := 0, ctx := 0, va := 0x2000, src := 0, acc := .read, who := some (0, 0, 0) }
/-- The state with it, and a fault ring at 0x1000. -/
def wSf : State :=
  { wS with stalls := [wSt], parts := [{ idx := 0, ctxList := [0], ringAddr := some 0x40000 }], cores := [{ wC with groups := [{ wG with fronts := [{ tslots := [0], stop := some (.stall 4) }] }] }] }
/-- A context whose page tables stand at 0x4000, with a leaf for the first GiB. -/
def wXp : Context := { wX with ptroot := 0x4000 }
def wSp : State :=
  { wS with tlb := [], ctxs := [wXp], mem := wBytes 0x4000 (leBytes 8 (0x5000 + 1)) ++ wBytes 0x5000 (leBytes 8 (0x6000 + 1)) ++ wBytes 0x6000 (leBytes 8 0x0000000000000043) }

theorem witness_FaultsAndResponses :
    (wSf.stalls.find? (fun x => x.id == 4) = some wSt ∧ wSf.entryDue wSt = true ∧ wSf.ringPlace wSt.part = some 0x40000 ∧ wSt.src ≤ 5 ∧ wSt.cl < 256 ∧ wSt.ctx < 2 ^ 16 ∧ wSt.va < 2 ^ 64) ∧
    (wSp.ctx? 0 = some wXp ∧ canonicalVa 0 = true ∧ wSp.tlbFind 0 0 0 (0 % 2 ^ 57) = none ∧
      (match wSp.walkFrom 0 wXp (0 % 2 ^ 57) with | (_, .leaf _ a e) => e == wSp.mem.readLe a 8 | _ => false) = true) ∧
    (∀ fail : Bool, (BitVec.ofNat 64 (0x2000 / 4096 * 2 ^ 19 + 0 * 2 ^ 3 + (if fail then 1 else 0)) : DWord).toNat = 0x2000 / 4096 * 2 ^ 19 + 0 * 2 ^ 3 + (if fail then 1 else 0)) ∧
    wSf.stalls.filter (fun x => x.part == 0 && x.ctx == 0 && x.va % 2 ^ 57 / 4096 == 0x2000 / 4096 && !x.fail) = [wSt] ∧
    ((wSf.core 0 0).group? 0).isSome = true ∧ (wSf.core 0 0).threadAt { wG with fronts := [{ tslots := [0], stop := some (.stall 4) }] } 0 = some wT := by
  refine ⟨⟨rfl, by decide +kernel, by decide +kernel, by decide, by decide, by decide, by decide⟩, ⟨rfl, by decide +kernel, rfl, by decide +kernel⟩, ?_, by decide +kernel, rfl, rfl⟩
  intro fail
  cases fail <;> decide

/-- A partition with an invalidation pending and a window of one page. -/
def wPi : Partition := { idx := 0, ctxList := [0], exportLen := 1, invPending := [{ req := 1 * 2 ^ 19, before := 9, dropped := [(0x1000, 4096)] }] }
def wSv : State := { wS with parts := [wPi] }

theorem witness_InvalidationAndPeers :
    ((1 * 2 ^ 19 + 0 + 1 : DWord).toNat = 0x1000 / 4096 * 2 ^ 19 + 0 * 2 ^ 3 + 1 ∧ wSv.part? 0 = some wPi ∧ wSv.ctx? 0 = some wX ∧ wX.part = 0) ∧ wSv.invDone wPi = true ∧
    0 + 4096 ≤ wPi.exportLen * 4096 ∧ wPi.exportLen * 4096 < 1 + 4096 ∧ ([0] : List Byte).length = 1 := by
  refine ⟨⟨by decide, rfl, rfl, rfl⟩, by decide +kernel, by decide, by decide, rfl⟩

/-- A cluster that is switched to no context, and one under a clear. -/
def wKn : Cluster := { id := 0, ctx := some 0, next := some none }
def wKc : Cluster := { id := 0, ctx := some 0, next := some none, clearing := true, clearAt := 0 }

theorem witness_ClusterSwitches :
    (wS.parts.map (fun p => p.idx)).Nodup ∧
    (∀ prot, let s : State := { wS with clusters := [wKn], cores := [], ctxs := [{ wX with prot := prot }] }
      (s.cluster 0) = wKn ∧ wKn.next = some none ∧ s.clusterEmpty 0 = true ∧ s.eitherProt wKn.ctx none = prot) ∧
    (({ wS with clusters := [wKc] } : State).cluster 0 = wKc ∧ wKc.clearing = true ∧ wKc.clearAt ≤ wS.now ∧ wKc.next = some none ∧
      wS.cores.all (fun c => c.cl != 0 || c.block.isNone) = false ∧ wSw.cores.all (fun c => c.cl != 0 || c.block.isNone) = true) ∧
    ({ wS with clusters := [{ wKc with failed := true, repaired := true, next := none, clearing := false }] } : State).cluster 0 =
      { wKc with failed := true, repaired := true, next := none, clearing := false } := by
  refine ⟨by decide, ?_, ⟨rfl, rfl, by decide, rfl, rfl, rfl⟩, rfl⟩
  intro prot
  cases prot <;> exact ⟨rfl, rfl, rfl, rfl⟩

/-- A session of context 0 whose streams are those, with a packet of a group to drain, or the packets to fill, and the state with it, its ring's
words and these accesses. -/
def wSess (record : Bool) (streams : List Stream) : Session :=
  { id := 5, ctx := 0, record := record, ck := 8, bkr := [], gateUs := 10, ring := 0x10000, ringLen := 2 ^ 20, tail := if record then 64 else 0, streams := streams,
    packets := if record then [] else [List.replicate 8 0], drains := if record then [[(0, 0, 0, 0)]] else [] }
def wSr (x : Session) (accs : List Access) : State := { wS with sessions := [x], accs := accs, mem := wBytes 0x10000 (leBytes 16 (2 ^ 62 + 7 * 2 ^ 32 + 1 + 2 * 2 ^ 64)) }
/-- The stream of the bank home at a run of key 7, one whose next record is the ring's word at n, and the stream of hashes at a record. -/
def wHome : Stream := { kind := 2, die := 0, index := 0, run := some (7, 2) }
def wHomeAt (n : List Nat) : Stream := { kind := 2, die := 0, index := 0, run := some (9, 0), at_ := n }
def wHs : Stream := { kind := 3, die := 0, index := 0, at_ := [0, 8] }
/-- A release store of a bank word held at its home. -/
def wHeldPart : Part := ⟨Config.bankBase, 4, 0, .rc, none, false, false, false⟩
def wHeld (key : Nat) : Access := { wA (.store [1, 2, 3, 4]) with ord := .rel, held := true, key := key, parts := [wHeldPart], space := .bk, long := none }
/-- The group of key 7 at a boundary, and the state with it. -/
def wGh : Group := { wG with key := some 7, bounds := [(1, 2)] }
def wSh (x : Session) : State := { wSr x [] with cores := [{ wC with groups := [wGh] }] }
/-- A packet of the bank home with one run of key 7, and one of the hash stream with three hashes. -/
def wPkt : List DWord := [BitVec.ofNat 64 (2 ^ 63 + 2 * 2 ^ 14), BitVec.ofNat 64 (7 * 2 ^ 32 + 3)] ++ List.replicate 6 padWord
def wPkh : List DWord := [BitVec.ofNat 64 (2 ^ 63 + 3 * 2 ^ 14), 2 ^ 62, 5, 2 ^ 62, 6, 2 ^ 62, 7, padWord]

/-- What an access at its home's gate needs, in a state of the session. -/
def AtGate (x : Session) (key : Nat) : Prop :=
  let s := wSr x [wHeld key]
  s.acc? (wHeld key).id = some (wHeld key) ∧ s.atGates (wHeld key) = [(2, 0, 0)] ∧ s.session? 0 = some x ∧ x.record = false ∧ (wHeld key).partsAt (2, 0, 0) = [wHeldPart] ∧
    s.stale wHeldPart = false ∧ s.partlyPoisoned wHeldPart = []

theorem witness_ReplaySteps :
    (∀ r l, (wSr (wSess r l) []).session? 0 = some (wSess r l) ∧ (wSr (wSess r l) []).ctx? 0 = some wX) ∧
    ((wSess true []).record = true ∧ (wSess true []).truncated = false ∧ (wSess true []).tail ≠ (wSess true []).head ∧ (wSess true []).room = true ∧
      (wSess true []).drains.headD [] = [(0, 0, 0, 0)] ∧ (wC.group? 0).any (fun g => g.born == 0 && g.pend.isNone) = true) ∧
    (∀ w ∈ [wPkt, wPkh], w.length = 8 ∧ (w.headD 0).toNat / 2 ^ 62 = 2 ∧
      (let x := { wSess false [] with packets := [w] }
       x.record = false ∧ x.packets = [w] ∧ x.tail + 64 ≤ x.usedTo + x.ringLen ∧ (x.stream (2, 0, 0)).open_ = false ∧ x.compares = true)) ∧
    (packetHome wPkt = some (2, 0, 0) ∧ packetHome wPkh = some (3, 0, 0) ∧ (∀ j < 3, (wPkh.getD (2 * j + 1) 0).toNat / 2 ^ 62 = 1) ∧ wPkh.getD 7 0 = padWord) ∧
    ((wSess false [wHome]).streams[0]? = some wHome ∧ (wSr (wSess false [wHome]) [wHeld 9]).accsHeld 0 (2, 0, 0) = [wHeld 9] ∧ (wHeld 9).key ≠ 7 ∧
      (wSr (wSess false [wHome]) [wHeld 9]).cmdsHeld 0 (2, 0, 0) = []) ∧
    (({ wC with groups := [wGh] } : Core).group? 0 = some wGh ∧ wS.launch? 1 = some wL ∧ wS.session? 0 = none ∧ wGh.members ≠ [] ∧ wGh.pend = none) ∧
    (∀ c, wS.ctx? 0 = some c → (wSr (wSess true []) []).ringFaults (wSess true []) c = false) ∧
    (let l (n : Nat) := List.replicate n (LogRec.run 1 1 []) ++ [.hash 7 1 2 [(0, 0, 0, 0)]]
     recWords (l 0) < 7 ∧ recWords (l 5) = 7) ∧
    (findHash ((wSh (wSess false [wHs])).ringWord 0) 7 [] ((wSess false [wHs]).stream (3, 0, 0)).at_ = some (1, 2, []) ∧
      findHash ((wSh (wSess false [wHs])).ringWord 0) 8 [] ((wSess false [wHs]).stream (3, 0, 0)).at_ = none ∧
      findHash ((wSh { wSess false [] with packets := [] }).ringWord 0) 7 [] ({ wSess false [] with packets := [] }.stream (3, 0, 0)).at_ = none ∧
      ({ wSess false [] with packets := [] } : Session).allIn (3, 0, 0) = true) ∧
    (AtGate (wSess false [wHome]) 7 ∧ AtGate (wSess false [wHome]) 9 ∧ AtGate (wSess false [{ wHome with open_ := true }]) 9 ∧
      AtGate (wSess false [wHomeAt [0]]) 7 ∧ AtGate { wSess false [wHomeAt []] with packets := [] } 9 ∧ ({ wSess false [wHomeAt []] with packets := [] } : Session).allIn (2, 0, 0) = true ∧
      (let s : State := { wSr (wSess false [wHomeAt [0]]) [] with mem := wBytes 0x10000 (leBytes 8 (7 * 2 ^ 32 + 2)) }
       gateRec (s.ringWord 0 0) = .run 7 (1 + 1)) ∧ (wC.group? 0).any (fun g => g.born == (wHeld 9).grp && g.pend.isNone) = true) := by
  refine ⟨fun _ _ => ⟨rfl, rfl⟩, ⟨rfl, rfl, by decide, by decide, rfl, by decide⟩, by decide +kernel, by decide +kernel, ⟨by decide +kernel, by decide +kernel, by decide, by decide +kernel⟩,
    ⟨rfl, rfl, rfl, by decide, rfl⟩, ?_, by decide, ⟨by decide +kernel, by decide +kernel, by decide +kernel, by decide +kernel⟩, ?_⟩
  · intro c hc
    obtain rfl : wX = c := Option.some.inj hc
    decide +kernel
  · unfold AtGate
    exact ⟨by decide +kernel, by decide +kernel, by decide +kernel, by decide +kernel, by decide +kernel, by decide +kernel, by decide +kernel, by decide⟩

/-- An update of a bank operation waits at the gate of its bank (R379, R383). -/
theorem test_gateHoldsUpdate :
    (wSr { wSess false [wHome] with bkr := [(0, 64)] } []).cmdsHeld 0 (2, 0, 0) = [] ∧
    (({ wSr { wSess false [wHome] with bkr := [(0, 64)] } [] with cmds := [wAxpy] } : State).heldAt 0 (2, 0, 0)).length = 1 := by decide +kernel

/-! ### Mailbox commands -/

/-- A state with a command of a function in its mailbox. -/
def wMb (s : State) (fn op len d : Nat) : State :=
  { s with mailboxes := [{ fn := fn, busy := true }], mem := s.mem ++ wBytes Config.hostBase (leBytes 64 (op + len * 2 ^ 32) ++ leBytes len d) }
/-- The same without launches and blocks. -/
def wS0 : State := { wS with launches := [], cores := [], cur := none, mem := [], parts := [wP], images := [wIm] }

theorem sub {s : State} {fn op d : Nat} (h : s.hasFunction fn = true ∧ ((s.mailbox fn).busy = true ∧ (s.mailbox fn).result = none) ∧ s.opcode fn = op ∧ s.blockBad fn = false ∧ leNat (s.payload fn) = d) :
    Submitted s fn op d := ⟨h.1, h.2.1, h.2.2.1, h.2.2.2.1, h.2.2.2.2⟩

theorem witness_MailboxProtocol :
    (wS.mailbox 1).fn = 1 ∧ wS.hasFunction 1 = true ∧ (wS.mailbox 1).busy = false ∧ (0xFFFFFFFFFFFFF000 : DWord).toNat % 4096 = 0 ∧ (0xFFF : DWord).toNat % 4096 ≠ 0 ∧
    ((wMb wS0 1 0x30 0 0).mailbox 1).busy = true ∧ (wMb wS0 1 0x30 0 0).hasFunction 1 = true ∧ Submitted (wMb wS0 1 0x30 0 0) 1 0x30 0 ∧ Submitted (wMb wS0 1 0x10 0 0) 1 0x10 0 ∧
    (({ wS0 with mailboxes := [{ fn := 0, busy := true, result := some (0, 0, []) }] } : State).mailbox 0).result = some (0, 0, []) := by
  refine ⟨rfl, rfl, rfl, by decide, by decide, rfl, rfl, sub (by decide +kernel), sub (by decide +kernel), rfl⟩

/-- A descriptor without windows, page table at 0, no supervisor. -/
def wDesc : Nat := 0xFFFF * 2 ^ 400
/-- A recording's descriptor: 1 MiB of ring at 0, chunks of 2^8. -/
def wSd0 : Nat := 1 + 8 * 2 ^ 4 + 2 ^ 20 * 2 ^ 128
/-- The context under replay. -/
def wXr : Context := { wX with replay := true }
/-- The image of a supervisor handler of another context, whose code page must be mapped, where code pages are free or all hold code. -/
def wHi (full : Bool) : Image := { wIm with ctx := 7, leaves := [wS.codeLeaf 0], len := if full then 2 ^ 30 else 169 }
def wSh1 (full : Bool) (fn op len d : Nat) : State := wMb { wS0 with images := [wHi full] } fn op len d
/-- A descriptor with that handler. -/
def wDesc1 : Nat := 1 * 2 ^ 400 + 1 * 2 ^ 416
def wMade (s : State) (d : Nat) : State :=
  { s with ctxs := s.ctxs ++ [ctxOfDesc d s.freeCtx 0 none] }.onPart 0 (fun p => { p with ctxList := p.ctxList ++ [s.freeCtx] })

theorem witness_ContextCommands :
    ((wMb wS0 1 1 128 wDesc).mailbox 1).fn = 1 ∧
    (Submitted (wMb wS0 1 1 128 wDesc) 1 1 wDesc ∧ wDesc / 2 ^ 1 % 2 ^ 1 = 0 ∧ descBad wDesc = false ∧ wDesc / 2 ^ 320 % 2 ^ 64 % 4096 = 0 ∧
      ((List.range 6).map (descWin wDesc)).zipIdx.all (fun x => (wMb wS0 1 1 128 wDesc).winOk 0 x.2 x.1) = true ∧
      (wMb wS0 1 1 128 wDesc).winClash false ((List.range 6).map (descWin wDesc)) = false ∧
      (wMb wS0 1 1 128 wDesc).handlerOk 0 false none (wDesc / 2 ^ 416 % 2 ^ 32) (wDesc / 2 ^ 400 % 2 ^ 16) = true ∧ (wS0.ctxs.filter (fun c => c.part == 0)).length < 256 ∧ wDesc < 2 ^ 1024) ∧
    (∀ full, let s := wSh1 full 1 1 128 wDesc1
     Submitted s 1 1 wDesc1 ∧ wDesc1 / 2 ^ 1 % 2 ^ 1 = 0 ∧ descBad wDesc1 = false ∧ wDesc1 < 2 ^ 1024 ∧ wDesc1 / 2 ^ 320 % 2 ^ 64 % 4096 = 0 ∧
      ((List.range 6).map (descWin wDesc1)).zipIdx.all (fun x => s.winOk 0 x.2 x.1) = true ∧ s.winClash false ((List.range 6).map (descWin wDesc1)) = false ∧
      s.handlerOk 0 false none (wDesc1 / 2 ^ 416 % 2 ^ 32) (wDesc1 / 2 ^ 400 % 2 ^ 16) = true ∧ ((wMade s wDesc1).mapHandler (ctxOfDesc wDesc1 s.freeCtx 0 none)).isNone = full) ∧
    (Submitted (wMb wS0 1 2 2 0) 1 2 0 ∧ (wMb wS0 1 2 2 0).ctx? 0 = some wX ∧ wX.part + 1 = 1 ∧ (wMb wS0 1 2 2 0).ctxBusy 0 = false) ∧
    (let d := 0 + 1 * 2 ^ 16 + 1 * 2 ^ 32
     Submitted (wMb wS0 1 3 8 d) 1 3 d ∧ d < 2 ^ 64 ∧ (wMb wS0 1 3 8 d).handlerOk 0 false (some 0) (d / 2 ^ 32 % 2 ^ 32) (d / 2 ^ 16 % 2 ^ 16) = true) ∧
    (∀ full, let d := 0 + 1 * 2 ^ 16 + 1 * 2 ^ 32
     let s := wSh1 full 1 3 8 d
     Submitted s 1 3 d ∧ s.ctx? 0 = some wX ∧ s.handlerOk 0 false (some 0) 1 1 = true ∧
       (let c1 := { wX with svimg := 1, svproc := some 1 }; ((s.onCtx 0 (fun _ => c1)).mapHandler c1).isNone) = full) ∧
    (let d := 0 + 7 * 2 ^ 16 + 4 * 2 ^ 32
     let s := wMb wS0 1 4 16 d
     Submitted s 1 4 d ∧ s.part? 0 = some wP ∧ d / 2 ^ 64 % 2 ^ 64 + 64 * 2 ^ 4 ≤ s.ordinaryCap 0 ∧ s.qSlot wP 0x2000 0 7 = none ∧ (s.freeSlotOf wP 0x2000 0 7).isSome = true) ∧
    (let d := 0 + 5 * 2 ^ 16
     let s := wMb { wSq [] 0 0 with cores := [] } 1 5 4 d
     Submitted s 1 5 d ∧ s.findQueue wP 0 5 = some wQ) ∧
    (let s := wMb wS 1 8 5 0
     Submitted s 1 8 0 ∧ (s.core 0 0).group? 0 = some wG ∧ s.launch? 1 = some wL ∧ wG.pend = none) ∧
    (let s := wMb { wS0 with ctxs := [wXr], pkg := { wS0.pkg with nvme := true } } 1 6 64 wSd0
     Submitted s 1 6 wSd0 ∧ wSd0 < 2 ^ 512 ∧ s.ctx? 0 = some wXr ∧ wSd0 / 2 ^ 0 % 2 ^ 2 = 1 ∧ s.sessBad wSd0 wXr = false ∧ s.pkg.nvme = true ∧ s.session? 0 = none ∧ s.sessBusy 0 = false) ∧
    (let s := wMb { wS with ctxs := [wXr], pkg := { wS.pkg with nvme := true } } 1 6 64 wSd0
     Submitted s 1 6 wSd0 ∧ s.ctx? 0 = some wXr ∧ s.sessBad wSd0 wXr = false ∧ s.pkg.nvme = true ∧ s.sessBusy 0 = true) ∧
    (∀ busy, let s := wMb { wS0 with sessions := [wSess true []], cores := if busy then [wC] else [] } 1 7 4 5
     Submitted s 1 7 5 ∧ s.sessions.find? (fun x => x.id == 5) = some (wSess true []) ∧ s.ctx? (wSess true []).ctx = some wX ∧ s.sessBusy 0 = busy ∧ (wSess true []).record = true) := by
  refine ⟨rfl, ⟨sub (by decide +kernel), by decide +kernel⟩, ?_, ⟨sub (by decide +kernel), by decide +kernel⟩, ⟨sub (by decide +kernel), by decide +kernel⟩, ?_,
    ⟨sub (by decide +kernel), rfl, by decide +kernel⟩, ⟨sub (by decide +kernel), by decide +kernel⟩, ⟨sub (by decide +kernel), rfl, rfl, rfl⟩, ⟨sub (by decide +kernel), by decide +kernel⟩,
    ⟨sub (by decide +kernel), by decide +kernel⟩, ?_⟩ <;> intro b <;> cases b <;> refine ⟨sub (by decide +kernel), ?_⟩ <;> decide +kernel

/-- The state of 12 partitions, and a command of the physical function. -/
def wS12 : State := { wS0 with pkg := { wS0.pkg with parts := some 12 } }
/-- A command of the physical function. -/
def wPf (op len d : Nat) : State := wMb wS12 0 op len d

theorem witness_PartitionCommands :
    ((wPf 0x10 1 12).mailbox 0).fn = 0 ∧ (wPf 0x10 1 12).part? 0 = some wP ∧
    (Submitted (wMb { wS12 with ctxs := [] } 0 0x10 1 12) 0 0x10 12 ∧ Submitted (wMb { wS12 with ctxs := [] } 0 0x10 1 1) 0 0x10 1) ∧
    (Submitted (wPf 0x11 4 0) 0 0x11 0 ∧ (wPf 0x11 4 0).ctxs.any (fun x => x.part == 0 && x.prot) = false) ∧
    (Submitted (wPf 0x12 4 (2 ^ 8 + 0xFFFF * 2 ^ 16)) 0 0x12 (2 ^ 8 + 0xFFFF * 2 ^ 16) ∧ (wPf 0x12 4 (2 ^ 8 + 0xFFFF * 2 ^ 16)).stacksPerPart = 1) ∧
    (Submitted (wPf 0x12 4 (2 ^ 8)) 0 0x12 (2 ^ 8) ∧ (wPf 0x12 4 (2 ^ 8)).ctx? 0 = some wX) ∧
    (Submitted (wPf 0x13 16 (16 * 2 ^ 8)) 0 0x13 (16 * 2 ^ 8) ∧ 0 + 16 * 2 ^ 16 ≤ (wPf 0x13 16 (16 * 2 ^ 8)).ordinaryCap 0) ∧
    (Submitted (wPf 0x14 16 (8 * 2 ^ 8)) 0 0x14 (8 * 2 ^ 8) ∧ 0 + 16 * 2 ^ 8 ≤ (wPf 0x14 16 (8 * 2 ^ 8)).ordinaryCap 0) ∧
    (Submitted (wPf 0x15 16 0) 0 0x15 0 ∧ 0 + 8256 ≤ (wPf 0x15 16 0).ordinaryCap 0) ∧
    (let d := 1 * 2 ^ 32 + 100 * 2 ^ 8
     Submitted (wPf 0x16 8 d) 0 0x16 d ∧ d < 2 ^ 40 ∧ d / 2 ^ 18 % 2 ^ 14 = 0 ∧ d / 2 ^ 32 % 2 ^ 8 ≠ 0 ∧ d / 2 ^ 8 % 2 ^ 8 ≠ 0 ∧ d / 2 ^ 8 % 2 ^ 8 ≤ 100) ∧
    (Submitted (wPf 0x17 2 2000) 0 0x17 2000 ∧ Submitted (wPf 0x17 2 5000) 0 0x17 5000) ∧
    (let d := 11 + 31 * 2 ^ 8 + 0xFFFFFFFF * 2 ^ 32
     Submitted (wPf 0x18 8 d) 0 0x18 d ∧ d < 2 ^ 64 ∧ d / 2 ^ 4 % 2 ^ 4 = 0 ∧ d / 2 ^ 16 % 2 ^ 16 = 0) ∧
    (let s := wMb { wS12 with cores := [{ wC with block := none, threads := [], groups := [] }] } 0 0x19 2 0
     Submitted s 0 0x19 0 ∧ (s.core 0 0).block = none ∧ (s.core 0 0).svc.fenced = false ∧ (s.core 0 0).svc.replaceDue = false ∧ (s.core 0 0).svc.testing = false ∧
       (s.cluster 0).spares = 4 ∧ (s.cluster 0).id = 0) ∧
    Submitted (wPf 0x1A 24 (2 ^ 128 + 11 * 2 ^ 96)) 0 0x1A (2 ^ 128 + 11 * 2 ^ 96) ∧
    (Submitted (wPf 0x1B 12 (1 * 2 ^ 64)) 0 0x1B (1 * 2 ^ 64) ∧ (0 + 1) * 4096 ≤ (wPf 0x1B 12 (1 * 2 ^ 64)).ordinaryCap 0) := by
  refine ⟨rfl, rfl, ⟨sub (by decide +kernel), sub (by decide +kernel)⟩, ⟨sub (by decide +kernel), rfl⟩, ⟨sub (by decide +kernel), rfl⟩, ⟨sub (by decide +kernel), rfl⟩,
    ⟨sub (by decide +kernel), ?_⟩, ⟨sub (by decide +kernel), ?_⟩, ⟨sub (by decide +kernel), ?_⟩, ⟨sub (by decide +kernel), ?_⟩, ⟨sub (by decide +kernel), sub (by decide +kernel)⟩,
    ⟨sub (by decide +kernel), ?_⟩, ⟨sub (by decide +kernel), ?_⟩, sub (by decide +kernel), ⟨sub (by decide +kernel), ?_⟩⟩ <;> decide +kernel

/-- A staged firmware. -/
def wFw : Staged := { kernel := true, eland := true, svn := 3, digests := [1, 2] }
/-- The part with an owner and a signer. -/
def wOw (op len d : Nat) : State :=
  wMb { wS0 with pkg := { wS0.pkg with owner := some 0, ownerFuses := some (Config.sm3 (leBytes 64 0)), signers := [wSg] } } 0 op len d

/-- Where a signature must be good, it is a premise: whether it is stands in no rule (log entry 7). -/
theorem witness_OwnerAndFirmware :
    (Submitted (wPf 0x20 64 (2 ^ 512 - 1)) 0 0x20 (2 ^ 512 - 1) ∧ (wPf 0x20 64 (2 ^ 512 - 1)).pkg.ownerFuses = none) ∧
    (Submitted (wOw 0x20 64 1) 0 0x20 1 ∧ (wOw 0x20 64 1).pkg.ownerFuses.isSome = true) ∧
    (let d := 1 + 9 * 2 ^ 128
     Submitted (wOw 0x21 160 d) 0 0x21 d ∧ d < 2 ^ 1280 ∧ d / 2 ^ 0 % 2 ^ 128 ≤ 1 ∧ (wOw 0x21 160 d).signer? (BitVec.ofNat 128 (d / 2 ^ 128 % 2 ^ 128)) = none ∧ (wOw 0x21 160 d).activeSigners < 16) ∧
    (Submitted (wOw 0x22 80 5) 0 0x22 5 ∧ (wOw 0x22 80 5).signer? (BitVec.ofNat 128 (5 / 2 ^ 0 % 2 ^ 128)) = some wSg ∧ wSg.state = 1 ∧ (wOw 0x22 80 5).pkg.fusesBurned < 64) ∧
    Submitted (wOw 0x23 0 0) 0 0x23 0 ∧
    (Submitted (wOw 0x24 12 (64 * 2 ^ 64)) 0 0x24 (64 * 2 ^ 64) ∧ (wOw 0x24 12 (64 * 2 ^ 64)).pkg.staged = none ∧ ∀ b, (wOw 0x24 12 (64 * 2 ^ 64)).pkg.fwSvn ≤ Config.fwVersion b) ∧
    Submitted (wMb { wS0 with pkg := { wS0.pkg with staged := some wFw } } 0 0x25 0 0) 0 0x25 0 ∧
    (({ wS0 with pkg := { wS0.pkg with staged := some wFw } } : State).pkg.staged = some wFw ∧ wS0.mailboxes.any (fun m => m.busy) = false) := by
  refine ⟨⟨sub (by decide +kernel), rfl⟩, ⟨sub (by decide +kernel), rfl⟩, ⟨sub (by decide +kernel), ?_⟩, ⟨sub (by decide +kernel), ?_⟩, sub (by decide +kernel), ⟨sub (by decide +kernel), rfl, fun _ => Nat.zero_le _⟩, sub (by decide +kernel), rfl, rfl⟩ <;>
    decide +kernel

/-- A function's SPDM state. -/
def wSpdm (v c a : Bool) (session : Option Nat) : State := { wS0 with spdm := [{ fn := 1, version := v, caps := c, algs := a, session := session }] }

theorem witness_Messages :
    (wS0.spdmOf 1).fn = 1 ∧ wS0.hasFunction 1 = true ∧ (wS0.spdmOf 0).fn = 0 ∧ wS0.hasFunction 0 = true ∧ ((wSpdm true false false none).spdmOf 1).version = true ∧ ((wSpdm true true false none).spdmOf 1).caps = true ∧
    (((wSpdm true true true none).spdmOf 1).algs = true ∧ (wSpdm true true true none).pkg.rngFail = false ∧ ({ wSpdm true true true none with oracle := [14] } : State).choose.1 % 16 ≠ 15 ∧
      ({ wSpdm true true true none with oracle := [15] } : State).choose.1 % 16 = 15) ∧ ((wSpdm true true true (some 0)).spdmOf 1).session = some 0 ∧
    (((wSpdm true true true (some 1)).spdmOf 1).session = some 1 ∧ ((wSpdm true true true (some 1)).spdmOf 1).tdi = .configUnlocked ∧
      ((wSpdm true true true (some 1)).spdm.map (fun y => y.streams.length)).foldl (· + ·) 0 < 16) := by
  refine ⟨rfl, rfl, rfl, rfl, rfl, rfl, ⟨rfl, rfl, by decide, by decide⟩, rfl, rfl, rfl, ?_⟩
  decide

/-- A core with a block whose save a test asked for. -/
def wCt : Core := { wC with block := some { launch := 1, index := 0, z := 2 ^ 20, ctx := 0, save := some .test }, svc := { wC.svc with testDue := true } }
/-- A core without a block. -/
def wC0 (testing : Bool) : Core := { Core.fresh 11 127 with svc := { wC.svc with testing := testing } }
/-- The package with a repair wanted or under way, and a port. -/
def wPk : Package := { wS.pkg with wanted := [⟨11, 31, 0⟩], ports := [{ id := 0 }] }
/-- What bring-up finds. -/
def wUp (ok : Bool) : BringUp := ⟨false, ok, false, false, ok, [], [0, 2, 4], true, 5, []⟩

/-- Whether a bank has a spare row stands in no rule (log entry 21): where it has one, the repair's premises are met. -/
theorem witness_ServiceAndBringUp :
    (({ wS with pkg := wPk } : State).repairDue ⟨11, 31, 0⟩ = true ∧ wPk.repairing = [] ∧ (0 < Config.spareRows → ({ wS with pkg := wPk } : State).spareLeft ⟨11, 31, 0⟩ = true)) ∧
    (({ wS with pkg := { wPk with repairing := [⟨11, 31, 0⟩] } } : State).pkg.repairing.find? (fun x => x.stack == 11) = some ⟨11, 31, 0⟩) ∧
    (let s : State := { wS with cores := [wC0 false] }
     (s.core 11 127) = wC0 false ∧ (wC0 false).svc.held = false ∧ (wC0 false).block = none ∧ s.pkg.policy.toNat % 256 ≠ 0) ∧
    (let s : State := { wS with cores := [wC0 true] }
     (s.core 11 127) = wC0 true ∧ (wC0 true).svc.testing = true ∧ (wC0 true).svc.replaceDue = false) ∧
    (let s : State := { wS with cores := [wCt] }
     (s.core 0 0) = wCt ∧ wCt.block = some { launch := 1, index := 0, z := 2 ^ 20, ctx := 0, save := some .test } ∧ s.launch? 1 = some wL ∧ wCt.svc.testDue = true) ∧
    (({ wS with pkg := wPk } : State).port? 0 = some { id := 0 } ∧ ({ wS with pkg := { wPk with ports := [{ id := 0, training := true }] } } : State).port? 0 = some { id := 0, training := true }) ∧
    (({ wPk with clockMHz := 2499 } : Package).clockMHz < 2500 ∧ 1200 < wPk.clockMHz ∧ wS.pkg.up = true) ∧ State.reset.pkg.up = false ∧
    ((∀ n ∈ (wUp true).portLanes, n = 0 ∨ n = 2 ∨ n = 4) ∧ (∃ n ∈ ({ wUp true with portLanes := [3] } : BringUp).portLanes, n ≠ 0 ∧ n ≠ 2 ∧ n ≠ 4) ∧
      ((wUp true).nvmeOk && (wUp true).kernelOk) = false ∧ (let b := { wUp true with nvmeOk := true, kernelOk := true }; b.nvmeOk && b.kernelOk) = true) ∧
    (((wUp true).firstStageOk || (wUp true).secondCopyOk) = true ∧ ((wUp true).kernelOk || (wUp true).previousOk) = true) ∧ ((wUp false).firstStageOk || (wUp false).secondCopyOk) = false ∧
    ({ wPk with up := false, recovery := true } : Package).recovery = true := by
  refine ⟨⟨by decide +kernel, rfl, ?_⟩, rfl, ⟨rfl, rfl, rfl, by decide⟩, ⟨rfl, rfl, rfl⟩, ⟨rfl, rfl, rfl, rfl⟩, ⟨rfl, rfl⟩, ⟨by decide, by decide, rfl⟩, rfl, ⟨by decide, by decide, rfl, rfl⟩,
    ⟨rfl, rfl⟩, rfl, rfl⟩
  intro h
  exact decide_eq_true h

/-! ### From bytes to steps -/

theorem witness_DecodeEncode :
    (Instr.nop (op .zero .zero .zero .zero 0 0 0)).wfOp = true ∧ (Instr.addS32Compact 63 0 62).wfOp = true ∧ (Instr.cmpEqS32Compact 7 0 63).wfOp = true ∧
    (Instr.atom (op (.v 2) (.v 4) (.v 6) .zero 4 0x01A#12 0)).wfOp = true := by decide +kernel

/-- A placed program of one operation, before its first step. -/
def wStep : State := State.reset.place (encode (.movCompact 1 2))

theorem witness_StepRunsDecoded :
    wStep.candidates = [.lane 0 0 0] ∧
    (match wStep.lanePlan (wStep.core 0 0) 0, wStep.codeOf wT 1 with
     | some p, some img =>
       let x := wStep.freshId.2.openPass 0 0 0 p
       let ks := (wStep.core 0 0).restSlots p.gs p.one.1
       p.two.isNone && (wStep.core 0 0).group? p.gs == some wG && ((wStep.core 0 0).frontThreads wG p.one.1).head? == some wT && wT.image == 1 &&
       (match wStep.opAt img wT.path with
        | .ok o =>
          let len := (opLength ((wStep.code img o.off 1).headD 0)).getD 1
          (match decodeOp (wStep.code img o.off len) with | .op (.movCompact 1 2) [] => true | _ => false) && !wStep.codePoison img o.off len &&
            (wStep.codeFault img o.off 1).isNone && (wStep.codeFault img o.off len).isNone
        | .error _ => false) &&
       (let i := p.issue 0 0 wStep.nextId (wStep.frontFlag (wStep.core 0 0) p.gs p.one) p.one ks (wStep.blockedSlots (wStep.core 0 0) p.gs)
        (x.firstPreStop { i with peers := x.activeIn i p.one.2 ks } ks).isNone)
     | _, _ => false) = true ∧ (match Instr.fields (.movCompact 1 2) with | some f => opsFit (wStep.frameOf wT) f.2.2 | none => false) = true := by
  decide +kernel

/-- A pass of two threads of a front. -/
def wT2 : Thread := { wT with tid := 2, tslot := 1 }
def wI2 : Issue := { cl := 0, co := 0, gs := 0, front := [0, 1], threads := [0, 1] }
def wS2 : State :=
  { wS with cur := some wI2, cores := [{ wC with threads := [wT, wT2], groups := [{ wG with members := [(0, 1), (1, 2)], fronts := [{ tslots := [0, 1] }] }] }] }

/-- An operation without a guard skips no thread. -/
theorem unlogged (s : State) (i : Issue) (opc : Nat) (o : Ops) (h : ∀ t, guardVal o t = ⟨true, false⟩) : Unlogged s i opc o := by
  intro k _ c g t _ hg
  exact absurd ((h t).symm.trans hg) (by decide)

theorem witness_PassInOrder :
    Unlogged wS2 wI2 0x040 (o2 0) ∧
    Instr.fields (.add (o2 0)) = some (0x040, 0, o2 0) ∧ opUniform 0x040 (o2 0) = false ∧ wS2.cur = some wI2 ∧ wI2.threads = 0 :: [1] ∧
    (∀ j ∈ wI2.threads, wS2.upsetOf wI2 j = none) ∧ (wS2.slotThread wI2 1).isSome = true := by
  refine ⟨unlogged _ _ _ _ (fun _ => rfl), rfl, rfl, rfl, rfl, ?_, rfl⟩
  intro j _
  rfl

/-- Guards that are false and poisoned; an upset. -/
def wGp (b : PBit) : Thread := { wT with preds := [(7, b)] }
def wUps (second : Bool) : Upset := ⟨0, 0, 0, 0, second, 1⟩
def oGuard : Ops := { o2 0 with gp := 7 }
/-- An addition with a type that it has not; one of pairs that are not aligned; a thread whose first word is poisoned. -/
def oBad : Ops := op (.v 1) (.v 2) (.v 3) .zero 7 0 0
def oPair : Ops := op (.v 1) (.v 2) (.v 4) .zero 3 0 0
def wTpo : Thread := { wT with stk := [(0, ⟨5, true⟩)] }

theorem witness_GuardsAndMismatches :
    (Instr.fields (.add oGuard) = some (0x040, 0, oGuard) ∧ opUniform 0x040 oGuard = false ∧ wI.threads = [0] ∧ wI.stop = none ∧ wI.wait = none) ∧
    (∀ b, (wTh wC (wGp b)).slotThread wI 0 = some ({ wC with threads := [wGp b] }, wG, wGp b)) ∧ guardVal oGuard (wGp ⟨false, false⟩) = ⟨false, false⟩ ∧
    Unlogged (wTh wC (wGp ⟨false, false⟩)) wI 0x040 oGuard ∧
    (guardVal oGuard (wGp ⟨true, true⟩)).poison = true ∧ guardVal oGuard (wGp ⟨true, false⟩) = ⟨true, false⟩ ∧
    (∀ second, ({ wTh wC (wGp ⟨true, false⟩) with upsets := [wUps second] } : State).upsetOf wI 0 = some (wUps second)) ∧
    (({ wTh wC (wGp ⟨true, false⟩) with upsets := [] } : State).upsetOf wI 0 = none ∧
      (match exec (.add oGuard) { wTh wC (wGp ⟨true, false⟩) with upsets := [] } with | .next w => w.cur.any (fun j => j.stop.isNone) | _ => false) = true) ∧
    (Instr.fields (.add oBad) = some (0x040, 0, oBad) ∧ opUniform 0x040 oBad = false ∧ guardVal oBad wT = ⟨true, false⟩ ∧ wS.upsetOf wI 0 = none ∧ (Instr.add oBad).detail = some 1) ∧
    (guardVal (o2 0) wTpo = ⟨true, false⟩ ∧ (wTh wC wTpo).upsetOf wI 0 = none ∧ (Instr.add (o2 0)).detail = none ∧
      (sourcePoison wTpo wG (o2 0) (widths 0x040 (o2 0)) (sourceRoles 0x040).1 (sourceRoles 0x040).2.1 (sourceRoles 0x040).2.2).isSome = true) ∧
    (Instr.fields (.fadd oPair) = some (0x140, 0, oPair) ∧ opUniform 0x140 oPair = false ∧ (Instr.fadd oPair).detail = none ∧ guardVal oPair wT = ⟨true, false⟩ ∧
      sourcePoison wT wG oPair (widths 0x140 oPair) (sourceRoles 0x140).1 (sourceRoles 0x140).2.1 (sourceRoles 0x140).2.2 = none ∧ misaligned oPair.d (widths 0x140 oPair).d = true) ∧
    (Instr.fields (.ld (op (.v 1) (.v 2) .zero .zero 2 0 0)) = some (0x1C0, 0, op (.v 1) (.v 2) .zero .zero 2 0 0) ∧ opUniform 0x1C0 (op (.v 1) (.v 2) .zero .zero 2 0 0) = false) := by
  refine ⟨⟨rfl, rfl, rfl, rfl, rfl⟩, fun _ => rfl, rfl, ?_, rfl, rfl, ?_, ⟨rfl, by decide +kernel⟩, by decide +kernel, by decide +kernel, by decide +kernel, by decide +kernel⟩
  · intro k hk c g t h _
    have : k = 0 := by simpa [wI] using hk
    subst this
    have e : ({ wC with threads := [wGp ⟨false, false⟩] }, wG, wGp ⟨false, false⟩) = (c, g, t) := Option.some.inj h
    simp only [Prod.mk.injEq] at e
    obtain ⟨-, rfl, rfl⟩ := e
    rfl
  intro second
  cases second <;> rfl

theorem witness_RegisterFrame :
    Unlogged wS2 wI2 0x040 (o2 0) ∧
    Instr.fields (.add (o2 0)) = some (0x040, 0, o2 0) ∧ wS2.cur = some wI2 ∧ (∀ k ∈ wI2.threads, ∀ x, wS2.upsetOf wI2 k = some x → x.second = false) ∧
    (match exec (.add (o2 0)) wS2 with | .next _ => true | _ => false) = true := by
  refine ⟨unlogged _ _ _ _ (fun _ => rfl), rfl, rfl, ?_, by decide +kernel⟩
  intro k _ x h
  cases h

theorem witness_BeforeBringUp :
    (State.reset.pkg.up = false ∧ State.reset.inputs = []) ∧ ({ State.reset with inputs := [.sliceEdge] } : State).inputs = .sliceEdge :: [] ∧
    Instr.sliceEdge.startsUp = false := ⟨⟨rfl, rfl⟩, rfl, rfl⟩

theorem witness_SettledKept : State.reset.settledInv ∧ State.reset.memOk ∧ ({ wStep with inputs := [.sliceEdge] } : State).settledInv ∧
    ({ wStep with inputs := [.sliceEdge] } : State).memOk :=
  ⟨⟨rfl, by simp [State.reset]⟩, rfl, ⟨rfl, by simp [Instr.isOp, canonical, compact]⟩, by show _ = true; decide +kernel⟩

/-! ### Ill-formed instructions (R208) -/

theorem smoke_detail1 : (Instr.add (op (.v 1) (.v 2) (.v 3) .zero 7 0 0)).wf = false := by decide +kernel
theorem smoke_detail1_unused : (Instr.not (op (.v 1) (.v 2) (.v 3) .zero 0 0 0)).wf = false := by decide +kernel
theorem smoke_detail2 : (Instr.mov (op (.special .sptrLo) (.v 2) .zero .zero 0 0 0)).wf = false := by decide +kernel
theorem smoke_detail3 : (Instr.add (op (.v 1) (.p 2) (.v 3) .zero 0 0 0)).wf = false := by decide +kernel
theorem smoke_detail4 : (Instr.add (op (.v 1) .imm .imm .zero 0 0 5)).wf = false := by decide +kernel
theorem smoke_detail5 : (Instr.add ⟨false, 1, 0, .g 1, .g 2, .g 3, .zero, 0, 0⟩).wf = false := by decide +kernel
theorem smoke_detail6 : (Instr.add (op (.g 1) (.v 2) (.g 3) .zero 0 0 0)).wf = false := by decide +kernel
theorem smoke_detail7 : (Instr.ld (op (.v 1) (.v 2) .zero .zero 2 0x020#12 0)).wf = false := by decide +kernel
theorem smoke_detail8 : (Instr.exit (op .zero .zero .zero .zero 0 0 0)).wf = false := by decide +kernel
theorem smoke_detail9 : (Instr.atom (op (.v 2) (.v 4) (.v 6) .zero 4 0x0C0#12 0)).wf = false := by decide +kernel
theorem smoke_detail10 : (Instr.copyBox (op .zero (.g 1) .zero .zero 0 0 0)).wf = false := by decide +kernel
theorem smoke_compact_predicate : (Instr.cmpEqS32Compact 8 0 63).wf = false := by decide +kernel
/-- The same, in the same order, by number. -/
theorem smoke_details :
    (Instr.add (op (.v 1) (.v 2) (.v 3) .zero 7 0 0)).detail = some 1 ∧ (Instr.mov (op (.special .sptrLo) (.v 2) .zero .zero 0 0 0)).detail = some 2 ∧
    (Instr.add (op (.v 1) (.p 2) (.v 3) .zero 0 0 0)).detail = some 3 ∧ (Instr.add (op (.v 1) .imm .imm .zero 0 0 5)).detail = some 4 ∧
    (Instr.add ⟨false, 1, 0, .g 1, .g 2, .g 3, .zero, 0, 0⟩).detail = some 5 ∧ (Instr.add (op (.g 1) (.v 2) (.g 3) .zero 0 0 0)).detail = some 6 ∧
    (Instr.ld (op (.v 1) (.v 2) .zero .zero 2 0x020#12 0)).detail = some 7 ∧ (Instr.exit (op .zero .zero .zero .zero 0 0 0)).detail = some 8 ∧
    (Instr.atom (op (.v 2) (.v 4) (.v 6) .zero 4 0x0C0#12 0)).detail = some 9 ∧ (Instr.copyBox (op .zero (.g 1) .zero .zero 0 0 0)).detail = some 10 := by
  decide +kernel

/-! ### Words of the encoding (R193 to R208), field by field -/

/-- The escape of a canonical word: OPC, T, NEG, GP, D, A, B, C, zero, MOD, IMM. -/
def esc (w : BitVec 96) : Decoded := decodeOp (0xE8#8 :: beBytes 12 w.toNat)

theorem word_mad : esc (0x046#10 ++ 1#3 ++ 1#1 ++ 3#3 ++ 0x0A#8 ++ 0x0B#8 ++ 0xD1#8 ++ 0x0C#8 ++ 0#3 ++ 0x000#12 ++ 0xFFFFFFFF#32) =
    .op (.mad ⟨true, 3, 1, .v 10, .v 11, .imm, .v 12, 0, 0xFFFFFFFF⟩) [] := by decide +kernel
theorem word_shl : esc (0x080#10 ++ 2#3 ++ 0#1 ++ 0#3 ++ 0x01#8 ++ 0x02#8 ++ 0x03#8 ++ 0xD0#8 ++ 0#3 ++ 0x000#12 ++ 0#32) =
    .op (.shl (op (.v 1) (.v 2) (.v 3) .zero 2 0 0)) [] := by decide +kernel
theorem word_xor_uniform : esc (0x092#10 ++ 2#3 ++ 0#1 ++ 0#3 ++ 0x81#8 ++ 0x82#8 ++ 0xBF#8 ++ 0xD0#8 ++ 0#3 ++ 0x000#12 ++ 0#32) =
    .op (.xor (op (.g 1) (.g 2) (.g 63) .zero 2 0 0)) [] := by decide +kernel
theorem word_pand : esc (0x0D0#10 ++ 0#3 ++ 0#1 ++ 0#3 ++ 0xC1#8 ++ 0xC2#8 ++ 0xC7#8 ++ 0xD0#8 ++ 0#3 ++ 0x000#12 ++ 0#32) =
    .op (.pand (op (.p 1) (.p 2) (.p 7) .zero 0 0 0)) [] := by decide +kernel
theorem word_exit : esc (0x001#10 ++ 0#3 ++ 0#1 ++ 0#3 ++ 0xD0#8 ++ 0xD0#8 ++ 0xD0#8 ++ 0xD0#8 ++ 0#3 ++ 0x000#12 ++ 3#32) =
    .op (.exit (op .zero .zero .zero .zero 0 0 3)) [] := by decide +kernel
theorem word_tret : esc (0x011#10 ++ 0#3 ++ 0#1 ++ 0#3 ++ 0xD0#8 ++ 0xD0#8 ++ 0xD0#8 ++ 0xD0#8 ++ 0#3 ++ 0x000#12 ++ 2#32) =
    .op (.tret (op .zero .zero .zero .zero 0 0 2)) [] := by decide +kernel
theorem word_vote : esc (0x107#10 ++ 0#3 ++ 0#1 ++ 0#3 ++ 0xCB#8 ++ 0xC1#8 ++ 0xD0#8 ++ 0xD0#8 ++ 0#3 ++ 0x000#12 ++ 0#32) =
    .op (.vote (op (.q 3) (.p 1) .zero .zero 0 0 0)) [] := by decide +kernel
theorem word_sqrt : esc (0x182#10 ++ 3#3 ++ 0#1 ++ 0#3 ++ 0x7E#8 ++ 0x00#8 ++ 0xD0#8 ++ 0xD0#8 ++ 0#3 ++ 0x000#12 ++ 0#32) =
    .op (.sqrt (op (.v 126) (.v 0) .zero .zero 3 0 0)) [] := by decide +kernel
theorem word_cvt : esc (0x190#10 ++ 7#3 ++ 0#1 ++ 0#3 ++ 0x01#8 ++ 0x02#8 ++ 0xD0#8 ++ 0xD0#8 ++ 0#3 ++ 0x0E0#12 ++ 0#32) =
    .op (.cvt (op (.v 1) (.v 2) .zero .zero 7 0x0E0#12 0)) [] := by decide +kernel
theorem word_ld : esc (0x1C0#10 ++ 2#3 ++ 0#1 ++ 0#3 ++ 0x05#8 ++ 0x06#8 ++ 0xD0#8 ++ 0xD0#8 ++ 0#3 ++ 0x040#12 ++ 0x10#32) =
    .op (.ld (op (.v 5) (.v 6) .zero .zero 2 0x040#12 0x10)) [] := by decide +kernel
theorem word_mma : esc (0x208#10 ++ 0#3 ++ 0#1 ++ 0#3 ++ 0xCF#8 ++ 0x84#8 ++ 0x88#8 ++ 0xD0#8 ++ 0#3 ++ 0x001#12 ++ 0x3F#32) =
    .op (.mma (op (.a 3) (.g 4) (.g 8) .zero 0 0x001#12 0x3F)) [] := by decide +kernel
theorem word_cwait : esc (0x219#10 ++ 0#3 ++ 0#1 ++ 0#3 ++ 0xCB#8 ++ 0xD0#8 ++ 0xD0#8 ++ 0xD0#8 ++ 0#3 ++ 0x03F#12 ++ 0#32) =
    .op (.cwait (oCell (.q 3) .zero 0)) [] := by decide +kernel
/-- A reserved OPC, in the guard's place nothing, and a reserved lead byte. -/
theorem word_reserved_opc : (match esc (0x3FF#10 ++ 0#86) with | .bad d _ _ _ _ => d | _ => 99) = 0 := by decide +kernel
theorem word_reserved_lead : opLength 0xF0#8 = none := by decide +kernel

/-! ### One step each; the results are those of the manual's text and tables -/

/-- The state with these words in v2, v3 and v4, and p1. -/
def wRun (x y z : Word) (p : Bool) : State :=
  wTh wC { wT with stk := [(2, ⟨x, false⟩), (3, ⟨y, false⟩), (4, ⟨z, false⟩)], preds := [(1, ⟨p, false⟩)] }
/-- The thread after an operation. -/
def ran (ins : Instr) (s : State) : Option Thread := match exec ins s with | .next u => u.thread? 0 0 1 | _ => none
/-- v1 after an operation of v2, v3 and v4. -/
def got (mk : Ops → Instr) (t : Fin 8) (b c : Spec) (x y z : Word) : Option Word := (ran (mk (op (.v 1) (.v 2) b c t 0 0)) (wRun x y z true)).map (fun u => (u.v 1).val)

/-- R230: the first and the last step of its example. -/
theorem test_addc_carries : (ran (.addc (op (.v 1) (.v 2) (.v 3) (.p 1) 1 0 0)) (wRun 0xFFFFFFFF 1 0 false)).map (fun u => ((u.v 1).val, (u.p_ 1).val)) = some (0, true) := by decide +kernel
theorem test_addc_ends : (ran (.addc (op (.v 1) (.v 2) (.v 3) (.p 1) 1 0 0)) (wRun 1 0 0 true)).map (fun u => ((u.v 1).val, (u.p_ 1).val)) = some (2, false) := by decide +kernel
/-- R230, by hand: 0 - 1 borrows. -/
theorem test_subb_borrows : (ran (.subb (op (.v 1) (.v 2) (.v 3) (.p 1) 1 0 0)) (wRun 0 1 0 false)).map (fun u => ((u.v 1).val, (u.p_ 1).val)) = some (0xFFFFFFFF, true) := by decide +kernel
/-- R231: (-1) × (-1) has the high half 0, read unsigned 0xFFFFFFFE. -/
theorem test_mulh_signed : got .mulh 0 (.v 3) .zero 0xFFFFFFFF 0xFFFFFFFF 0 = some 0 := by decide +kernel
theorem test_mulh_unsigned : got .mulh 1 (.v 3) .zero 0xFFFFFFFF 0xFFFFFFFF 0 = some 0xFFFFFFFE := by decide +kernel
/-- R233: the magnitude of the least number is itself; where vb > vc the result is vc. -/
theorem test_abs_least : got .abs 0 .zero .zero 0x80000000 0 0 = some 0x80000000 := by decide +kernel
theorem test_clamp_crossed : got .clamp 0 (.v 3) (.v 4) 7 9 5 = some 5 := by decide +kernel
/-- R234: counts at or above the width. -/
theorem test_shl_width : got .shl 2 (.v 3) .zero 0xFFFFFFFF 32 0 = some 0 := by decide +kernel
theorem test_sar_beyond : got .sar 2 (.v 3) .zero 0x80000000 0xFFFFFFFF 0 = some 0xFFFFFFFF := by decide +kernel
theorem test_rotl_modulo : got .rotl 2 (.v 3) .zero 0x80000001 33 0 = some 3 := by decide +kernel
/-- R235: its examples. -/
theorem test_bfx_signed : got .bfx 0 (.v 3) (.v 4) 0x00000F00 8 4 = some 0xFFFFFFFF := by decide +kernel
theorem test_bfx_unsigned : got .bfx 1 (.v 3) (.v 4) 0x00000F00 8 4 = some 0x0000000F := by decide +kernel
/-- R236: counts of zero. -/
theorem test_clz_zero : got .clz 2 .zero .zero 0 0 0 = some 32 := by decide +kernel
theorem test_ctz_top : got .ctz 2 .zero .zero 0x80000000 0 0 = some 31 := by decide +kernel
/-- R237: the map 0xF8 of (a and b) or c. -/
theorem test_bool3 : (ran (.bool3 (op (.v 1) (.v 2) (.v 3) (.v 4) 2 0 0xF8)) (wRun 0xC 0xA 0x1 true)).map (fun u => (u.v 1).val) = some 0x9 := by decide +kernel
/-- R249, by hand: 1.0 + 2.0 = 3.0; 1.0 × (-2.0) + 2.0 is +0. -/
theorem test_fadd : got .fadd 2 (.v 3) .zero 0x3F800000 0x40000000 0 = some 0x40400000 := by decide +kernel
theorem test_ffma_cancels : got .ffma 2 (.v 3) (.v 4) 0x3F800000 0xC0000000 0x40000000 = some 0 := by decide +kernel

/-- R353: the example of a 32 GiB carve-out: 2 GiB of tags, 2^25 leaves, 8 levels above, 5 GiB in all. -/
theorem test_metadata : metaBytes (32 * 2 ^ 30) = 5 * 2 ^ 30 ∧ treeSizes 64 (2 ^ 25) = 2 ^ 25 :: [2 ^ 22, 2 ^ 19, 2 ^ 16, 2 ^ 13, 2 ^ 10, 2 ^ 7, 2 ^ 4, 2] := by decide +kernel
/-- R333, R336: a walk keeps two non-leaf entries; an invalidation of another page under the same tables drops both. -/
theorem test_walk_entries : (match execTableWalk 0 0 0 0 .read wSp with
    | .next u => (u.walks.map (fun e => (e.level, e.table)), match execInvalidationRequest 0 (1 * 2 ^ 19) { u with parts := [wPi] } with | .next v => v.walks.length | _ => 9)
    | _ => ([], 9)) = ([(2, 0x6000), (3, 0x5000)], 0) := by decide +kernel

/-- R232: the words of a long operation. -/
def began (ins : Instr) (s : State) : Option (List PWord) := match exec ins s with | .next u => (u.longs.getLast?).bind (fun l => l.data) | _ => none
theorem test_idiv_by_zero : began (.idiv (op (.v 1) (.v 2) (.v 3) .zero 0 0 0)) (wRun 7 0 0 true) = some [⟨0xFFFFFFFF, false⟩] := by decide +kernel
theorem test_irem_overflow : began (.irem (op (.v 1) (.v 2) (.v 3) .zero 0 0 0)) (wRun 0x80000000 0xFFFFFFFF 0 true) = some [⟨0, false⟩] := by decide +kernel
/-- R20, R46: a false guard only retires the thread. -/
theorem test_guard_false : (ran (.add ⟨true, 1, 0, .v 1, .v 2, .v 3, .zero, 0, 0⟩) (wRun 1 2 0 true)).map (fun u => ((u.v 1).val, u.act)) = some (0, .move .advance) := by decide +kernel
/-- R18: a write of p0 and of the zero specifier is discarded. -/
theorem test_p0_stays : (ran (.pmov (op (.p 0) (.p 7) .zero .zero 0 0 0)) (wRun 0 0 0 true)).map (fun u => (u.p_ 0).val) = some true := by decide +kernel
/-- R58: a poisoned source stops the pass at its thread with class 19 and writes nothing. -/
theorem test_poison_stops : (match exec (.add (o2 0)) (wTh wC { wT with stk := [(0, ⟨5, true⟩)] }) with
    | .next u => u.cur.bind (fun i => i.stop.map (fun x => match x with | .trap c _ _ _ => c / 16 | _ => 0))
    | _ => none) = some 19 := by decide +kernel

end Sys2Proof.Tests
end

/-! PROOFS. What a lane's plan says of the front that issues, and a step in which a lane issues (R14, R31, R46, R63, R64, R66). -/

namespace Sys2Proof.Machine

/-! ### The item at a position (R31, R208, R209) -/

/-- Where no code page that the bytes reach stops the fetch, no item faults for its pages. -/
theorem pageItem_eq_none {s : State} {i : Image} {off n : Nat} (h : s.codeFault i off n = none) (digits : List Nat) (op : Nat) :
    s.pageItem i digits op off n = none := by
  simp [State.pageItem, h]

/-- The operation at a position is what its bytes decode to, where they can be fetched and are not poisoned. -/
theorem fetchOp_eq_decodeOp {s : State} {i : Image} {p : Path} {o : OpLoc} {len : Nat} (ho : s.opAt i p = .ok o)
    (hlen : (opLength ((s.code i o.off 1).headD 0)).getD 1 = len) (h1 : s.codeFault i o.off 1 = none) (hn : s.codeFault i o.off len = none)
    (hp : s.codePoison i o.off len = false) : s.fetchOp i p = .ok (decodeOp (s.code i o.off len), o.seg, o.first) := by
  simp only [State.fetchOp, ho, pageItem_eq_none h1, hlen, pageItem_eq_none hn, hp, Bool.false_eq_true, if_false]

/-- What a thread would issue, where the item is an operation whose registers lie in the thread's window. -/
theorem nextOf_of_fetchOp {s : State} {t : Thread} {i : Image} {ins : Instr} {rest : List Byte} {seg : Segment} {first : Nat} {f : Nat × Nat × Ops}
    (hi : s.codeOf t t.image = some i) (hf : s.fetchOp i t.path = .ok (.op ins rest, seg, first)) (hx : Instr.fields ins = some f)
    (hw : opsFit (s.frameOf t) f.2.2 = true) :
    s.nextOf t = .ok ⟨.op ins rest, seg, first, f.1, f.2.2, opUniform f.1 f.2.2⟩ := by
  simp [State.nextOf, hi, hf, hx, hw]

/-! ### What a lane plans (R14, R63, R64, R66) -/

/-- The threads of a front are those in its slots, whatever else it holds. -/
theorem frontThreads_of_tslots (c : Core) (g : Group) {f h : Front} (e : f.tslots = h.tslots) : c.frontThreads g f = c.frontThreads g h := by
  simp [Core.frontThreads, e]

/-- An eligible front has a first thread, and issues what that thread would. -/
theorem eligible_nextOf {s : State} {c : Core} {g : Group} {f : Front} {n : Next} (h : s.eligible c g f = some n) :
    ∃ t, (c.frontThreads g f).head? = some t ∧ s.nextOf t = .ok n := by
  unfold State.eligible at h
  split at h
  · cases h
  cases hl : c.frontThreads g f with
  | nil => simp [hl] at h
  | cons t l =>
    refine ⟨t, rfl, ?_⟩
    simp only [hl] at h
    split at h
    · cases h
    cases hn : s.nextOf t with
    | error e => simp [hn] at h
    | ok m =>
      simp only [hn] at h
      split at h
      · rw [Option.some.inj h]
      · cases h

/-- A choice of the starving front chooses among the fronts given. -/
theorem mem_of_pickStarving {s : State} {c : Core} {g : Group} {x : Front × Next} {l : List (Front × Next)} (h : pickStarving s c g l = some x) : x ∈ l := by
  induction l with
  | nil => cases h
  | cons y l ih =>
    simp only [pickStarving] at h
    cases hp : pickStarving s c g l with
    | none =>
      simp only [hp] at h
      split at h
      · cases h; exact List.mem_cons_self
      · cases h
    | some z =>
      have tail : z = x → x ∈ y :: l := fun e => List.mem_cons_of_mem _ (ih (hp.trans (congrArg some e)))
      have head : y = x → x ∈ y :: l := fun e => e ▸ List.mem_cons_self
      simp only [hp] at h
      split at h
      · split at h
        · exact head (Option.some.inj h)
        · exact tail (Option.some.inj h)
      · exact head (Option.some.inj h)
      · exact tail (Option.some.inj h)

theorem mem_rankInsert {s : State} {c : Core} {g : Group} {x y : Front × Next} {l : List (Front × Next)} (h : y ∈ rankInsert s c g x l) :
    y = x ∨ y ∈ l := by
  induction l with
  | nil => simpa [rankInsert] using h
  | cons z l ih =>
    simp only [rankInsert] at h
    split at h
    · simpa using h
    · rcases List.mem_cons.mp h with rfl | h
      · exact .inr List.mem_cons_self
      · exact (ih h).imp_right (List.mem_cons_of_mem _)

/-- Ranking the fronts adds none. -/
theorem mem_of_mem_ranked {s : State} {c : Core} {g : Group} {y : Front × Next} {l : List (Front × Next)} (h : y ∈ l.foldr (rankInsert s c g) []) :
    y ∈ l := by
  induction l with
  | nil => exact h
  | cons x l ih =>
    rcases mem_rankInsert h with rfl | h
    · exact List.mem_cons_self
    · exact List.mem_cons_of_mem _ (ih h)

@[simp] theorem Plan.of_one (gs : Nat) (share : Front × Next → Front × Next → Bool) (el : List Front) (x : Front × Next) (l : List (Front × Next)) :
    (Plan.of gs share el x l).one = x := by
  unfold Plan.of; split <;> rfl

@[simp] theorem Plan.of_gs (gs : Nat) (share : Front × Next → Front × Next → Bool) (el : List Front) (x : Front × Next) (l : List (Front × Next)) :
    (Plan.of gs share el x l).gs = gs := by
  unfold Plan.of; split <;> rfl

/-- The plan issues, for its group, what the first thread of its front would issue. -/
def Plan.Issues (p : Plan) (s : State) (c : Core) (g : Group) : Prop :=
  p.gs = g.slot ∧ ∃ t, (c.frontThreads g p.one.1).head? = some t ∧ s.nextOf t = .ok p.one.2

/-- An entry of the list of eligible fronts, with their grants dropped, issues what its first thread would. -/
theorem nextOf_of_mem_eligibles {s : State} {c : Core} {g : Group} {x : Front × Next}
    (h : x ∈ g.fronts.filterMap (fun f => (s.eligible c g f).map (fun n => ({ f with granted := false }, n)))) :
    ∃ t, (c.frontThreads g x.1).head? = some t ∧ s.nextOf t = .ok x.2 := by
  obtain ⟨f, -, hf⟩ := List.mem_filterMap.mp h
  obtain ⟨n, hn, rfl⟩ := Option.map_eq_some_iff.mp hf
  exact eligible_nextOf hn

theorem groupPlan_issues {s : State} {c : Core} {g : Group} {p : Plan} (h : s.groupPlan c g = some p) : p.Issues s c g := by
  unfold State.groupPlan at h
  split at h
  · cases h
  split at h
  · obtain ⟨n, hn, rfl⟩ := Option.map_eq_some_iff.mp h
    exact ⟨rfl, eligible_nextOf hn⟩
  · simp only at h
    split at h
    · next x hx =>
      obtain rfl := Option.some.inj h
      have hx := nextOf_of_mem_eligibles (mem_of_pickStarving hx)
      split
      · exact ⟨Plan.of_gs .., by rw [Plan.of_one]; exact hx⟩
      · exact ⟨rfl, hx⟩
    · split at h
      · cases h
      · next x l hl =>
        obtain rfl := Option.some.inj h
        exact ⟨Plan.of_gs .., by rw [Plan.of_one]; exact nextOf_of_mem_eligibles (mem_of_mem_ranked (hl ▸ List.mem_cons_self))⟩

/-- The group of a lane's plan stands in the plan's slot, and the plan issues what the first thread of its front would. -/
theorem lanePlan_issues {s : State} {c : Core} {lane : Nat} {p : Plan} (h : s.lanePlan c lane = some p) :
    ∃ g, c.group? p.gs = some g ∧ p.Issues s c g := by
  unfold State.lanePlan at h
  simp only at h
  split at h
  · cases h
  obtain ⟨gs, -, hgs⟩ := List.exists_of_findSome?_eq_some h
  cases hg : c.group? gs with
  | none => simp [hg] at hgs
  | some g =>
    simp only [hg] at hgs
    have hi := groupPlan_issues hgs
    have hslot : g.slot = gs := by simpa using List.find?_some hg
    exact ⟨g, by rw [hi.1, hslot, hg], hi⟩

/-! ### A step in which a lane issues (R14, R46) -/

/-- Where a lane with a plan is the only thing that can move, a step runs its plan. -/
theorem step_of_lane {s : State} {cl co lane : Nat} {p : Plan} (hc : s.candidates = [.lane cl co lane])
    (hp : s.lanePlan (s.core cl co) lane = some p) : step s = settled s.inputs (s.runPlan cl co lane p) := by
  simp [step, State.advance, hc, State.take, hp]

/-- The pass of one front, no thread of which stops before its operation, is the operation's meaning for the threads still to issue it. -/
theorem runSlots_op {s : State} {n : Next} {i : Issue} {ks : List Nat} {ins : Instr} {rest : List Byte} (hn : n.dec = .op ins rest)
    (hs : s.firstPreStop i ks = none) : runSlots s n i ks = exec ins { s with cur := some { i with threads := ks } } := by
  simp [runSlots, hs, runFront, hn]

end Sys2Proof.Machine

namespace Sys2Proof.Proofs
open Sys2Proof Sys2Proof.Machine Sys2Proof.Claims

/-- Settles O53: the lane's plan holds what the first thread of its front would issue, and that is what the bytes at its position decode to. -/
theorem stepRunsDecoded : Obligations.StepRunsDecoded := by
  intro s cl co lane p g t img o ins rest f c hc hp htwo hg ht himg ho len h1 hn hpois hdec hf hfit x ks i0 i hpre
  obtain ⟨g', hg', -, t', ht', hnext⟩ := lanePlan_issues hp
  obtain rfl : g = g' := Option.some.inj (hg.symm.trans hg')
  obtain rfl : t = t' := Option.some.inj (ht.symm.trans ht')
  have hop : s.fetchOp img t.path = .ok (.op ins rest, o.seg, o.first) := hdec ▸ fetchOp_eq_decodeOp ho rfl h1 hn hpois
  have hone : p.one.2 = ⟨.op ins rest, o.seg, o.first, f.1, f.2.2, opUniform f.1 f.2.2⟩ :=
    Except.ok.inj (hnext.symm.trans (nextOf_of_fetchOp himg hop hf hfit))
  have hrun : runSlots x p.one.2 i ks = exec ins { x with cur := some i } := runSlots_op (by rw [hone]) hpre
  refine ⟨by rw [hone], by rw [hone], (step_of_lane hc hp).trans (congrArg _ ?_)⟩
  have hplan : s.runPlan cl co lane p = match runSlots x p.one.2 i ks with
      | .next u => .next (u.closePass cl co lane p.gs [(p.one.2, u.cur.getD i0)])
      | r => r := by
    unfold State.runPlan
    rw [htwo]
    rfl
  exact hrun ▸ hplan

end Sys2Proof.Proofs

/-! PROOFS. Fetching, bins and slots: what a release of a bin makes of the core's threads and groups, and where a front stops whose item cannot be
fetched (R14, R45, R63, R90 to R92, R209, R216, R334). -/

namespace Sys2Proof.Machine

/-! ### Threads and groups of a core that was changed -/

theorem tid_of_thread? {c : Core} {tid : Nat} {t : Thread} (h : c.thread? tid = some t) : t.tid = tid := by
  simpa using List.find?_some h

theorem slot_of_group? {c : Core} {gs : Nat} {g : Group} (h : c.group? gs = some g) : g.slot = gs := by
  simpa using List.find?_some h

/-- A thread that was changed is found as changed. -/
theorem thread?_onThread (c : Core) (tid : Nat) {f : Thread → Thread} (hf : ∀ x, (f x).tid = x.tid) :
    (c.onThread tid f).thread? tid = (c.thread? tid).map f := by
  have e : (c.onThread tid f).thread? tid = (c.thread? tid).map (fun x => if x.tid == tid then f x else x) :=
    find_mapIf _ _ _ (by simp [hf]) _
  rw [e]
  exact Option.map_congr (fun x hx => if_pos (by simpa using tid_of_thread? hx))

/-- Threads changed without their numbers are found as changed. -/
theorem thread?_map (c : Core) (tid : Nat) {f : Thread → Thread} (hf : ∀ x, (f x).tid = x.tid) :
    ({ c with threads := c.threads.map f } : Core).thread? tid = (c.thread? tid).map f := by
  have e : (fun x : Thread => x.tid == tid) ∘ f = fun x => x.tid == tid := funext (fun x => congrArg (· == tid) (hf x))
  simp only [Core.thread?, List.find?_map, e]

/-- A group that was changed is found as changed. -/
theorem group?_onGroup (c : Core) (gs : Nat) {f : Group → Group} (hf : ∀ x, (f x).slot = x.slot) :
    (c.onGroup gs f).group? gs = (c.group? gs).map f := by
  have e : (c.onGroup gs f).group? gs = (c.group? gs).map (fun x => if x.slot == gs then f x else x) :=
    find_mapIf _ _ _ (by simp [hf]) _
  rw [e]
  exact Option.map_congr (fun x hx => if_pos (by simpa using slot_of_group? hx))

/-- A group put in the place of another of its slot is found there. -/
theorem group?_setGroup {c : Core} {g g' : Group} (h : c.group? g.slot = some g') : (c.setGroup g).group? g.slot = some g := by
  have e : ((fun x : Group => x.slot == g.slot) ∘ fun x => if x.slot == g.slot then g else x) = fun x => x.slot == g.slot := by
    funext x
    by_cases hx : x.slot = g.slot <;> simp [hx]
  have hg' := slot_of_group? h
  simp only [Core.group?, Core.setGroup, mapIf, List.find?_map, e] at h ⊢
  simp [h, hg']

/-- A group added in a slot that no group has is found there. -/
theorem group?_append {c : Core} {g : Group} (h : c.group? g.slot = none) :
    ({ c with groups := c.groups ++ [g] } : Core).group? g.slot = some g := by
  simp only [Core.group?] at h ⊢
  simp [List.find?_append, h]

/-! ### Fetching (R63, R209, R334) -/

/-- A stopped front keeps its place among the fronts of its group, but for the order. -/
@[simp] theorem mem_stoppedLast {f : Front} {fs : List Front} : f ∈ stoppedLast fs ↔ f ∈ fs := by
  cases h : f.stop <;> simp [stoppedLast, h]

/-- A group one of whose fronts stops. -/
def Group.stopFront (g : Group) (f : Front) (st : Stop) : Group :=
  { g with fronts := stoppedLast (g.fronts.map (fun h => if h.tslots == f.tslots then { h with granted := false, stop := some st } else h)) }

theorem stopFront_stops {g : Group} {f : Front} (h : f ∈ g.fronts) (st : Stop) :
    ∃ f' ∈ (g.stopFront f st).fronts, f'.tslots = f.tslots ∧ f'.stop = some st :=
  ⟨{ f with granted := false, stop := some st }, mem_stoppedLast.mpr (List.mem_map.mpr ⟨f, h, by simp⟩), rfl, rfl⟩

/-- The mode of the context in which a thread's page faults are judged (R334). -/
def State.trapModeOf (s : State) (t : Thread) : Bool := (s.ctxOf (((s.launch? t.launch).map (fun l => l.ctx)).getD 0)).trapMode

/-- The item that a fetch fault is reported at (R209). -/
def Thread.faultItem (t : Thread) (e : FetchFault) : Path := ⟨t.path.proc, e.digits, e.op⟩

/-- A fetch fault that no answer may resolve stops the front with its cause (R209). -/
theorem fetchStop_trap {s : State} {t : Thread} {e : FetchFault} (cl co : Nat) (h : e.resolve = false ∨ s.trapModeOf t = true) :
    s.fetchStop cl co t t.path.proc e = (s, .trap e.cause t.tslot (BitVec.ofNat 64 e.addr) (t.faultItem e)) := by
  have hn : (e.resolve && !s.trapModeOf t) = false := by
    rcases h with h | h <;> simp [h]
  exact if_neg (fun hc => Bool.false_ne_true (hn.symm.trans hc))

/-- The stall of a fetch fault that an answer may resolve: of SRC 1, it names the item (R334). -/
def State.fetchStall (s : State) (cl co : Nat) (t : Thread) (e : FetchFault) : Stall :=
  { id := s.nextId, part := s.freshId.2.partOfCluster cl, cl := cl, ctx := ((s.launch? t.launch).map (fun l => l.ctx)).getD 0, va := e.addr, src := 1,
    acc := .fetch, who := some (co, t.gslot.getD 64, t.tslot), item := some (t.faultItem e) }

/-- One that an answer may resolve stalls the front (R334). -/
theorem fetchStop_stall {s : State} {t : Thread} {e : FetchFault} (cl co : Nat) (h : e.resolve = true) (hm : s.trapModeOf t = false) :
    s.fetchStop cl co t t.path.proc e =
      ({ s.freshId.2 with stalls := s.stalls ++ [s.fetchStall cl co t e] }, .stall (s.fetchStall cl co t e).id) := by
  have hc : (e.resolve && !s.trapModeOf t) = true := by simp [h, hm]
  exact if_pos hc

theorem exec_instructionFetch {s : State} {cl co gs fi : Nat} {g : Group} {f : Front} (hg : (s.core cl co).group? gs = some g)
    (hf : g.fronts[fi]? = some f) (hl : s.leastFetch (s.core cl co) g = some fi) :
    exec (.instructionFetch cl co gs fi) s = .next (s.fetchFor (s.core cl co) g f) := by
  show execInstructionFetch cl co gs fi s = _
  simp [execInstructionFetch, hg, hf, hl]

theorem fetchFor_ok {s : State} {c : Core} {g : Group} {f : Front} {t : Thread} {l : List Thread} {n : Next} (ht : c.frontThreads g f = t :: l)
    (hn : s.nextOf t = .ok n) : s.fetchFor c g f = (s.codeUsed t).setCore { c with ibuf := c.ibuf ++ [(g.slot, { t.path with op := n.first })] } := by
  simp [State.fetchFor, ht, hn]

theorem fetchFor_error {s : State} {c : Core} {g : Group} {f : Front} {t : Thread} {l : List Thread} {e : FetchFault} {s1 : State} {st : Stop}
    (ht : c.frontThreads g f = t :: l) (hn : s.nextOf t = .error e) (hs : s.fetchStop c.cl c.co t t.path.proc e = (s1, st)) :
    s.fetchFor c g f = s1.setCore (c.onGroup g.slot (fun h => h.stopFront f st)) := by
  simp only [State.fetchFor, ht, hn, hs, Group.stopFront]

/-- Where a core's group has a front stopped, the group and the front are found there. -/
theorem group?_stopFront {s : State} {cl co gs : Nat} {g : Group} {f : Front} (s1 : State) (hg : (s.core cl co).group? gs = some g)
    (hf : f ∈ g.fronts) (st : Stop) :
    ∃ h, ((s1.setCore ((s.core cl co).onGroup g.slot (fun h => h.stopFront f st))).core cl co).group? gs = some h ∧
      ∃ f' ∈ h.fronts, f'.tslots = f.tslots ∧ f'.stop = some st := by
  obtain ⟨hcl, hco⟩ := core_cl_co s cl co
  refine ⟨g.stopFront f st, ?_, stopFront_stops hf st⟩
  have hcore := core_setCore_same s1 ((s.core cl co).onGroup gs (fun h => h.stopFront f st)) hcl hco
  have hgroup := group?_onGroup (s.core cl co) gs (f := fun h => h.stopFront f st) (fun _ => rfl)
  rw [slot_of_group? hg, hcore, hgroup, hg]
  rfl

/-! ### Forming a group (R45, R59, R91, R92) -/

/-- The slots of a new group: its threads in order of arrival (R45). -/
def seats (tids : List Nat) : List (Nat × Nat) := tids.zipIdx.map (fun x => (x.2, x.1))

/-- A thread as a new group takes it into its slot; one that the group does not hold is as it was. -/
def Thread.seated (gs : Nat) (ms : List (Nat × Nat)) (t : Thread) : Thread :=
  match ms.find? (fun m => m.2 == t.tid) with
  | some m => { t with gslot := some gs, tslot := m.1, act := t.fileAct, fresh := false, writes := 0, demoted := false, waitSet := [], waitOld := [] }
  | none => t

section Seated
variable (gs : Nat) (ms : List (Nat × Nat)) (t : Thread)

@[simp] theorem Thread.seated_nil : Thread.seated gs [] = id := rfl
@[simp] theorem Thread.seated_tid : (t.seated gs ms).tid = t.tid := by unfold Thread.seated; split <;> rfl
@[simp] theorem Thread.seated_stk : (t.seated gs ms).stk = t.stk := by unfold Thread.seated; split <;> rfl
@[simp] theorem Thread.seated_path : (t.seated gs ms).path = t.path := by unfold Thread.seated; split <;> rfl

/-- A thread is left as it was, or has a place in the group. -/
theorem Thread.seated_eq_or_placed : t.seated gs ms = t ∨ (t.seated gs ms).gslot = some gs := by
  unfold Thread.seated; split <;> simp

end Seated

/-- Of threads without repetition each has the slot of its place. -/
theorem find_seats {tids : List Nat} (hnd : tids.Nodup) {x : Nat × Nat} (hx : x ∈ tids.zipIdx) :
    (seats tids).find? (fun m => m.2 == x.1) = some (x.2, x.1) := by
  have hin : (x.2, x.1) ∈ seats tids := List.mem_map.mpr ⟨x, hx, rfl⟩
  cases hf : (seats tids).find? (fun m => m.2 == x.1) with
  | none => exact absurd (List.find?_eq_none.mp hf _ hin) (by simp)
  | some m =>
    obtain ⟨y, hy, rfl⟩ := List.mem_map.mp (List.mem_of_find?_eq_some hf)
    have hxy : y.1 = x.1 := by simpa using List.find?_some hf
    have hx' := List.mem_zipIdx_iff_getElem?.mp hx
    have hy' := List.mem_zipIdx_iff_getElem?.mp hy
    have hlt : y.2 < tids.length := (List.getElem?_eq_some_iff.mp hy').1
    have hidx : y.2 = x.2 := (List.getElem?_inj hlt hnd).mp (by rw [hy', hx', hxy])
    rw [hxy, hidx]

@[simp] theorem formGroup_mem (s : State) (cl co gs : Nat) (tids : List Nat) : (s.formGroup cl co gs tids).mem = s.mem := rfl

/-- A group's formation seats its threads and leaves the others. -/
theorem thread?_formGroup (s : State) (cl co gs : Nat) (tids : List Nat) (tid : Nat) :
    (s.formGroup cl co gs tids).thread? cl co tid = (s.thread? cl co tid).map (Thread.seated gs (seats tids)) := by
  obtain ⟨hcl, hco⟩ := core_cl_co s cl co
  have e : (s.formGroup cl co gs tids).core cl co = _ := core_setCore_same _ _ hcl hco
  rw [State.thread?, e]
  exact thread?_map _ _ (Thread.seated_tid gs (seats tids))

/-- The new group stands in its slot with its threads in order and the state of a new group (R45, R92). -/
theorem group?_formGroup {s : State} {cl co gs : Nat} (tids : List Nat) (h : (s.core cl co).group? gs = none) :
    ∃ g, ((s.formGroup cl co gs tids).core cl co).group? gs = some g ∧ g.members = seats tids ∧ g.g = [] ∧ g.q = [] ∧ g.flags = [] ∧ g.exch = [] ∧
      g.pend = none ∧ g.handler = none := by
  obtain ⟨hcl, hco⟩ := core_cl_co s cl co
  have e : (s.formGroup cl co gs tids).core cl co = _ := core_setCore_same _ _ hcl hco
  rw [e]
  exact ⟨_, group?_setGroup (group?_append h), rfl, rfl, rfl, rfl, rfl, rfl, rfl⟩

/-! ### Releasing a bin (R14, R90) -/

theorem group?_lowestSlot {s : State} {c : Core} {gs : Nat} (h : s.lowestSlot c = some gs) : c.group? gs = none := by
  have := List.find?_some h
  simp only [State.slotFree, Bool.and_eq_true, Option.isNone_iff_eq_none] at this
  exact this.1

/-- A bin's release forms a group of the threads that leave it, in the lowest free slot, and changes the bins. -/
theorem releaseBin_eq_formGroup {s : State} {cl co bi gs : Nat} {b : Bin} (hb : (s.core cl co).bins[bi]? = some b)
    (hs : s.lowestSlot (s.core cl co) = some gs) :
    ∃ bins, s.releaseBin cl co bi = (s.setCore { s.core cl co with bins := bins }).formGroup cl co gs b.leaving := by
  simp only [State.releaseBin, hb, hs]
  exact ⟨_, rfl⟩

theorem core_setThreads (s : State) (cl co : Nat) (ts : List Thread) :
    (s.setCore { s.core cl co with threads := ts }).core cl co = { s.core cl co with threads := ts } :=
  core_setCore_same _ _ (core_cl_co s cl co).1 (core_cl_co s cl co).2

theorem core_setBins (s : State) (cl co : Nat) (bins : List Bin) :
    (s.setCore { s.core cl co with bins := bins }).core cl co = { s.core cl co with bins := bins } :=
  core_setCore_same _ _ (core_cl_co s cl co).1 (core_cl_co s cl co).2

/-- A release leaves memory, and of the core's threads it seats some and leaves the others. -/
theorem releaseBin_frame (s : State) (cl co bi : Nat) : (s.releaseBin cl co bi).mem = s.mem ∧
    ∃ gs ms, ∀ tid, (s.releaseBin cl co bi).thread? cl co tid = (s.thread? cl co tid).map (Thread.seated gs ms) := by
  cases hb : (s.core cl co).bins[bi]? with
  | none => exact ⟨by simp [State.releaseBin, hb], 0, [], by simp [State.releaseBin, hb]⟩
  | some b =>
    cases hs : s.lowestSlot (s.core cl co) with
    | none => exact ⟨by simp [State.releaseBin, hb, hs], 0, [], by simp [State.releaseBin, hb, hs]⟩
    | some gs =>
      obtain ⟨bins, e⟩ := releaseBin_eq_formGroup hb hs
      rw [e]
      refine ⟨rfl, gs, seats b.leaving, fun tid => ?_⟩
      rw [thread?_formGroup, State.thread?, core_setBins]
      rfl

/-- So does the release of the bin that is due, if one is. -/
theorem releaseDue_frame (s : State) (cl co : Nat) : (s.releaseDue cl co).mem = s.mem ∧
    ∃ gs ms, ∀ tid, (s.releaseDue cl co).thread? cl co tid = (s.thread? cl co tid).map (Thread.seated gs ms) := by
  unfold State.releaseDue
  split
  · exact releaseBin_frame s cl co _
  · exact ⟨rfl, 0, [], by simp⟩

/-! ### Filing a thread (R90, R91) -/

/-- The thread's place is a bin that stands, or a new one: none is forced to release for it. -/
def Filing.Takes (f : Filing) : Prop := (∃ bi, f = .into bi) ∨ ∃ n, f = .open_ n

/-- The thread filed waits in a bin, and is otherwise as it was. -/
theorem thread?_binThread {f : Filing} (h : f.Takes) (c : Core) (t : Thread) :
    (c.binThread t f).thread? t.tid = (c.thread? t.tid).map (fun x => { x with act := .binned }) := by
  have e := thread?_onThread c t.tid (f := fun x => { x with act := .binned }) (fun _ => rfl)
  rcases h with ⟨bi, rfl⟩ | ⟨n, rfl⟩ <;> exact e

theorem core_binThread (s : State) (cl co : Nat) (t : Thread) (f : Filing) :
    (s.setCore ((s.core cl co).binThread t f)).core cl co = (s.core cl co).binThread t f := by
  obtain ⟨hcl, hco⟩ := core_cl_co s cl co
  cases f <;> exact core_setCore_same _ _ hcl hco

theorem exec_binFile {s : State} {cl co tid : Nat} {t : Thread} (ht : (s.nextToFile (s.core cl co)).find? (fun x => x.tid == tid) = some t)
    (hf : (s.filing (s.core cl co) t).Takes) :
    exec (.binFile cl co tid) s = .next ((s.setCore ((s.core cl co).binThread t (s.filing (s.core cl co) t))).releaseDue cl co) := by
  show execBinFile cl co tid s = _
  rcases hf with ⟨bi, hf⟩ | ⟨n, hf⟩ <;> simp [execBinFile, ht, hf]

theorem exec_binAgeLimit {s : State} {cl co bi : Nat} {b : Bin} (hb : (s.core cl co).bins[bi]? = some b)
    (hd : b.due (s.ageLimit (s.core cl co)) (s.core cl co).saving = true) (hr : s.canRelease (s.core cl co) b = true) :
    exec (.binAgeLimit cl co bi) s = .next (s.releaseBin cl co bi) := by
  show execBinAgeLimit cl co bi s = _
  simp [execBinAgeLimit, hb, hd, hr]

/-! ### Freeing a slot (R216) -/

theorem exec_threadSlotFree {s : State} {cl co tid : Nat} {t : Thread} (ht : (s.core cl co).thread? tid = some t)
    (hf : s.slotFrees (s.core cl co) t = true) :
    exec (.threadSlotFree cl co tid) s =
      .next ((s.setCore { s.core cl co with threads := (s.core cl co).threads.filter (fun x => x.tid != tid) }).releaseDue cl co) := by
  show execThreadSlotFree cl co tid s = _
  simp [execThreadSlotFree, ht, hf]

/-- A thread that was removed is not found. -/
theorem thread?_removed (c : Core) (tid : Nat) : ({ c with threads := c.threads.filter (fun x => x.tid != tid) } : Core).thread? tid = none := by
  simp [Core.thread?, List.find?_eq_none]

end Sys2Proof.Machine

namespace Sys2Proof.Proofs
open Sys2Proof Sys2Proof.Machine Sys2Proof.Claims

/-- A front's fetch brings the item into the buffer (R63). -/
theorem fetch_fills {s : State} {cl co gs fi : Nat} {g : Group} {f : Front} {t : Thread} {l : List Thread} {n : Next}
    (hg : (s.core cl co).group? gs = some g) (hf : g.fronts[fi]? = some f) (hl : s.leastFetch (s.core cl co) g = some fi)
    (ht : (s.core cl co).frontThreads g f = t :: l) (hn : s.nextOf t = .ok n) :
    exec (.instructionFetch cl co gs fi) s =
      .next ((s.codeUsed t).setCore { s.core cl co with ibuf := (s.core cl co).ibuf ++ [(gs, { t.path with op := n.first })] }) := by
  rw [exec_instructionFetch hg hf hl, fetchFor_ok ht hn, slot_of_group? hg]

/-- A fetch that fails stops the front as its fault says, and leaves the rest of the state as the fault's report left it (R209, R334). -/
theorem fetch_stops {s s1 : State} {cl co gs fi : Nat} {g : Group} {f : Front} {t : Thread} {l : List Thread} {e : FetchFault} {st : Stop}
    (hg : (s.core cl co).group? gs = some g) (hf : g.fronts[fi]? = some f) (hl : s.leastFetch (s.core cl co) g = some fi)
    (ht : (s.core cl co).frontThreads g f = t :: l) (hn : s.nextOf t = .error e) (hs : s.fetchStop cl co t t.path.proc e = (s1, st)) :
    Then (.instructionFetch cl co gs fi) s (fun u => u.stalls = s1.stalls ∧ u.mem = s1.mem ∧
      ∃ h, (u.core cl co).group? gs = some h ∧ ∃ f' ∈ h.fronts, f'.tslots = f.tslots ∧ f'.stop = some st) := by
  obtain ⟨hcl, hco⟩ := core_cl_co s cl co
  refine ⟨s1.setCore ((s.core cl co).onGroup g.slot (fun h => h.stopFront f st)), ?_, rfl, rfl, group?_stopFront s1 hg (List.mem_of_getElem? hf) st⟩
  rw [exec_instructionFetch hg hf hl, fetchFor_error ht hn (by rw [hcl, hco, hs])]

/-- A thread that is filed is in a bin afterwards, or in a group that its bin has become (R90, R91). -/
theorem binFile_files {s : State} {cl co tid : Nat} {t : Thread} (hn : (s.nextToFile (s.core cl co)).find? (fun x => x.tid == tid) = some t)
    (ht : (s.core cl co).thread? tid = some t) (hf : (s.filing (s.core cl co) t).Takes) :
    Then (.binFile cl co tid) s (fun u => u.mem = s.mem ∧
      Has u cl co tid (fun x => (x.act = .binned ∨ x.gslot.isSome = true) ∧ x.stk = t.stk ∧ x.path = t.path)) := by
  obtain rfl := tid_of_thread? ht
  obtain ⟨hmem, gs, ms, hthreads⟩ := releaseDue_frame (s.setCore ((s.core cl co).binThread t (s.filing (s.core cl co) t))) cl co
  refine ⟨_, exec_binFile hn hf, hmem, { t with act := .binned }.seated gs ms, ?_, ?_, by simp, by simp⟩
  · rw [hthreads, State.thread?, core_binThread, thread?_binThread hf, ht]
    rfl
  · rcases Thread.seated_eq_or_placed gs ms { t with act := .binned } with e | e
    · exact .inl (congrArg Thread.act e)
    · exact .inr (by rw [e]; rfl)

/-- A due bin becomes a group in the lowest free slot (R14, R45, R92). -/
theorem binAgeLimit_forms {s : State} {cl co bi gs : Nat} {b : Bin} (hb : (s.core cl co).bins[bi]? = some b)
    (hd : b.due (s.ageLimit (s.core cl co)) (s.core cl co).saving = true) (hr : s.canRelease (s.core cl co) b = true)
    (hs : s.lowestSlot (s.core cl co) = some gs) (hnd : b.leaving.Nodup) :
    Then (.binAgeLimit cl co bi) s (fun u => u.mem = s.mem ∧
      (∃ h, (u.core cl co).group? gs = some h ∧ h.members = seats b.leaving ∧ h.g = [] ∧ h.q = [] ∧ h.flags = [] ∧ h.exch = [] ∧ h.pend = none ∧
        h.handler = none) ∧
      (∀ x ∈ b.leaving.zipIdx, ∀ t, (s.core cl co).thread? x.1 = some t →
        Has u cl co x.1 (fun y => y.gslot = some gs ∧ y.tslot = x.2 ∧ y.act = t.fileAct ∧ y.stk = t.stk))) := by
  obtain ⟨bins, e⟩ := releaseBin_eq_formGroup hb hs
  refine ⟨_, exec_binAgeLimit hb hd hr, ?_⟩
  rw [e]
  refine ⟨rfl, group?_formGroup _ (by rw [core_setBins]; exact group?_lowestSlot hs), fun x hx t ht => ?_⟩
  have hseat : (seats b.leaving).find? (fun m => m.2 == t.tid) = some (x.2, x.1) := tid_of_thread? ht ▸ find_seats hnd hx
  refine ⟨t.seated gs (seats b.leaving), ?_, by simp [Thread.seated, hseat]⟩
  rw [thread?_formGroup, State.thread?, core_setBins]
  exact congrArg _ ht

/-- An ended thread that nothing awaits gives its slot back (R216). -/
theorem threadSlotFree_frees {s : State} {cl co tid : Nat} {t : Thread} (ht : (s.core cl co).thread? tid = some t) (ha : t.act = .ended)
    (hl : s.longsOf t.tid = []) (hr : s.regAwaited (s.core cl co).cl (s.core cl co).co t.tid = false) :
    Then (.threadSlotFree cl co tid) s (fun u => u.mem = s.mem ∧ u.thread? cl co tid = none) := by
  have hf : s.slotFrees (s.core cl co) t = true := by simp [State.slotFrees, ha, hl, hr]
  obtain ⟨hmem, gs, ms, hthreads⟩ := releaseDue_frame (s.setCore { s.core cl co with threads := (s.core cl co).threads.filter (fun x => x.tid != tid) }) cl co
  refine ⟨_, exec_threadSlotFree ht hf, hmem, ?_⟩
  rw [hthreads, State.thread?, core_setThreads, thread?_removed]
  rfl

/-- Settles O31, by the fetch, the filing, the release of a bin and the freeing of a slot, each under its own name above. -/
theorem fetchingAndGroups : Obligations.FetchingAndGroups := by
  refine ⟨?_, ?_, ?_, ?_⟩
  · intro s cl co gs fi g f t l c hg hf hl ht
    refine ⟨fun n hn => fetch_fills hg hf hl ht hn, fun e hn => ⟨fun h => ?_, fun h hm => ?_⟩⟩
    · exact fetch_stops hg hf hl ht hn (fetchStop_trap cl co h)
    · obtain ⟨u, hu, hstalls, hstops⟩ := fetch_stops hg hf hl ht hn (fetchStop_stall cl co h hm)
      exact ⟨u, hu, s.fetchStall cl co t e, hstalls, rfl, rfl, rfl, rfl, hstops⟩
  · intro s cl co tid t c hn ht hf
    exact binFile_files hn ht hf
  · intro s cl co bi gs b c hb hd hr hs hnd
    exact binAgeLimit_forms hb hd hr hs hnd
  · intro s cl co tid t ht ha hl hr
    exact threadSlotFree_frees ht ha hl hr

end Sys2Proof.Proofs

/-! PROOFS. What a pass does for a thread whose guard is false, and what that comes to where two threads of a core have one number (R20, R46, R58). -/

namespace Sys2Proof.Machine

/-! ### Threads that share a number -/

/-- Changing the threads of a number puts one thread in their place exactly where the change makes that thread of each of them. -/
theorem onThread_eq_setThread_iff (c : Core) (t : Thread) (f : Thread → Thread) :
    c.onThread t.tid f = c.setThread t ↔ ∀ x ∈ c.threads, x.tid = t.tid → f x = t := by
  simp only [Core.onThread, Core.setThread, mapIf, Core.mk.injEq, List.map_inj_left, true_and, and_true, beq_iff_eq]
  refine forall₂_congr (fun x _ => ?_)
  by_cases h : x.tid = t.tid <;> simp [h]

/-! ### What a skipped thread logs (R58, R340) -/

/-- The role of a source says which cause its poison has, not whether it is poisoned (R340). -/
theorem poisonOf_eq_none_of_role {t : Thread} {g : Group} {x : Spec} {n r : Nat} (h : poisonOf t g x n r = none) (r' : Nat) :
    poisonOf t g x n r' = none := by
  cases x with
  | v n => simpa [poisonOf] using h
  | g n => simpa [poisonOf] using h
  | p n => exact h
  | q n => exact h
  | _ => rfl

theorem sourcePoison_eq_none {t : Thread} {g : Group} {o : Ops} {w : Widths} {ra rb rc : Nat} (h : sourcePoison t g o w ra rb rc = none) :
    poisonOf t g o.a w.a ra = none ∧ poisonOf t g o.b w.b rb = none ∧ poisonOf t g o.c w.c rc = none := by
  unfold sourcePoison at h
  split at h
  · exact absurd h (by simp)
  · next ha =>
    split at h
    · exact absurd h (by simp)
    · next hb => exact ⟨ha, hb, h⟩

/-- A skipped thread whose operation names no poisoned word leaves nothing logged (R58). -/
theorem skipLatent_eq_self {s : State} {opc : Nat} {o : Ops} {e : Env} {t : Thread} {g : Group} {k : Nat} {group : Bool}
    (h : sourcePoison t g o (widths opc o) 0 0 0 = none) : s.skipLatent opc o e t g k group = s := by
  obtain ⟨ha, hb, hc⟩ := sourcePoison_eq_none h
  simp [State.skipLatent, poisonOf_eq_none_of_role ha, poisonOf_eq_none_of_role hb, poisonOf_eq_none_of_role hc]

/-! ### A false guard (R20, R46) -/

/-- A pass of one thread comes to what serving it does. -/
theorem serveAll_singleton (f : Serve) (opc : Nat) (o : Ops) (k : Nat) (s : State) (i : Issue) :
    serveAll f opc o [k] s i = serveOne f opc o s i k := by
  simp [serveAll]

/-- A thread whose guard is false retires, with every thread of its number, and nothing else happens. -/
theorem serveOne_skip {f : Serve} {opc : Nat} {o : Ops} {s : State} {i : Issue} {k : Nat} {c : Core} {g : Group} {t : Thread}
    (ht : s.slotThread i k = some (c, g, t)) (hg : guardVal o t = ⟨false, false⟩) (hp : sourcePoison t g o (widths opc o) 0 0 0 = none) :
    serveOne f opc o s i k = (s.setCore (c.onThread t.tid retire), { i with skipped := i.skipped ++ [k] }) := by
  obtain ⟨rfl, -, -⟩ := slotThread_core ht
  simp [serveOne, ht, hg, skipLatent_eq_self hp, State.onThread, State.onCore]

/-- So in a pass of one thread whose guard is false no operation does more than that. -/
theorem runOp_skip {ins : Instr} {opc : Nat} {o : Ops} {f : Serve} {s : State} {i : Issue} {k : Nat} {c : Core} {g : Group} {t : Thread}
    (hcur : s.cur = some i) (hk : i.threads = [k]) (hun : opUniform opc o = false) (ht : s.slotThread i k = some (c, g, t))
    (hg : guardVal o t = ⟨false, false⟩) (hp : sourcePoison t g o (widths opc o) 0 0 0 = none) :
    runOp ins opc o f s = .next { s.setCore (c.onThread t.tid retire) with cur := some { i with skipped := i.skipped ++ [k] } } := by
  simp only [runOp, hcur, hun, hk, Bool.false_eq_true, if_false, serveAll_singleton]
  rw [serveOne_skip (i := { i with soft := isSoft opc, threads := [k] }) ht hg hp]

theorem exec_add (o : Ops) (s : State) :
    exec (.add o) s = runOp (.add o) 0x040 o (laneServe (laneN 0x040 o (opSigned o) (resAdd (opBits o) (opSigned o)))) s := rfl

end Sys2Proof.Machine

namespace Sys2Proof.Proofs
open Sys2Proof Sys2Proof.Machine Sys2Proof.Claims

/-! ### A core with two threads of one number -/

/-- An addition under the guard !p0, which is false for every thread (R20). -/
def neverAdd : Ops := { neg := true, gp := 0, t := 0, d := .v 1, a := .v 2, b := .v 3, c := .zero, mod := 0, imm := 0 }

/-- A pass of the thread in slot 0 of a group. -/
def twinIssue : Issue := { cl := 0, co := 0, gs := 0, front := [0], threads := [0] }

/-- A thread of number 1 whose window begins at a stack word. -/
def twin (wb : Nat) : Thread := { tid := 1, launch := 1, block := 0, stackNo := 0, wb := wb }

/-- The group whose slot 0 names the thread of number 1. -/
def twinGroup : Group := { slot := 0, launch := 1, members := [(0, 1)] }

/-- Two threads have that number; their windows differ. -/
def twinCore : Core := { cl := 0, co := 0, threads := [twin 0, twin 8], groups := [twinGroup] }

/-- The pass is under way on that core. -/
def twinState : State := { State.reset with cores := [twinCore], cur := some twinIssue }

theorem guardVal_neverAdd (t : Thread) : guardVal neverAdd t = ⟨false, false⟩ := rfl

/-- The pass serves the first of the two. -/
theorem slotThread_twinState : twinState.slotThread twinIssue 0 = some (twinCore, twinGroup, twin 0) := rfl

theorem sourcePoison_twin : sourcePoison (twin 0) twinGroup neverAdd (widths 0x040 neverAdd) 0 0 0 = none := by decide

theorem unlogged_twinState : Unlogged twinState twinIssue 0x040 neverAdd := by
  intro k hk c g t ht _
  obtain rfl : k = 0 := by simpa [twinIssue] using hk
  obtain ⟨-, rfl, rfl⟩ : twinCore = c ∧ twinGroup = g ∧ twin 0 = t := by simpa using slotThread_twinState.symm.trans ht
  exact sourcePoison_twin

/-- Refutes O55 by its clause of the false guard, in a state that no premise excludes: where a second thread of the core has the number of the thread
served, the model retires each of the two as it stands, and the statement has the first one retired in the place of both. By
`onThread_eq_setThread_iff` that clause asks that every thread of that number retire to the same thread. -/
theorem not_guardsAndMismatches : ¬ Obligations.GuardsAndMismatches := by
  intro h
  obtain ⟨hfalse, -, -, -⟩ := h (.add neverAdd) 0x040 0 neverAdd twinState twinIssue 0 twinCore twinGroup (twin 0) rfl (by decide) (by decide)
    rfl rfl rfl rfl slotThread_twinState
  obtain ⟨-, hclaim⟩ := hfalse (guardVal_neverAdd _)
  have hskip := (exec_add neverAdd twinState).trans (runOp_skip rfl rfl (by decide) slotThread_twinState (guardVal_neverAdd _) sourcePoison_twin)
  have hstates := Host.Outcome.next.inj (hskip.symm.trans (hclaim unlogged_twinState))
  have hcores : twinCore.onThread 1 retire = twinCore.setThread (retire (twin 0)) := congrArg (fun u => u.core 0 0) hstates
  have hsame : retire (twin 8) = retire (twin 0) := (onThread_eq_setThread_iff _ _ _).mp hcores _ (by simp [twinCore]) rfl
  exact absurd (congrArg Thread.wb hsame) (by decide)

end Sys2Proof.Proofs

/-! PROOFS. What a node move makes of its thread, and what entering a node of each kind does (R35 to R38, R43, R209). -/

namespace Sys2Proof.Machine

/-! ### Entering a node (R35 to R38, R213) -/

/-- A node whose header is well formed is entered by its kind. -/
theorem walkStep_enter {s : State} {i : Image} {t : Thread} {d : List Nat} {n : NodeLoc} (g : Group) (hn : s.nodeAt i t.path.proc d = .ok n)
    (hok : s.headerOk i (s.frameOf t) d n = true) : s.walkStep i g t (.enter d) = enterNode t g n d := by
  simp only [State.walkStep, hn, hok, if_true]

section Operands
variable {t : Thread} {g : Group}

theorem nodePred_p {p : Fin 8} (h : (t.p_ p.val).poison = false) : nodePred t g (.p p) = (.ok (t.p_ p.val).val, [.p t.tid p.val]) := by
  simp [nodePred, h]

theorem nodePred_q {p : Fin 4} (h : (g.qReg p.val).poison = false) : nodePred t g (.q p) = (.ok (g.qReg p.val).val, [.q p.val]) := by
  simp [nodePred, h]

theorem nodeReg_v {v : Fin 128} (h : (t.v v.val).poison = false) :
    nodeReg t g (.v v) = (.ok (t.v v.val).val.toNat, [.v t.tid (t.wb + v.val)]) := by
  simp [nodeReg, h]

end Operands

section EnterNode
variable {t : Thread} {g : Group} {n : NodeLoc} (d : List Nat)

theorem enterNode_clause (h : n.hdr.kind = .clause) : enterNode t g n d = (.done (t.restAt d 0 .rest), []) := by
  simp only [enterNode, h]

theorem enterNode_sequence (h : n.hdr.kind = .seq ∨ n.hdr.kind = .block) : enterNode t g n d = (.more t (.enter (d ++ [0])), []) := by
  rcases h with h | h <;> simp only [enterNode, h]

/-- A selection goes on at child 0 where its predicate is true, at child 1 where it is false. -/
theorem enterNode_sel {p : Spec} {b : Bool} {w : Touched} (h : n.hdr.kind = .sel p) (hp : nodePred t g p = (.ok b, w)) :
    enterNode t g n d = (.more t (.enter (d ++ [if b then 0 else 1])), w) := by
  simp only [enterNode, h, hp]

/-- A case goes on at the child of its index, or at its last. -/
theorem enterNode_case {v : Spec} {x : Nat} {w : Touched} (h : n.hdr.kind = .case v) (hv : nodeReg t g v = (.ok x, w)) (hc : 0 < n.hdr.count) :
    enterNode t g n d = (.more t (.enter (d ++ [min x (n.hdr.count - 1)])), w) := by
  have e : (if x ≥ n.hdr.count then n.hdr.count - 1 else x) = min x (n.hdr.count - 1) := by
    split <;> omega
  simp only [enterNode, h, hv, e]

theorem enterNode_call {p off : Nat} (h : n.hdr.kind = .call p off) : enterNode t g n d = (.done (t.restAt d 0 .call), []) := by
  simp only [enterNode, h]

theorem enterNode_reform (h : n.hdr.kind = .reform) : enterNode t g n d = (.done (t.restAt d 0 .reform), []) := by
  simp only [enterNode, h]

theorem enterNode_safe {k : Nat} (h : n.hdr.kind = .safe k) : enterNode t g n d = (.done (t.restAt d 0 .safe), []) := by
  simp only [enterNode, h]

end EnterNode

/-! ### A node move (R35, R43, R209) -/

/-- A thread of a group rests where its walk leads. -/
theorem unfiled_of_gslot {t : Thread} (h : t.gslot.isSome = true) : t.unfiled = t := if_pos h

section MakeMove
variable {s : State} {c : Core} {t t' : Thread} {m : Move} {w : Touched}

theorem makeMove_done (h : s.walkOf c t m = some (.done t', w)) (hg : t'.gslot.isSome = true) :
    s.makeMove c t m = (s.codeUsed t').setCore (c.setThread t') := by
  simp only [State.makeMove, h, unfiled_of_gslot hg]

theorem makeMove_stop {cause : NodeStop} (h : s.walkOf c t m = some (.stop t' cause, w)) :
    s.makeMove c t m = (s.codeUsed t').setCore (c.trapThread t' cause 0) := by
  simp only [State.makeMove, h]

theorem makeMove_fetch {e : FetchFault} (h : s.walkOf c t m = some (.fetch t' e, w)) :
    s.makeMove c t m = s.stopFetch c.cl c.co t' t'.path.proc e := by
  simp only [State.makeMove, h]

end MakeMove

/-- The move of a thread that moves alone, and has no failed chunk move to report, is the step. -/
theorem exec_nodeMove_alone {s : State} {cl co tid : Nat} {t : Thread} {m : Move} (ht : (s.core cl co).thread? tid = some t)
    (ha : t.act = .move m) (hd : s.moveDue (s.core cl co) t = true) (hp : t.pagerFault = none) (hm : s.moversWith (s.core cl co) t m = [t]) :
    exec (.nodeMove cl co tid) s = .next (s.makeMove (s.core cl co) t m) := by
  show execNodeMove cl co tid s = _
  simp [execNodeMove, ht, ha, hd, hm, State.moveThread, hp]

end Sys2Proof.Machine

namespace Sys2Proof.Proofs
open Sys2Proof Sys2Proof.Machine Sys2Proof.Claims

/-- Settles O28, by what a move that a thread makes alone comes to, and by the equation of `enterNode` for each kind of node. -/
theorem nodeMoves : Obligations.NodeMoves := by
  refine ⟨?_, ?_⟩
  · intro s cl co tid t m c ht ha hd hp hm
    have hexec := exec_nodeMove_alone ht ha hd hp hm
    refine ⟨fun t' w hw hg => ?_, fun t' cause w hw => ?_, fun t' e w hw => ?_⟩
    · rw [hexec, makeMove_done hw hg]
    · rw [hexec, makeMove_stop hw]
    · rw [hexec, makeMove_fetch hw]
  · intro s i g t d n hn hok at_
    rw [walkStep_enter g hn hok]
    refine ⟨enterNode_clause d, enterNode_sequence d, fun p h hp => ?_, fun p h hp => ?_, fun v h hv hc => ?_, fun p off => enterNode_call d,
      enterNode_reform d, fun k => enterNode_safe d⟩
    · rw [enterNode_sel d h (nodePred_p hp)]
    · rw [enterNode_sel d h (nodePred_q hp)]
    · rw [enterNode_case d h (nodeReg_v hv) hc]

end Sys2Proof.Proofs

/-! PROOFS. REFORM and safe points: what a write of the machine's own to a context's memory leaves of the cores, and what REFORM and a safe point make
of their thread (R38, R90, R99 to R101, R346, R349). -/

namespace Sys2Proof.Machine

/-- What each step of a fold leaves, the fold leaves. -/
theorem foldl_keeps {α β γ : Type} {f : β → α → β} (g : β → γ) (h : ∀ b a, g (f b a) = g b) (l : List α) (b : β) : g (l.foldl f b) = g b := by
  induction l generalizing b with
  | nil => rfl
  | cons a l ih => exact (ih (f b a)).trans (h b a)

/-! ### Translation leaves the cores (R327 to R333)

Each lemma goes through the cases of its definition; in each of them the cores are left by the lemmas about what is called there. -/

@[simp] theorem choose_cores (s : State) : s.choose.2.cores = s.cores := by
  unfold State.choose
  split <;> rfl

@[simp] theorem useLeaf_cores (s : State) (a e : Nat) (dirty : Bool) : (s.useLeaf a e dirty).1.cores = s.cores := by
  simp only [State.useLeaf]
  grind [State.storeLe_cores]

@[simp] theorem tlbHold_cores (s : State) (cl co ctx va size leaf : Nat) : (s.tlbHold cl co ctx va size leaf).cores = s.cores := rfl

@[simp] theorem tlbForget_cores (s : State) (ctx va : Nat) : (s.tlbForget ctx va).cores = s.cores := rfl

@[simp] theorem walkHold_cores (s : State) (cl : Nat) (c : Context) (va : Nat) (l : List (Nat × Nat)) : (s.walkHold cl c va l).cores = s.cores :=
  foldl_keeps State.cores (by intros; rfl) l s

@[simp] theorem walkStart_cores (s : State) (cl : Nat) (c : Context) (va : Nat) (l : List Nat) : (s.walkStart cl c va l).1.cores = s.cores := by
  induction l generalizing s with
  | nil => rfl
  | cons k l ih =>
    unfold State.walkStart
    split
    · exact ih s
    · grind [choose_cores]

@[simp] theorem walkFrom_cores (s : State) (cl : Nat) (c : Context) (va : Nat) : (s.walkFrom cl c va).1.cores = s.cores := by
  simp [State.walkFrom]

@[simp] theorem tlbLoad_cores (s : State) (cl co : Nat) (c : Context) (va : Nat) (dirty : Bool) : (s.tlbLoad cl co c va dirty).1.cores = s.cores := by
  have h := walkFrom_cores s cl c va
  unfold State.tlbLoad
  grind [useLeaf_cores, choose_cores, tlbHold_cores]

@[simp] theorem translate_cores (s : State) (cl co : Nat) (c : Context) (va : Nat) (write : Bool) :
    (s.translate cl co c va write).1.cores = s.cores := by
  unfold State.translate
  grind [tlbLoad_cores, tlbForget_cores]

@[simp] theorem markDirty_cores (s : State) (cl co : Nat) (c : Context) (va : Nat) : (s.markDirty cl co c va).cores = s.cores := by
  simp only [State.markDirty]
  split <;> simp

@[simp] theorem checkPage_cores (s : State) (cl co : Nat) (c : Context) (u : GmUse) (va : Nat) : (s.checkPage cl co c u va).1.cores = s.cores := by
  unfold State.checkPage
  grind [translate_cores]

@[simp] theorem checkGm_cores (s : State) (cl co : Nat) (c : Context) (u : GmUse) (va n : Nat) : (s.checkGm cl co c u va n).1.cores = s.cores := by
  unfold State.checkGm
  grind [checkPage_cores, markDirty_cores]

/-! ### The integrity unit leaves the cores (R354 to R359) -/

@[simp] theorem integFailed_cores (s : State) (part : Nat) : (s.integFailed part).cores = s.cores := rfl

@[simp] theorem cacheAdd_cores (s : State) (part : Nat) (n : TreeNode) : (s.cacheAdd part n).cores = s.cores := rfl

@[simp] theorem treeSet_cores (s : State) (part : Nat) (path : List (Nat × Nat × Nat)) (k x : Nat) : (s.treeSet part path k x).cores = s.cores := rfl

@[simp] theorem holdTag_cores (s : State) (part ta line tag : Nat) : (s.holdTag part ta line tag).cores = s.cores := rfl

theorem treeFetch_cores {s s1 : State} {part : Nat} {path : List (Nat × Nat × Nat)} {ctrs : List Nat} (h : s.treeFetch part path = some (s1, ctrs)) :
    s1.cores = s.cores := by
  induction path generalizing s1 ctrs with
  | nil =>
    obtain ⟨p, -, hp⟩ := Option.map_eq_some_iff.mp h
    exact congrArg (fun r => r.1.cores) hp.symm
  | cons x up ih =>
    unfold State.treeFetch at h
    grind [cacheAdd_cores]

@[simp] theorem treeEvict_cores (s : State) (part age : Nat) : (s.treeEvict part age).cores = s.cores := by
  unfold State.treeEvict
  grind [treeFetch_cores, treeSet_cores, State.onPart_cores, State.store_cores]

@[simp] theorem trimDie_cores (s : State) (die n : Nat) : (s.trimDie die n).cores = s.cores := by
  induction n generalizing s with
  | zero => rfl
  | succ n ih =>
    unfold State.trimDie
    grind [treeEvict_cores]

@[simp] theorem treeTrim_cores (s : State) : s.treeTrim.cores = s.cores :=
  foldl_keeps State.cores (fun st die => trimDie_cores st die 64) _ s

@[simp] theorem lineRead_cores (s : State) (c : Context) (line : Nat) : (s.lineRead c line).1.cores = s.cores := by
  unfold State.lineRead
  grind [treeFetch_cores, treeTrim_cores, holdTag_cores]

theorem lineWrite_cores {s s1 : State} {c : Context} {line : Nat} {l : List Byte} (h : s.lineWrite c line l = .ok s1) : s1.cores = s.cores := by
  unfold State.lineWrite at h
  grind [treeFetch_cores, treeTrim_cores, holdTag_cores, treeSet_cores, State.storeLe_cores]

@[simp] theorem seal_cores (s : State) (c : Context) (line lo len : Nat) (l : List Byte) : (s.seal c line lo len l).1.cores = s.cores := by
  unfold State.seal
  grind [lineWrite_cores, integFailed_cores]

@[simp] theorem fillWhole_cores (s : State) (c : Context) (by_ line lo : Nat) (l : List Byte) : (s.fillWhole c by_ line lo l).1.cores = s.cores := by
  simp only [State.fillWhole]
  split <;> simp

@[simp] theorem protRead_cores (s : State) (c : Context) (a n : Nat) : (s.protRead c a n).1.cores = s.cores := by
  refine foldl_keeps (fun r : State × Option (List Byte) => r.1.cores) ?_ _ _
  grind [lineRead_cores, integFailed_cores]

@[simp] theorem protWrite_cores (s : State) (c : Context) (by_ : Nat) (whole : Nat → Bool) (a : Nat) (l : List Byte) :
    (s.protWrite c by_ whole a l).1.cores = s.cores := by
  refine foldl_keeps (fun r : State × Bool => r.1.cores) ?_ _ _
  grind [lineRead_cores, integFailed_cores, seal_cores, fillWhole_cores]

/-! ### So do the machine's own accesses to global memory (R349) -/

@[simp] theorem readPart_cores (s : State) (c : Context) (p : Part) : (s.readPart c p).1.cores = s.cores := by
  unfold State.readPart
  grind [protRead_cores]

@[simp] theorem writePart_cores (s : State) (c : Context) (p : Part) (data : List Byte) : (s.writePart c p data).cores = s.cores := by
  simp only [State.writePart]
  split <;> simp

@[simp] theorem gmRead_cores (s : State) (cl co : Nat) (c : Context) (prot : Bool) (va n : Nat) : (s.gmRead cl co c prot va n).1.cores = s.cores := by
  have hparts := fun (ps : List Part) (x : State × List (Nat × Byte × Bool)) => foldl_keeps (fun r : State × List (Nat × Byte × Bool) => r.1.cores)
    (f := fun acc p => ((acc.1.readPart c p).1, acc.2 ++ (acc.1.readPart c p).2)) (fun acc p => readPart_cores acc.1 c p) ps x
  simp only [State.gmRead]
  grind [checkGm_cores]

@[simp] theorem gmWrite_cores (s : State) (cl co : Nat) (c : Context) (prot : Bool) (va : Nat) (l : List Byte) :
    (s.gmWrite cl co c prot va l).1.cores = s.cores := by
  have hparts := fun (ps : List Part) (st : State) => foldl_keeps State.cores
    (f := fun st p => st.writePart c p l) (fun st p => writePart_cores st c p l) ps st
  unfold State.gmWrite
  grind [checkGm_cores]

/-! ### So does an entry in an error record (R345, R349) -/

@[simp] theorem releasesOutside_cores (s : State) : s.releasesOutside.cores = s.cores := rfl

@[simp] theorem ctxRd_cores (cl co : Nat) (c : Context) (s : State) (a n : Nat) : (ctxRd cl co c s a n).1.cores = s.cores := by
  unfold ctxRd
  grind [gmRead_cores]

@[simp] theorem ctxWr_cores (cl co : Nat) (c : Context) (s : State) (a : Nat) (l : List Byte) : (ctxWr cl co c s a l).1.cores = s.cores := by
  unfold ctxWr
  grind [gmWrite_cores]

theorem cores_of_fst {α : Type} {s s1 : State} {x : State × α} {r : α} (hx : x = (s1, r)) (h : x.1.cores = s.cores) : s1.cores = s.cores := by
  rwa [hx] at h

section Record
variable {rd : State → Nat → Nat → State × Option Nat} {wr : State → Nat → List Byte → State × Bool}

/-- An entry leaves the cores where the reads and writes of the record do. -/
theorem recordWrite_cores (hr : ∀ s a n, (rd s a n).1.cores = s.cores) (hw : ∀ s a l, (wr s a l).1.cores = s.cores) (base : Nat) (e : ErrEntry)
    (s : State) : (recordWrite rd wr base e s).1.cores = s.cores := by
  simp only [recordWrite]
  split
  · next hrd => exact cores_of_fst hrd (hr ..)
  · next s1 h hrd =>
    have h1 : s1.cores = s.cores := cores_of_fst hrd (hr ..)
    split
    · simp only [hw, h1]
    · split
      · next s2 hwr => exact cores_of_fst hwr (by rw [hw, h1])
      · next s2 hwr =>
        have h2 : s2.cores = s.cores := cores_of_fst hwr (by rw [hw, h1])
        split <;> simp only [releasesOutside_cores, hw, h2]

theorem recordOvf_cores (hr : ∀ s a n, (rd s a n).1.cores = s.cores) (hw : ∀ s a l, (wr s a l).1.cores = s.cores) (base : Nat) (s : State) :
    (recordOvf rd wr base s).cores = s.cores := by
  unfold recordOvf
  grind

end Record

@[simp] theorem writeLog_cores (s : State) (cl co : Nat) (c : Context) (e : ErrEntry) : (s.writeLog cl co c e).cores = s.cores := by
  have h := recordWrite_cores (ctxRd_cores cl co c) (ctxWr_cores cl co c) c.errrec.toNat e s
  simp only [State.writeLog]
  split <;> simpa using h

@[simp] theorem setOvf_cores (s : State) (cl co : Nat) (c : Context) : (s.setOvf cl co c).cores = s.cores :=
  recordOvf_cores (ctxRd_cores cl co c) (ctxWr_cores cl co c) _ s

@[simp] theorem logUndelivered_cores (s : State) (cl co ctx : Nat) (e : ErrEntry) (ovf : Bool) : (s.logUndelivered cl co ctx e ovf).cores = s.cores := by
  unfold State.logUndelivered
  split
  · rfl
  · split
    · rfl
    · dsimp only
      split <;> simp

/-! ### REFORM (R38, R90, R346) -/

theorem core_of_cores {s u : State} (h : u.cores = s.cores) (cl co : Nat) : u.core cl co = s.core cl co := by
  simp only [State.core, State.core?, h]

/-- A changed core is found in the place of the core that it was. -/
theorem core_setCore_placed {s u : State} {cl co : Nat} {c : Core} (h : c.cl = (s.core cl co).cl) (h' : c.co = (s.core cl co).co) :
    (u.setCore c).core cl co = c :=
  core_setCore_same u c (h.trans (core_cl_co s cl co).1) (h'.trans (core_cl_co s cl co).2)

/-- The removal of a group whose threads have all left, and what it is recorded as, leave the core's threads. -/
theorem groupGone_threads (s : State) (cl co gs : Nat) : ((s.groupGone cl co gs).core cl co).threads = (s.core cl co).threads := by
  simp only [State.groupGone]
  split
  · rfl
  · split
    · rfl
    · split
      · simp [State.onGroup, Core.onGroup]
      · split
        · rfl
        · split
          · rw [core_of_cores (logUndelivered_cores ..), core_setCore_placed (s := s) (by rfl) (by rfl)]
          · rw [core_setCore_placed (s := s) (by rfl) (by rfl)]

/-- A thread past its REFORM: in no group, with its move on still to make. -/
def Thread.reformed (t : Thread) : Thread := { t with gslot := none, demoted := false, waitSet := [], act := .move .complete }

/-- A core of which a thread has made its REFORM. -/
def Core.reformed (c : Core) (t : Thread) : Core :=
  { c.leaveGroup t with threads := (c.leaveGroup t).threads.filter (fun x => x.tid != t.tid) ++ [t.reformed] }

theorem reformed_cl_co (c : Core) (t : Thread) : (c.reformed t).cl = c.cl ∧ (c.reformed t).co = c.co := by
  simp only [Core.reformed, Core.leaveGroup]
  split <;> exact ⟨rfl, rfl⟩

theorem thread?_reformed (c : Core) (t : Thread) : (c.reformed t).thread? t.tid = some t.reformed := by
  have h : ((c.leaveGroup t).threads.filter (fun x => x.tid != t.tid)).find? (fun x => x.tid == t.tid) = none :=
    thread?_removed (c.leaveGroup t) t.tid
  rw [Core.thread?, Core.reformed, List.find?_append, h]
  simp [Thread.reformed]

theorem exec_reform {s : State} {cl co tid : Nat} {t : Thread} (ht : (s.core cl co).thread? tid = some t)
    (hf : s.freeToGo (s.core cl co) t .reform = true) :
    exec (.reform cl co tid) s = .next ((s.setCore ((s.core cl co).reformed t)).groupGone cl co (t.gslot.getD 64)) := by
  show execReform cl co tid s = _
  obtain rfl := tid_of_thread? ht
  simp [execReform, ht, hf, Core.reformed, Thread.reformed]

/-! ### A safe point (R38, R99 to R101) -/

/-- A thread put in the place of another of its number is found there. -/
theorem thread?_setThread {c : Core} {t t' : Thread} (h : c.thread? t.tid = some t') : (c.setThread t).thread? t.tid = some t := by
  have e : ((fun x : Thread => x.tid == t.tid) ∘ fun x => if x.tid == t.tid then t else x) = fun x => x.tid == t.tid := by
    funext x
    by_cases hx : x.tid = t.tid <;> simp [hx]
  have ht' := tid_of_thread? h
  simp only [Core.thread?, Core.setThread, mapIf, List.find?_map, e] at h ⊢
  simp [h, ht']

/-- Where a launch has a thread's record (R100). -/
def Launch.recordOf (l : Launch) (t : Thread) : DWord := l.ra + BitVec.ofNat 64 (576 * t.stackNo)

theorem act_of_freeToGo {s : State} {c : Core} {t : Thread} {a : Act} (h : s.freeToGo c t a = true) : t.act = a := by
  simp only [State.freeToGo, Bool.and_eq_true, beq_iff_eq] at h
  obtain ⟨⟨ha, -⟩, -⟩ := h
  exact ha

section SafePoint
variable {s : State} {cl co tid : Nat} {t : Thread}

/-- While no save is requested the thread passes. -/
theorem exec_safeArrival_passes (ht : (s.core cl co).thread? tid = some t) (hf : s.freeToGo (s.core cl co) t .safe = true)
    (hp : t.pagerFault = none) (hs : (s.core cl co).saving = false) :
    exec (.safeArrival cl co tid) s = .next (s.setCore ((s.core cl co).setThread { t with act := .move .complete })) := by
  show execSafeArrival cl co tid s = _
  simp [execSafeArrival, ht, hf, hp, Core.overlays, hs]

/-- While one is, the thread is saved by the procedure of its safe point. -/
theorem exec_safeArrival_saves {e : SafePoint} {l : Launch} (ht : (s.core cl co).thread? tid = some t)
    (hf : s.freeToGo (s.core cl co) t .safe = true) (hp : t.pagerFault = none) (hs : (s.core cl co).saving = true)
    (hn : s.safeNode t = .ok (some e)) (hl : s.launch? t.launch = some l) :
    exec (.safeArrival cl co tid) s = .next (s.saveThread cl co l t e) := by
  show execSafeArrival cl co tid s = _
  simp [execSafeArrival, ht, hf, hp, Core.overlays, hs, act_of_freeToGo hf, hn, hl]

/-- A thread with no chunks of callers to write is overlaid once its record's header is written. -/
theorem saveThread_overlays {s1 : State} {e : SafePoint} {l : Launch} (hc : s.callerChunks t = [])
    (hw : s.gmWrite cl co (s.ctxOf l.ctx) (s.ctxOf l.ctx).prot (l.recordOf t).toNat (recordHeader t (s.frameOf t) e) = (s1, .ok ())) :
    s.saveThread cl co l t e = s1.setCore ((s1.core cl co).setThread (overlayThread t e (l.recordOf t))) := by
  have hrec : BitVec.ofNat 64 (l.ra.toNat + 576 * t.stackNo) = l.recordOf t := by
    rw [Launch.recordOf, BitVec.ofNat_add, BitVec.ofNat_toNat, BitVec.setWidth_eq]
  simp only [State.saveThread, hc, State.writeChunks, hrec, hw]

end SafePoint

end Sys2Proof.Machine

namespace Sys2Proof.Proofs
open Sys2Proof Sys2Proof.Machine Sys2Proof.Claims

/-- REFORM takes its thread out of its group, to be filed by the position that follows (R38, R90). -/
theorem reform_leaves {s : State} {cl co tid : Nat} {t : Thread} (ht : (s.core cl co).thread? tid = some t)
    (hf : s.freeToGo (s.core cl co) t .reform = true) :
    Then (.reform cl co tid) s (fun u => Has u cl co tid (fun x =>
      x.gslot = none ∧ x.act = .move .complete ∧ x.path = t.path ∧ x.stk = t.stk ∧ x.preds = t.preds)) := by
  obtain rfl := tid_of_thread? ht
  obtain ⟨hcl, hco⟩ := reformed_cl_co (s.core cl co) t
  refine ⟨_, exec_reform ht hf, t.reformed, ?_, rfl, rfl, rfl, rfl, rfl⟩
  rw [State.thread?, Core.thread?, groupGone_threads, core_setCore_placed hcl hco]
  exact thread?_reformed _ t

/-- A thread at a safe point runs the save procedure once its record's header is written (R99 to R101). -/
theorem safeArrival_overlays {s s1 : State} {cl co tid : Nat} {t : Thread} {e : SafePoint} {l : Launch}
    (ht : (s.core cl co).thread? tid = some t) (hf : s.freeToGo (s.core cl co) t .safe = true) (hp : t.pagerFault = none)
    (hs : (s.core cl co).saving = true) (hn : s.safeNode t = .ok (some e)) (hl : s.launch? t.launch = some l) (hc : s.callerChunks t = [])
    (hw : s.gmWrite cl co (s.ctxOf l.ctx) (s.ctxOf l.ctx).prot (l.recordOf t).toNat (recordHeader t (s.frameOf t) e) = (s1, .ok ())) :
    Then (.safeArrival cl co tid) s (fun u => u.mem = s1.mem ∧ (Has s1 cl co tid (fun _ => True) →
      Has u cl co tid (· = overlayThread t e (l.recordOf t)))) := by
  refine ⟨_, (exec_safeArrival_saves ht hf hp hs hn hl).trans (congrArg _ (saveThread_overlays hc hw)), rfl, ?_⟩
  rintro ⟨t', ht', -⟩
  obtain rfl := tid_of_thread? ht
  refine ⟨_, ?_, rfl⟩
  rw [State.thread?, core_setCore_placed (Core.setThread_cl ..) (Core.setThread_co ..)]
  exact thread?_setThread ht'

/-- Settles O30, by REFORM and the two outcomes of a safe point, each under its own name above. -/
theorem reformAndSafePoints : Obligations.ReformAndSafePoints := by
  intro s cl co tid t c ht
  refine ⟨reform_leaves ht, exec_safeArrival_passes ht, fun e l s1 ps hf hp hs hn hl hc _ hw => ?_⟩
  obtain ⟨u, hu, hmem, hthread⟩ := safeArrival_overlays ht hf hp hs hn hl hc hw
  refine ⟨u, hu, hmem, fun h => ?_⟩
  obtain ⟨x, hx, rfl⟩ := hthread h
  exact ⟨_, hx, by rw [overlayThread, Launch.recordOf, BitVec.ofNat_toNat, BitVec.setWidth_eq], rfl, rfl, rfl, rfl, rfl⟩

end Sys2Proof.Proofs

/-! PROOFS. How commands and cell waits end: counting in a cell, the tiles that an abort leaves, and the front that goes on (R63, R155, R156, R158,
R183, R281). -/

namespace Sys2Proof.Machine

/-! ### Numbers and rows in memory (R178, R262) -/

@[simp] theorem leBytes_length (k n : Nat) : (leBytes k n).length = k := by
  induction k generalizing n with
  | zero => rfl
  | succ k ih => simp [leBytes, ih]

theorem leNat_leBytes (k n : Nat) : leNat (leBytes k n) = n % 256 ^ k := by
  induction k generalizing n with
  | zero => simp [leBytes, leNat, Nat.mod_one]
  | succ k ih => simp [leBytes, leNat, ih, Nat.pow_succ', Nat.mod_mul]

theorem Memory.readBytes_congr {m m' : Memory} {a n : Nat} (h : ∀ i < n, m.read (a + i) = m'.read (a + i)) : m.readBytes a n = m'.readBytes a n := by
  induction n generalizing a with
  | zero => rfl
  | succ n ih =>
    have htail : m.readBytes (a + 1) n = m'.readBytes (a + 1) n := ih (fun i hi => by
      simpa [Nat.add_assoc, Nat.add_comm 1] using h (i + 1) (by omega))
    simp only [Memory.readBytes, htail, List.cons.injEq, and_true]
    exact h 0 (by omega)

/-- Bytes that do not meet the bytes written read as before. -/
theorem Memory.readBytes_writeBytes_outside (m : Memory) (a : Nat) (l : List Byte) (x n : Nat) (h : x + n ≤ a ∨ a + l.length ≤ x) :
    (m.writeBytes a l).readBytes x n = m.readBytes x n :=
  Memory.readBytes_congr (fun i _ => Memory.read_writeBytes_outside m a l (x + i) (by omega))

/-- Bytes among the bytes written read what was written. -/
theorem Memory.readBytes_writeBytes_inside (m : Memory) (a : Nat) (l : List Byte) {o n : Nat} (h : o + n ≤ l.length) :
    (m.writeBytes a l).readBytes (a + o) n = (l.drop o).take n := by
  induction n generalizing o with
  | zero => simp [Memory.readBytes]
  | succ n ih =>
    have hlt : o < l.length := by omega
    rw [Memory.readBytes, Memory.read_writeBytes_inside m a l o hlt, Nat.add_assoc, ih (by omega), List.drop_eq_getElem_cons hlt, List.take_succ_cons]
    simp [hlt]

/-- A list of numbers in memory, from its number j on. -/
theorem drop_flatMap_leBytes (k : Nat) (l : List Nat) (j : Nat) : (l.flatMap (leBytes k)).drop (k * j) = (l.drop j).flatMap (leBytes k) := by
  induction j generalizing l with
  | zero => simp
  | succ j ih =>
    cases l with
    | nil => simp
    | cons x l => rw [List.flatMap_cons, Nat.mul_succ, Nat.add_comm, ← List.drop_drop, List.drop_left' (leBytes_length k x), ih, List.drop_succ_cons]

theorem length_flatMap_leBytes (k : Nat) (l : List Nat) : (l.flatMap (leBytes k)).length = k * l.length := by
  induction l with
  | nil => rfl
  | cons x l ih => rw [List.flatMap_cons, List.length_append, leBytes_length, ih, List.length_cons, Nat.mul_succ, Nat.add_comm]

/-- A number of a list that was written reads as it, but for what its bytes do not hold. -/
theorem readLe_writeBytes_flatMap (m : Memory) (a k : Nat) {l : List Nat} {j : Nat} (h : j < l.length) :
    (m.writeBytes a (l.flatMap (leBytes k))).readLe (a + k * j) k = l[j] % 256 ^ k := by
  have hin : k * j + k ≤ (l.flatMap (leBytes k)).length := by
    rw [length_flatMap_leBytes, ← Nat.mul_succ]
    exact Nat.mul_le_mul_left k h
  rw [Memory.readLe, Memory.readBytes_writeBytes_inside _ _ _ hin, drop_flatMap_leBytes, List.drop_eq_getElem_cons h, List.flatMap_cons,
    List.take_left' (leBytes_length k _), leNat_leBytes]

/-! ### What an abort leaves in a tile (R183) -/

theorem tileAt_of_mem {s u : State} (h : u.mem = s.mem) (cl co a i j : Nat) : u.tileAt cl co a i j = s.tileAt cl co a i j := by
  simp only [State.tileAt, h]

/-- A row of a tile reads as it was written. -/
theorem tileAt_setTileRow_same (s : State) (cl co a i : Nat) {row : List Nat} {j : Nat} (h : j < row.length) :
    (s.setTileRow cl co a i row).tileAt cl co a i j = row[j] % 2 ^ 32 :=
  readLe_writeBytes_flatMap s.mem (tileRow cl co a i) 4 h

/-- Any other row of the tile is as before. -/
theorem tileAt_setTileRow_other (s : State) (cl co a : Nat) {i i' : Nat} {row : List Nat} {j : Nat} (hrow : row.length = 128) (hj : j < 128)
    (h : i' ≠ i) : (s.setTileRow cl co a i row).tileAt cl co a i' j = s.tileAt cl co a i' j := by
  have hlen := length_flatMap_leBytes 4 row
  refine congrArg leNat (Memory.readBytes_writeBytes_outside s.mem (tileRow cl co a i) _ _ 4 ?_)
  simp only [tileRow]
  omega

/-- Rows of a tile written with NaN read as NaN. -/
theorem tileAt_nanRows (s : State) (cl co ad n : Nat) {i j : Nat} (hi : i < n) (hj : j < 128) :
    ((List.range n).foldl (fun st i => st.setTileRow cl co ad i (List.replicate 128 0x7FC00000)) s).tileAt cl co ad i j = 0x7FC00000 := by
  induction n with
  | zero => omega
  | succ n ih =>
    rw [List.range_succ, List.foldl_append, List.foldl_cons, List.foldl_nil]
    by_cases h : i = n
    · have hrow : j < (List.replicate 128 0x7FC00000).length := List.length_replicate.symm ▸ hj
      have hnan : (List.replicate 128 0x7FC00000)[j] % 2 ^ 32 = 0x7FC00000 :=
        (congrArg (· % 2 ^ 32) (List.getElem_replicate hrow)).trans (Nat.mod_eq_of_lt (by decide))
      exact h ▸ (tileAt_setTileRow_same _ cl co ad i hrow).trans hnan
    · rw [tileAt_setTileRow_other _ _ _ _ List.length_replicate hj h]
      exact ih (by omega)

theorem tileAt_nanTile (s : State) (cl co ad : Nat) {i j : Nat} (hi : i < 128) (hj : j < 128) :
    (s.nanTile cl co ad).tileAt cl co ad i j = 0x7FC00000 :=
  tileAt_nanRows s cl co ad 128 hi hj

@[simp] theorem setTileRow_cores (s : State) (cl co a i : Nat) (row : List Nat) : (s.setTileRow cl co a i row).cores = s.cores := rfl

@[simp] theorem nanTile_cores (s : State) (cl co ad : Nat) : (s.nanTile cl co ad).cores = s.cores :=
  foldl_keeps State.cores (fun st i => setTileRow_cores st cl co ad i _) _ s

@[simp] theorem abortTiles_cores (s : State) (m : Cmd) : (s.abortTiles m).cores = s.cores := by
  unfold State.abortTiles
  split
  · dsimp only
    split <;> simp
  · exact nanTile_cores ..
  · rfl

/-! ### An abort that no cell reports (R341) -/

@[simp] theorem logCtx_cores (s : State) (cl co ctx : Nat) (e : ErrEntry) : (s.logCtx cl co ctx e).cores = s.cores := by
  unfold State.logCtx
  split
  · rfl
  · split
    · rfl
    · exact writeLog_cores ..

@[simp] theorem noteAbort_cores (s : State) (m : Cmd) (dests : List DestPart) (apart : Bool) (code addr : Nat) :
    (s.noteAbort m dests apart code addr).cores = s.cores := by
  unfold State.noteAbort
  split
  · rfl
  · exact logCtx_cores ..

theorem unseen_of_cores {s u : State} (h : u.cores = s.cores) (cl co gen epoch n code : Nat) :
    u.unseen cl co gen epoch n code = s.unseen cl co gen epoch n code := by
  simp only [State.unseen, core_of_cores h]

/-- Whether a cell reports an abort is a matter of the cores alone. -/
theorem unobserved_of_cores {s u : State} (h : u.cores = s.cores) (m : Cmd) (dests : List DestPart) (apart : Bool) (code : Nat) :
    u.unobserved m dests apart code = s.unobserved m dests apart code := by
  simp only [State.unobserved, unseen_of_cores h]

/-- An abort that a cell reports leaves no entry. -/
theorem noteAbort_observed {s : State} {m : Cmd} {dests : List DestPart} {apart : Bool} {code : Nat} (addr : Nat)
    (h : s.unobserved m dests apart code = none) : s.noteAbort m dests apart code addr = s := by
  simp only [State.noteAbort, h]

/-! ### Counting in the issuer's cell (R155, R156, R158) -/

@[simp] theorem cell_onCell (c : Core) (n : Nat) (f : CCell → CCell) : (c.onCell n f).cell n = f (c.cell n) :=
  assocGet_set_self ..

theorem count_of_lt {x : CCell} (h : x.done < 65535) : x.count = { x with done := x.done + 1 } :=
  if_neg (by omega)

/-- What an abort makes of the cell that it counts in. -/
theorem aborted_cell {x : CCell} (code owed : Nat) (h : x.done < 65535) :
    ((x.setErr code).less owed).count = { x with done := x.done + 1, err := if x.err = 0 then code else x.err, pend := x.pend - owed } := by
  by_cases he : x.err = 0
  · simp only [CCell.setErr, he, if_true]
    exact count_of_lt (x := { x with err := code }.less owed) h
  · simp only [CCell.setErr, he, if_false]
    exact count_of_lt (x := x.less owed) h

@[simp] theorem onIssuer_mem (s : State) (m : Cmd) (f : CCell → CCell) : (s.onIssuer m f).mem = s.mem := by
  unfold State.onIssuer
  split
  · rfl
  · dsimp only
    split <;> rfl

@[simp] theorem dropCmd_mem (s : State) (id : Nat) : (s.dropCmd id).mem = s.mem := rfl

@[simp] theorem cmd?_dropCmd (s : State) (id : Nat) : (s.dropCmd id).cmd? id = none := by
  simp [State.cmd?, State.dropCmd, List.find?_eq_none]

/-- An abort that no destination waits for: its tiles, its entry, its count in the issuer's cell. -/
theorem abortCmd_of_dests_nil {s : State} {m : Cmd} (h : m.dests = []) (code addr : Nat) :
    s.abortCmd m code addr =
      ((s.noteAbort m [] m.apart code addr).onIssuer m (fun x => ((x.setErr code).less m.owed).count)).dropCmd m.id := by
  simp [State.abortCmd, h]

theorem exec_commandFinish {s : State} {m : Cmd} (hm : s.cmd? m.id = some m) (hr : s.finishReady m = true) :
    exec (.commandFinish m.id) s = .next ((s.onIssuer m (fun x => (x.less m.owed).count)).dropCmd m.id) := by
  show execCommandFinish m.id s = _
  simp [execCommandFinish, hm, hr]

theorem exec_commandAbort {s : State} {m : Cmd} {code : Nat} {addr : DWord} (hm : s.cmd? m.id = some m) (he : m.err = some (code, addr))
    (hr : s.abortReady m = true) : exec (.commandAbort m.id) s = .next ((s.abortTiles m).abortCmd m code addr.toNat) := by
  show execCommandAbort m.id s = _
  simp [execCommandAbort, hm, he, hr]

/-! ### The end of a wait for a cell (R63, R158) -/

/-- A group of which a front goes on: it, and every front of the same threads, waits for nothing. -/
def Group.freed (g : Group) (f : Front) : Group :=
  { g with fronts := g.fronts.map (fun h => if h.tslots == f.tslots then { h with wait := none } else h) }

theorem wait_of_mem_freed {g : Group} {f f' : Front} (h : f' ∈ (g.freed f).fronts) (e : f'.tslots = f.tslots) : f'.wait = none := by
  obtain ⟨x, -, rfl⟩ := List.mem_map.mp h
  by_cases hx : x.tslots = f.tslots
  · simp [hx]
  · simp [hx] at e

/-- What threads have met in their wait sets changes threads only (R67). -/
theorem foldl_waitMet (gs : Nat) (l : List Nat) (c : Core) : ∃ ts, l.foldl (fun k x => k.waitMet gs x) c = { c with threads := ts } := by
  induction l generalizing c with
  | nil => exact ⟨c.threads, rfl⟩
  | cons x l ih =>
    obtain ⟨ts, h⟩ := ih (c.waitMet gs x)
    exact ⟨ts, h⟩

/-- The end of a wait that is not for a barrier frees the front in its group, and otherwise changes threads of the core only. -/
theorem endWait_eq {s : State} {cl co gs : Nat} {g : Group} {f : Front} (hw : ∀ lev who, f.wait ≠ some (.bar lev who))
    (hg : (s.core cl co).group? gs = some g) :
    ∃ ts, s.endWait cl co gs f = s.setCore { (s.core cl co).setGroup (g.freed f) with threads := ts } := by
  simp only [State.endWait, hg]
  exact (foldl_waitMet gs _ _).imp (fun ts h => congrArg s.setCore h)

/-- A wait for a cell that is over, with what its end makes of the core: the front is freed in its group, and no cell and no memory changes
beside that. -/
theorem cellWaitOver_frees {s : State} {cl co gs fi : Nat} {g g' : Group} {f : Front} {k : Core → Core}
    (hg : (s.core cl co).group? gs = some g) (hf : g.fronts[fi]? = some f) (hw : ∀ lev who, f.wait ≠ some (.bar lev who))
    (hcl : (k (s.core cl co)).cl = (s.core cl co).cl) (hco : (k (s.core cl co)).co = (s.core cl co).co)
    (hk : (k (s.core cl co)).group? gs = some g') :
    (s.cellWaitOver cl co gs fi k).mem = s.mem ∧ ((s.cellWaitOver cl co gs fi k).core cl co).cells = (k (s.core cl co)).cells ∧
      ((s.cellWaitOver cl co gs fi k).core cl co).group? gs = some (g'.freed f) := by
  have hcore := core_onCore s cl co k hcl hco
  obtain ⟨ts, h⟩ := endWait_eq hw (hcore.symm ▸ hk)
  have hover : s.cellWaitOver cl co gs fi k = (s.onCore cl co k).endWait cl co gs f := by simp only [State.cellWaitOver, hg, hf]
  have hgs : (g'.freed f).slot = gs := (slot_of_group? hk : g'.slot = gs)
  have hput := group?_setGroup (c := k (s.core cl co)) (g := g'.freed f) (g' := g') (hgs.symm ▸ hk)
  rw [hover, h, hcore, core_setCore_placed (s := s) (by exact hcl) (by exact hco)]
  exact ⟨rfl, rfl, hgs ▸ hput⟩

section CellWait
variable {s : State} {cl co gs fi : Nat} {g : Group} {f : Front}

theorem exec_cwaitReturn {q n : Nat} (hg : (s.core cl co).group? gs = some g) (hf : g.fronts[fi]? = some f) (hw : f.wait = some (.cwait q n))
    (hj : s.joined (s.core cl co) n = true) :
    exec (.cwaitReturn cl co gs fi) s = .next (s.cellWaitOver cl co gs fi (fun c => c.cwaitDone gs q n)) := by
  show execCwaitReturn cl co gs fi s = _
  simp [execCwaitReturn, hg, hf, hw, hj]

theorem exec_cacqTake {k n : Nat} (hg : (s.core cl co).group? gs = some g) (hf : g.fronts[fi]? = some f) (hw : f.wait = some (.cacq k n))
    (hn : n ≤ ((s.core cl co).cell k).done) :
    exec (.cacqTake cl co gs fi) s = .next (s.cellWaitOver cl co gs fi (fun c => c.onCell k (fun x => { x with done := x.done - n }))) := by
  show execCacqTake cl co gs fi s = _
  simp [execCacqTake, hg, hf, hw, hn]

end CellWait

end Sys2Proof.Machine

namespace Sys2Proof.Proofs
open Sys2Proof Sys2Proof.Machine Sys2Proof.Claims

/-- A command counts where it counted before, while the cores are as they were. -/
theorem counts_of_cores {s u : State} {m : Cmd} {k : Nat} (h : u.cores = s.cores) (hc : Counts s m k) : Counts u m k := by
  obtain ⟨hcell, hgen, hepoch⟩ := hc
  exact ⟨hcell, by rw [core_of_cores h, hgen], by rw [core_of_cores h, hepoch]⟩

/-- A count of a command that counts in its own core's cell reaches that cell, and changes its core only. -/
theorem onIssuer_of_counts {s : State} {m : Cmd} {k : Nat} (h : Counts s m k) (f : CCell → CCell) :
    s.onIssuer m f = s.setCore ((s.core m.cl m.co).onCell k f) := by
  simp [State.onIssuer, h.cell, h.gen, h.epoch]

/-- So the cell reads as the count made it, once the command is gone too. -/
theorem cellIn_ended {s : State} {m : Cmd} {k : Nat} (h : Counts s m k) (f : CCell → CCell) :
    cellIn ((s.onIssuer m f).dropCmd m.id) m k = f (cellIn s m k) := by
  have hcore : (s.setCore ((s.core m.cl m.co).onCell k f)).core m.cl m.co = (s.core m.cl m.co).onCell k f :=
    core_setCore_placed rfl rfl
  rw [onIssuer_of_counts h]
  exact (congrArg (fun c => c.cell k) hcore).trans (cell_onCell ..)

/-- A command whose elements have all landed counts in DONE and is gone (R155). -/
theorem commandFinish_counts {s : State} {m : Cmd} {k : Nat} (hm : s.cmd? m.id = some m) (hc : Counts s m k) (hd : (cellIn s m k).done < 65535)
    (hr : s.finishReady m = true) :
    Then (.commandFinish m.id) s (fun u => u.mem = s.mem ∧ u.cmd? m.id = none ∧
      cellIn u m k = { cellIn s m k with done := (cellIn s m k).done + 1, pend := (cellIn s m k).pend - m.owed }) := by
  refine ⟨_, exec_commandFinish hm hr, by simp, cmd?_dropCmd .., ?_⟩
  rw [cellIn_ended hc]
  exact count_of_lt (x := (cellIn s m k).less m.owed) hd

/-- An aborting command gives its code, takes what is owed, counts and is gone; an aborted load leaves NaN (R156, R183). -/
theorem commandAbort_counts {s : State} {m : Cmd} {k code : Nat} {addr : DWord} (hm : s.cmd? m.id = some m) (hc : Counts s m k)
    (hd : (cellIn s m k).done < 65535) (he : m.err = some (code, addr)) (hr : s.abortReady m = true) (hdests : m.dests = []) :
    Then (.commandAbort m.id) s (fun u => u.cmd? m.id = none ∧
      cellIn u m k = { cellIn s m k with
        done := (cellIn s m k).done + 1, err := if (cellIn s m k).err = 0 then code else (cellIn s m k).err, pend := (cellIn s m k).pend - m.owed } ∧
      (∀ spc base ad, m.kind = .accLd spc base ad → s.unobserved m [] m.apart code = none →
        ∀ i < 128, ∀ j < 128, u.tileAt m.cl m.co ad i j = 0x7FC00000)) := by
  have hcores : ((s.abortTiles m).noteAbort m [] m.apart code addr.toNat).cores = s.cores := by simp
  have hcounts := counts_of_cores hcores hc
  have hexec := exec_commandAbort hm he hr
  rw [abortCmd_of_dests_nil hdests] at hexec
  refine ⟨_, hexec, cmd?_dropCmd .., ?_, ?_⟩
  · have hcell : cellIn ((s.abortTiles m).noteAbort m [] m.apart code addr.toNat) m k = cellIn s m k :=
      congrArg (fun c => c.cell k) (core_of_cores hcores m.cl m.co)
    rw [cellIn_ended hcounts, hcell]
    exact aborted_cell code m.owed hd
  · intro spc base ad hkind hobs i hi j hj
    have hnote := noteAbort_observed addr.toNat ((unobserved_of_cores (abortTiles_cores s m) m [] m.apart code).trans hobs)
    have htiles : s.abortTiles m = s.nanTile m.cl m.co ad := by simp only [State.abortTiles, hkind]
    rw [hnote, htiles, tileAt_of_mem (s := s.nanTile m.cl m.co ad) (by simp)]
    exact tileAt_nanTile s m.cl m.co ad hi hj

section CellWait
variable {s : State} {cl co gs fi : Nat} {g : Group} {f : Front}

/-- cwait's end gives qd the truth of ERR = 0 (R158). -/
theorem cwaitReturn_frees {q n : Nat} (hg : (s.core cl co).group? gs = some g) (hf : g.fronts[fi]? = some f) (hw : f.wait = some (.cwait q n))
    (hp : ((s.core cl co).cell n).pend = 0) (he : s.earlyIn (s.core cl co) n = false) :
    Then (.cwaitReturn cl co gs fi) s (fun u => u.mem = s.mem ∧
      (∃ h, (u.core cl co).group? gs = some h ∧ ∀ f' ∈ h.fronts, f'.tslots = f.tslots → f'.wait = none) ∧
      (u.core cl co).cells = (s.core cl co).cells ∧
      ∃ h, (u.core cl co).group? gs = some h ∧ h.qReg q = ⟨decide (((s.core cl co).cell n).err = 0), false⟩) := by
  have hj : s.joined (s.core cl co) n = true := by simp [State.joined, hp, he]
  have hq : ((s.core cl co).cwaitDone gs q n).group? gs = some (g.setQ q (decide (((s.core cl co).cell n).err = 0))) := by
    have h := group?_onGroup (s.core cl co) gs (f := fun x => x.setQ q (decide (((s.core cl co).cell n).err = 0))) (fun _ => rfl)
    rw [hg] at h
    exact h
  obtain ⟨hmem, hcells, hgroup⟩ := cellWaitOver_frees (k := fun c => c.cwaitDone gs q n) hg hf (by simp [hw]) rfl rfl hq
  exact ⟨_, exec_cwaitReturn hg hf hw hj, hmem, ⟨_, hgroup, fun f' => wait_of_mem_freed⟩, hcells, _, hgroup, assocGet_set_self ..⟩

/-- cacq's end takes its count from DONE (R158, R281). -/
theorem cacqTake_frees {k n : Nat} (hg : (s.core cl co).group? gs = some g) (hf : g.fronts[fi]? = some f) (hw : f.wait = some (.cacq k n))
    (hn : n ≤ ((s.core cl co).cell k).done) :
    Then (.cacqTake cl co gs fi) s (fun u => u.mem = s.mem ∧
      (∃ h, (u.core cl co).group? gs = some h ∧ ∀ f' ∈ h.fronts, f'.tslots = f.tslots → f'.wait = none) ∧
      (u.core cl co).cell k = { (s.core cl co).cell k with done := ((s.core cl co).cell k).done - n }) := by
  obtain ⟨hmem, hcells, hgroup⟩ :=
    cellWaitOver_frees (k := fun c => c.onCell k (fun x => { x with done := x.done - n })) hg hf (by simp [hw]) rfl rfl hg
  refine ⟨_, exec_cacqTake hg hf hw hn, hmem, ⟨_, hgroup, fun f' => wait_of_mem_freed⟩, ?_⟩
  rw [Core.cell, hcells]
  exact cell_onCell ..

end CellWait

/-- Settles O37, by the two ends of a command and the two ends of a wait, each under its own name above. -/
theorem commandsEnd : Obligations.CommandsEnd := by
  refine ⟨?_, ?_⟩
  · intro s m k hm hc y hd
    exact ⟨commandFinish_counts hm hc hd, fun code addr => commandAbort_counts hm hc hd⟩
  · intro s cl co gs fi g f c hg hf Free
    exact ⟨fun q n => cwaitReturn_frees hg hf, fun k n => cacqTake_frees hg hf⟩

end Sys2Proof.Proofs

/-! PROOFS. What a long operation that may land makes of its thread and its group, and a state in which one may not (R35, R60, R65). -/

namespace Sys2Proof.Machine

/-! ### Writing the words of a long operation (R65) -/

/-- What a place that a long operation may name holds: a stack word of the thread, or a register of the group. -/
def Dest.read (t : Thread) (g : Group) : Dest → PWord
  | .v w => assocGet ⟨0, false⟩ t.stk w
  | .g n => g.gReg n

/-- The thread and the group that a long operation names stand on the core. -/
def LongOp.On (l : LongOp) (c : Core) (t : Thread) (g : Group) : Prop := c.thread? l.tid = some t ∧ c.group? l.gslot = some g

/-- What lands of a long operation: the core is the same, the threads and groups of the operation stand on it still, and each place read as
given. -/
structure LongOp.Lands (l : LongOp) (c c' : Core) (p : Thread → Group → Prop) : Prop where
  cl : c'.cl = c.cl
  co : c'.co = c.co
  reads : ∃ t g, l.On c' t g ∧ p t g

section LandWord
variable {l : LongOp} {c : Core} {t : Thread} {g : Group}

/-- One landed word is in its place, and every other place is as before. -/
theorem landWord_lands (h : l.On c t g) (d : Dest) (x : PWord) :
    l.Lands c (landWord c l d x) (fun t' g' => d.read t' g' = x ∧ ∀ e, e ≠ d → e.read t' g' = e.read t g) := by
  obtain ⟨ht, hg⟩ := h
  cases d with
  | v w =>
    have ht' : (landWord c l (.v w) x).thread? l.tid = some (t.setStk w x) := by
      have e := thread?_onThread c l.tid (f := fun u => u.setStk w x) (fun _ => rfl)
      rw [ht] at e
      exact e
    refine ⟨rfl, rfl, t.setStk w x, g, ⟨ht', hg⟩, assocGet_set_self .., fun e he => ?_⟩
    cases e with
    | v n => exact assocGet_set_other _ _ _ (fun hn => he (congrArg Dest.v hn))
    | g n => rfl
  | g w =>
    have hg' : (landWord c l (.g w) x).group? l.gslot = some (g.setGP w x) := by
      have e := group?_onGroup c l.gslot (f := fun u => u.setGP w x) (fun _ => rfl)
      rw [hg] at e
      exact e
    refine ⟨rfl, rfl, t, g.setGP w x, ⟨ht, hg'⟩, assocGet_set_self .., fun e he => ?_⟩
    cases e with
    | v n => rfl
    | g n => exact assocGet_set_other _ _ _ (fun hn => he (congrArg Dest.g hn))

/-- Words landed in places that differ are each in its place, and a place not named is as before. -/
theorem landWords_lands {ds : List Dest} (hnd : ds.Nodup) (xs : List PWord) (h : l.On c t g) :
    l.Lands c ((ds.zip xs).foldl (fun k (d, x) => landWord k l d x) c) (fun t' g' =>
      (∀ (j : Nat) d x, ds[j]? = some d → xs[j]? = some x → d.read t' g' = x) ∧ ∀ e, e ∉ ds → e.read t' g' = e.read t g) := by
  induction ds generalizing xs c t g with
  | nil => exact ⟨rfl, rfl, t, g, h, by simp, fun _ _ => rfl⟩
  | cons d ds ih =>
    obtain ⟨hd, hnd⟩ := List.nodup_cons.mp hnd
    cases xs with
    | nil => exact ⟨rfl, rfl, t, g, h, by simp, fun _ _ => rfl⟩
    | cons x xs =>
      obtain ⟨hcl, hco, t1, g1, h1, hx, hother⟩ := landWord_lands h d x
      obtain ⟨hcl', hco', t2, g2, h2, hin, hout⟩ := ih hnd xs h1
      refine ⟨hcl'.trans hcl, hco'.trans hco, t2, g2, h2, fun j e y he hy => ?_, fun e he => ?_⟩
      · cases j with
        | zero =>
          obtain rfl : d = e := by simpa using he
          obtain rfl : x = y := by simpa using hy
          exact (hout d hd).trans hx
        | succ j => exact hin j e y (by simpa using he) (by simpa using hy)
      · exact (hout e (List.not_mem_of_not_mem_cons he)).trans (hother e (List.ne_of_not_mem_cons he))

/-- The count of a completion flag leaves the group's registers. -/
theorem clearFlag_lands (h : l.On c t g) (k : Option Nat) :
    l.Lands c (c.onGroup l.gslot (fun x => x.clearFlag k)) (fun t' g' => ∀ e : Dest, e.read t' g' = e.read t g) := by
  obtain ⟨ht, hg⟩ := h
  have hg' := group?_onGroup c l.gslot (f := fun x => x.clearFlag k) (fun x => by cases k <;> rfl)
  rw [hg] at hg'
  refine ⟨rfl, rfl, t, g.clearFlag k, ⟨ht, hg'⟩, fun e => ?_⟩
  cases e <;> cases k <;> rfl

end LandWord

/-- The core of a long operation once it has landed. -/
def LongOp.landedCore (l : LongOp) (data : List PWord) (c : Core) : Core :=
  ((l.dests.zip data).foldl (fun k (d, x) => landWord k l d x) c).onGroup l.gslot (fun g => g.clearFlag l.flag)

theorem landLong_eq (s : State) (l : LongOp) (data : List PWord) :
    s.landLong l data =
      { s.setCore (l.landedCore data (s.core l.cl l.co)) with longs := s.longs.filter (fun x => x.id != l.id) } := rfl

/-- A long operation whose data is there lands where it may, and is refused where it may not. -/
theorem exec_longOpLands {s : State} {l : LongOp} {data : List PWord} (hl : s.long? l.id = some l) (hdata : l.data = some data) :
    exec (.longOpLands l.id) s = if s.mayLandLong l then .next (s.landLong l data) else .refused .notEnabled := by
  show execLongOpLands l.id s = _
  simp [execLongOpLands, hl, hdata]

end Sys2Proof.Machine

namespace Sys2Proof.Proofs
open Sys2Proof Sys2Proof.Machine Sys2Proof.Claims

/-- What O18 says of a long operation, its data, its thread and its group, for its stack words and its group registers in one. -/
def LandsInItsWords (s : State) (l : LongOp) (data : List PWord) (t : Thread) (g : Group) : Prop :=
  Then (.longOpLands l.id) s (fun u => (∀ x ∈ u.longs, x.id ≠ l.id) ∧ u.mem = s.mem ∧
    ∃ t' g', u.thread? l.cl l.co l.tid = some t' ∧ (u.core l.cl l.co).group? l.gslot = some g' ∧
      (∀ (j : Nat) d x, l.dests[j]? = some d → data[j]? = some x → d.read t' g' = x) ∧ ∀ d, d ∉ l.dests → d.read t' g' = d.read t g)

/-- It is what O18 concludes. -/
theorem landsInItsWords_of_longOpLands (h : Obligations.LongOpLands) {s : State} {l : LongOp} {data : List PWord} {t : Thread} {g : Group}
    (hl : s.long? l.id = some l) (hdata : l.data = some data) (hnd : l.dests.Nodup) (ht : s.thread? l.cl l.co l.tid = some t)
    (hg : (s.core l.cl l.co).group? l.gslot = some g) : LandsInItsWords s l data t g := by
  obtain ⟨u, t', g', hu, hlongs, hmem, ht', hg', hvIn, hvOut, hgIn, hgOut⟩ := h s l data t g hl hdata hnd ht hg
  refine ⟨u, hu, hlongs, hmem, t', g', ht', hg', fun j d x => ?_, fun d => ?_⟩
  · cases d with
    | v w => exact hvIn j w x
    | g n => exact hgIn j n x
  · cases d with
    | v w => exact hvOut w
    | g n => exact hgOut n

/-- A long operation that may land does so in exactly the words that it names (R65). -/
theorem landsInItsWords_of_mayLand {s : State} {l : LongOp} {data : List PWord} {t : Thread} {g : Group} (hl : s.long? l.id = some l)
    (hdata : l.data = some data) (hnd : l.dests.Nodup) (ht : s.thread? l.cl l.co l.tid = some t)
    (hg : (s.core l.cl l.co).group? l.gslot = some g) (hmay : s.mayLandLong l = true) : LandsInItsWords s l data t g := by
  obtain ⟨hcl, hco, t1, g1, h1, hin, hout⟩ := landWords_lands hnd data (show l.On (s.core l.cl l.co) t g from ⟨ht, hg⟩)
  obtain ⟨hcl', hco', t2, g2, ⟨ht2, hg2⟩, hreads⟩ := clearFlag_lands h1 l.flag
  have hcore : (s.landLong l data).core l.cl l.co = l.landedCore data (s.core l.cl l.co) :=
    core_setCore_placed (hcl'.trans hcl) (hco'.trans hco)
  refine ⟨s.landLong l data, by rw [exec_longOpLands hl hdata, if_pos hmay], ?_, rfl, t2, g2, ?_, ?_, ?_, ?_⟩
  · simp [landLong_eq]
  · rw [State.thread?, hcore]
    exact ht2
  · rw [hcore]
    exact hg2
  · exact fun j d x hd hx => (hreads d).trans (hin j d x hd hx)
  · exact fun d hd => (hreads d).trans (hout d hd)

/-- So under the premises of O18 its conclusion holds exactly where the operation may land: R35 and R60 hold one back that writes a register of
a group while threads of the group are to go on together, and O18 has no such premise. -/
theorem landsInItsWords_iff_mayLand {s : State} {l : LongOp} {data : List PWord} {t : Thread} {g : Group} (hl : s.long? l.id = some l)
    (hdata : l.data = some data) (hnd : l.dests.Nodup) (ht : s.thread? l.cl l.co l.tid = some t)
    (hg : (s.core l.cl l.co).group? l.gslot = some g) : LandsInItsWords s l data t g ↔ s.mayLandLong l = true := by
  refine ⟨fun ⟨u, hu, _⟩ => ?_, landsInItsWords_of_mayLand hl hdata hnd ht hg⟩
  rw [exec_longOpLands hl hdata] at hu
  cases hmay : s.mayLandLong l with
  | true => rfl
  | false =>
    rw [hmay, if_neg Bool.false_ne_true] at hu
    cases hu

/-! ### A long operation held back by a thread of its group -/

/-- A load of the thread in slot 0 whose word is to go to the group's register 5. -/
def heldLong : LongOp := { id := 1, cl := 0, co := 0, tid := 1, gslot := 0, dests := [.g 5], data := some [⟨7, false⟩] }

/-- The thread that it is of, at a clause operation. -/
def loadingThread : Thread := { tid := 1, launch := 1, block := 0, stackNo := 0, act := .rest, gslot := some 0, tslot := 0 }

/-- A thread of the other front of the group, at its REFORM, which nothing holds back. -/
def reformingThread : Thread := { tid := 2, launch := 1, block := 0, stackNo := 1, act := .reform, gslot := some 0, tslot := 1 }

/-- The group of the two. -/
def partedGroup : Group := { slot := 0, launch := 1, members := [(0, 1), (1, 2)], fronts := [{ tslots := [0] }, { tslots := [1] }] }

/-- The load is in progress on their core, and its data is there. -/
def heldState : State :=
  { State.reset with cores := [{ cl := 0, co := 0, threads := [loadingThread, reformingThread], groups := [partedGroup] }], longs := [heldLong] }

theorem heldState_mayNotLand : heldState.mayLandLong heldLong = false := by decide

/-- Refutes O18 in a state that no premise excludes: the load writes a register of its group while another thread of the group is to make its REFORM,
so LONG_OP_LANDS is refused and no state follows. By `landsInItsWords_of_mayLand` the statement holds with the premise that the operation may
land. -/
theorem not_longOpLands : ¬ Obligations.LongOpLands := by
  intro h
  have hlands : LandsInItsWords heldState heldLong [⟨7, false⟩] loadingThread partedGroup :=
    landsInItsWords_of_longOpLands h rfl rfl (by decide) rfl rfl
  have hmay := (landsInItsWords_iff_mayLand rfl rfl (by decide) rfl rfl).mp hlands
  exact Bool.false_ne_true (heldState_mayNotLand.symm.trans hmay)

end Sys2Proof.Proofs

/-! PROOFS. Threads between windows: what the words of a thread's stack read after writes and releases of words, and what a thread is after it
has left its group or ended (R58, R59, R67, R70, R216). -/

namespace Sys2Proof.Machine

/-! ### Words of a thread's stack (R58, R70) -/

/-- A thread with words written to its stack, each word given with its place. -/
def Thread.setWords (t : Thread) (ws : List (Nat × PWord)) : Thread := ws.foldl (fun u x => u.setStk x.1 x.2) t

/-- Words for consecutive places. -/
def wordsFrom (base : Nat) (l : List PWord) : List (Nat × PWord) := l.zipIdx.map (fun x => (base + x.2, x.1))

section SetWords
variable (t : Thread) (ws : List (Nat × PWord))

@[simp] theorem setWords_tid : (t.setWords ws).tid = t.tid :=
  foldl_keeps (f := fun (u : Thread) (x : Nat × PWord) => u.setStk x.1 x.2) Thread.tid (fun _ _ => rfl) ws t
@[simp] theorem setWords_spilled : (t.setWords ws).spilled = t.spilled :=
  foldl_keeps (f := fun (u : Thread) (x : Nat × PWord) => u.setStk x.1 x.2) Thread.spilled (fun _ _ => rfl) ws t

variable {t ws}

/-- A place reads x where all that is written there is x, and something is or it read x before. -/
theorem stk_setWords {w : Nat} {x : PWord} (h : ∀ y ∈ ws, y.1 = w → y.2 = x) (h0 : (∃ y ∈ ws, y.1 = w) ∨ assocGet ⟨0, false⟩ t.stk w = x) :
    assocGet ⟨0, false⟩ (t.setWords ws).stk w = x := by
  induction ws generalizing t with
  | nil => exact h0.resolve_left (by simp)
  | cons y ws ih =>
    refine ih (t := t.setStk y.1 y.2) (fun z hz => h z (List.mem_cons_of_mem _ hz)) ?_
    by_cases hy : y.1 = w
    · subst hy
      exact .inr ((assocGet_set_self ..).trans (h y List.mem_cons_self rfl))
    · refine h0.imp (fun hz => ?_) (fun hx => (assocGet_set_other _ _ _ (Ne.symm hy)).trans hx)
      obtain ⟨z, hz, hzw⟩ := hz
      exact ⟨z, (List.mem_cons.mp hz).resolve_left (fun e => hy (e ▸ hzw)), hzw⟩

/-- A place at which nothing is written reads as before. -/
theorem stk_setWords_other {w : Nat} (h : ∀ y ∈ ws, y.1 ≠ w) :
    assocGet ⟨0, false⟩ (t.setWords ws).stk w = assocGet ⟨0, false⟩ t.stk w :=
  stk_setWords (fun y hy e => absurd e (h y hy)) (.inr rfl)

end SetWords

section WordsFrom
variable {t : Thread} {base : Nat} {l : List PWord}

theorem mem_wordsFrom {y : Nat × PWord} : y ∈ wordsFrom base l ↔ ∃ i, l[i]? = some y.2 ∧ y.1 = base + i := by
  constructor
  · intro h
    obtain ⟨x, hx, rfl⟩ := List.mem_map.mp h
    exact ⟨x.2, List.mem_zipIdx_iff_getElem?.mp hx, rfl⟩
  · rintro ⟨i, hi, hy⟩
    exact List.mem_map.mpr ⟨(y.2, i), List.mem_zipIdx_iff_getElem?.mpr hi, Prod.ext hy.symm rfl⟩

/-- Each of the words written to consecutive places is in its place. -/
theorem stk_setWords_wordsFrom {i : Nat} (h : i < l.length) :
    assocGet ⟨0, false⟩ (t.setWords (wordsFrom base l)).stk (base + i) = l[i] := by
  refine stk_setWords (fun y hy e => ?_) (.inl ⟨(base + i, l[i]), mem_wordsFrom.mpr ⟨i, List.getElem?_eq_getElem h, rfl⟩, rfl⟩)
  obtain ⟨j, hj, hy⟩ := mem_wordsFrom.mp hy
  obtain rfl : i = j := by omega
  exact Option.some.inj (hj.symm.trans (List.getElem?_eq_getElem h))

/-- A place outside them reads as before. -/
theorem stk_setWords_wordsFrom_other {w : Nat} (h : w < base ∨ base + l.length ≤ w) :
    assocGet ⟨0, false⟩ (t.setWords (wordsFrom base l)).stk w = assocGet ⟨0, false⟩ t.stk w := by
  refine stk_setWords_other (fun y hy => ?_)
  obtain ⟨i, hi, hy⟩ := mem_wordsFrom.mp hy
  have hlt : i < l.length := (List.getElem?_eq_some_iff.mp hi).1
  omega

end WordsFrom

/-- A release of entries leaves a place that it keeps. -/
theorem assocGet_filter_kept {α : Type} (rest : α) {p : Nat × α → Bool} {w : Nat} (h : ∀ v, p (w, v) = true) (l : Assoc α) :
    assocGet rest (l.filter p) w = assocGet rest l w := by
  induction l with
  | nil => rfl
  | cons e l ih =>
    obtain ⟨k, v⟩ := e
    by_cases hk : w = k
    · subst hk
      simp [h v, assocGet]
    · cases hp : p (k, v) <;> simp [hp, assocGet, hk, ih]

/-! ### Threads of a state that was changed -/

/-- A thread put on its core in the place of another of its number is found there. -/
theorem thread?_setCore_setThread {s : State} {cl co : Nat} {t t' : Thread} (s1 : State) (h : (s.core cl co).thread? t.tid = some t') :
    (s1.setCore ((s.core cl co).setThread t)).thread? cl co t.tid = some t := by
  rw [State.thread?, core_setCore_placed (s := s) (Core.setThread_cl ..) (Core.setThread_co ..)]
  exact thread?_setThread h

/-- A thread taken out of its group, where it was in one, and out of the wait of a yield (R59, R67). -/
def Thread.ungrouped (t : Thread) : Thread :=
  match t.gslot with
  | none => t
  | some _ => { t with gslot := none, demoted := false, waitSet := [], waitOld := [] }

@[simp] theorem ungrouped_tid (t : Thread) : t.ungrouped.tid = t.tid := by unfold Thread.ungrouped; split <;> rfl
@[simp] theorem ungrouped_stk (t : Thread) : t.ungrouped.stk = t.stk := by unfold Thread.ungrouped; split <;> rfl

/-- What a thread's wait set becomes as a slot of its group is met (R67). -/
def Thread.met (gs k : Nat) (t : Thread) : Thread :=
  if t.gslot == some gs && t.demoted then { t with waitSet := t.waitSet.filter (· != k), demoted := !(t.waitSet.filter (· != k)).isEmpty } else t

/-- Only its wait set and its demotion change. -/
theorem met_eq (gs k : Nat) (t : Thread) : ∃ w d, t.met gs k = { t with waitSet := w, demoted := d } := by
  unfold Thread.met
  split
  · exact ⟨_, _, rfl⟩
  · exact ⟨t.waitSet, t.demoted, rfl⟩

@[simp] theorem met_tid (gs k : Nat) (t : Thread) : (t.met gs k).tid = t.tid := by
  obtain ⟨w, d, h⟩ := met_eq gs k t
  rw [h]

theorem thread?_waitMet (c : Core) (gs k tid : Nat) : (c.waitMet gs k).thread? tid = (c.thread? tid).map (Thread.met gs k) :=
  thread?_map c tid (met_tid gs k)

theorem met_ungrouped (t : Thread) {gs : Nat} (k : Nat) (h : t.gslot = some gs) :
    ({ t.met gs k with gslot := none, demoted := false, waitSet := [], waitOld := [] } : Thread) = t.ungrouped := by
  obtain ⟨w, d, e⟩ := met_eq gs k t
  simp only [e, Thread.ungrouped, h]

/-- A thread that has left its group (R59). -/
theorem thread?_leaveGroup {c : Core} {t : Thread} (h : c.thread? t.tid = some t) : (c.leaveGroup t).thread? t.tid = some t.ungrouped := by
  unfold Core.leaveGroup
  cases hg : t.gslot with
  | none => simpa [Thread.ungrouped, hg] using h
  | some gs =>
    have e : ∀ f : Group → Group, (c.onGroup gs f).thread? t.tid = some t := fun _ => h
    simp only [thread?_onThread _ t.tid (f := fun x => { x with gslot := none, demoted := false, waitSet := [], waitOld := [] }) (fun _ => rfl),
      thread?_waitMet, e, Option.map_some, met_ungrouped t t.tslot hg]

theorem leaveGroup_cl_co (c : Core) (t : Thread) : (c.leaveGroup t).cl = c.cl ∧ (c.leaveGroup t).co = c.co := by
  unfold Core.leaveGroup
  split <;> exact ⟨rfl, rfl⟩

/-! ### The end of a thread (R216) -/

theorem setBarrier_threads (s : State) (cl co : Nat) (l : Launch) (b : Barrier) :
    ((s.setBarrier cl co l b).core cl co).threads = (s.core cl co).threads := by
  unfold State.setBarrier
  split
  · rw [core_onCore _ _ _ _ rfl rfl]
  · rfl

theorem barrierCheckAll_threads (s : State) (cl co launch linear : Nat) :
    ((s.barrierCheckAll cl co launch linear).core cl co).threads = (s.core cl co).threads := by
  unfold State.barrierCheckAll
  split
  · rfl
  · refine foldl_keeps (fun u : State => (u.core cl co).threads) (fun u lev => ?_) _ s
    unfold State.barrierCheck
    split
    · rfl
    · dsimp only
      split
      · exact setBarrier_threads ..
      · rfl

/-- A thread that has ended: in no group, its trap frame gone. -/
def Thread.atEnd (t : Thread) : Thread := { t.ungrouped with act := .ended, frame := none }

theorem thread?_endThread {s : State} {cl co : Nat} {t : Thread} (h : s.thread? cl co t.tid = some t) :
    (s.endThread cl co t.tid).thread? cl co t.tid = some t.atEnd := by
  have hfree : ((s.core cl co).freeHandler (t.gslot.getD 64) t.tid).thread? t.tid = some t := h
  obtain ⟨hcl, hco⟩ := leaveGroup_cl_co ((s.core cl co).freeHandler (t.gslot.getD 64) t.tid) t
  simp only [State.endThread, h]
  rw [State.thread?, Core.thread?, barrierCheckAll_threads, groupGone_threads, core_setCore_placed (s := s) (by exact hcl) (by exact hco)]
  have hended := thread?_onThread (((s.core cl co).freeHandler (t.gslot.getD 64) t.tid).leaveGroup t) t.tid
    (f := fun x => { x with act := .ended, frame := none }) (fun _ => rfl)
  rw [thread?_leaveGroup hfree] at hended
  exact hended

end Sys2Proof.Machine

/-! PROOFS. tret: what a return from a trap makes of its thread, and where a pass of one thread stops (R54, R78, R224). -/

namespace Sys2Proof.Machine

/-! ### A pass of one thread that stops (R46, R54) -/

/-- Serving a thread whose operation stops it changes nothing but the pass, which takes the cause, with the position qualifier where it has one
(R338). -/
theorem serveOne_trap {opc : Nat} {o : Ops} {f : Serve} {s : State} {i : Issue} {k base : Nat} {posn : Bool} {addr : DWord} {c : Core} {g : Group}
    {t : Thread} (ht : s.slotThread i k = some (c, g, t)) (hg : guardVal o t = ⟨true, false⟩) (hu : s.upsetOf i k = none)
    (hf : f i k (s.onThread i.cl i.co t.tid retire) = .error (.trap base posn addr)) :
    serveOne f opc o s i k = (s, { i with stop := some (.trap (base + if posn then qualifier i else 0) k addr t.path) }) := by
  simp only [serveOne, ht, hg]
  simp [State.struck, hu, hf, stopAt]

/-- So the stop of an operation of one active thread stops the pass before any effect. -/
theorem runOp_trap {ins : Instr} {opc : Nat} {o : Ops} {f : Serve} {s : State} {i : Issue} {k base : Nat} {posn : Bool} {addr : DWord} {c : Core}
    {g : Group} {t : Thread} (hcur : s.cur = some i) (hk : i.threads = [k]) (hun : opUniform opc o = false) (ht : s.slotThread i k = some (c, g, t))
    (hg : guardVal o t = ⟨true, false⟩) (hu : s.upsetOf i k = none) (hd : ins.detail = none)
    (hf : f { i with soft := isSoft opc } k (s.onThread i.cl i.co t.tid retire) = .error (.trap base posn addr)) :
    runOp ins opc o f s =
      .next { s with cur := some { i with stop := some (.trap (base + if posn then qualifier i else 0) k addr t.path) } } := by
  have hone := serveOne_trap (i := { i with soft := isSoft opc }) (opc := opc) (o := o) ht hg hu hf
  simp only [hk] at hone
  simp only [runOp, hcur, hun, hd, hk, Bool.false_eq_true, if_false, serveAll_singleton, hone]
  rfl

/-! ### Auditing (R342) -/

theorem audit_eq_self {s : State} {cl co : Nat} (h : (s.core cl co).bkpten = false) (gs : Nat) (t : Thread) (d : Nat) :
    s.audit cl co gs t d = s := by
  simp [State.audit, h]

theorem retiredAll_bkpten (s : State) (i : Issue) : ((retiredAll s i).core i.cl i.co).bkpten = (s.core i.cl i.co).bkpten := by
  refine foldl_keeps (fun u : State => (u.core i.cl i.co).bkpten) (fun u k => ?_) i.threads s
  unfold retireSlot
  split
  · rfl
  · simp

/-! ### The return from a trap (R78, R224) -/

/-- tret skips where it says so, and by DEFAULT for classes 0 and 21 (R224). -/
theorem tretAction_eq_skip {a cause : Nat} : tretAction a cause = .skip ↔ a = 2 ∨ (a = 0 ∧ (cause / 16 = 0 ∨ cause / 16 = 21)) := by
  match a with
  | 0 =>
    by_cases h : cause / 16 = 0 ∨ cause / 16 = 21
    · simp only [tretAction, Bool.or_eq_true, beq_iff_eq, h, if_true, and_self, or_true]
    · simp [tretAction, -Nat.div_eq_zero_iff, h]
  | 1 => simp [tretAction]
  | 2 => simp [tretAction]
  | n + 3 => simp [tretAction]

theorem tretAction_eq_quit {a cause : Nat} : tretAction a cause = .quit ↔ 3 ≤ a := by
  match a with
  | 0 => simp only [tretAction]; split <;> simp
  | 1 => simp [tretAction]
  | 2 => simp [tretAction]
  | n + 3 => simp [tretAction]

theorem tretAct_of_not_skip {a : TretAction} (h : a ≠ .skip) (act : Act) : tretAct a act = act := by
  cases a with
  | skip => exact absurd rfl h
  | retry => rfl
  | quit => rfl

theorem tretAct_skip (act : Act) : tretAct .skip act = if act = .rest then .move .advance else .move .complete := by
  cases act <;> rfl

/-- The words of the interrupted window and below stand (R224). -/
theorem stk_tretThread (t : Thread) {fr : TrapFrame} (a : TretAction) {w : Nat} (h : w < fr.wb + fr.f) :
    assocGet ⟨0, false⟩ (tretThread t fr a).stk w = assocGet ⟨0, false⟩ t.stk w :=
  assocGet_filter_kept _ (fun _ => decide_eq_true (Nat.lt_of_lt_of_le h (Nat.le_max_left ..))) _

theorem trapReturn_quit (s : State) (cl co : Nat) (t : Thread) (fr : TrapFrame) : s.trapReturn cl co t fr .quit = s.endThread cl co t.tid := rfl

/-- A core to which a thread's trap returns: the thread in place, its group free for another trap, and its slot met by those that wait. -/
def Core.trapReturned (c : Core) (t : Thread) (fr : TrapFrame) (a : TretAction) : Core :=
  let gs := t.gslot.getD 64
  let t1 := tretThread t fr a
  ((((c.setThread t1).rejoin gs t1 fr.mid).freeHandler gs t.tid).waitMet gs t.tslot).onGroup gs
    (fun g => if g.pend.isSome then { g with tretTo := some (t.tid, a == .skip) } else g)

theorem trapReturn_goes_on {a : TretAction} (h : a ≠ .quit) (s : State) (cl co : Nat) (t : Thread) (fr : TrapFrame) :
    s.trapReturn cl co t fr a = s.setCore ((s.core cl co).trapReturned t fr a) := by
  cases a with
  | quit => exact absurd rfl h
  | retry => rfl
  | skip => rfl

/-- A thread that goes on after its trap is as `tretThread` gives it, but for what it waits for (R67, R224). -/
theorem thread?_trapReturn {s : State} {cl co : Nat} {t : Thread} (ht : s.thread? cl co t.tid = some t) (fr : TrapFrame) {a : TretAction}
    (h : a ≠ .quit) :
    ∃ w d, (s.trapReturn cl co t fr a).thread? cl co t.tid = some { tretThread t fr a with waitSet := w, demoted := d } := by
  obtain ⟨w, d, e⟩ := met_eq (t.gslot.getD 64) t.tslot (tretThread t fr a)
  have hput : ((((s.core cl co).setThread (tretThread t fr a)).rejoin (t.gslot.getD 64) (tretThread t fr a) fr.mid).freeHandler (t.gslot.getD 64)
      t.tid).thread? t.tid = some (tretThread t fr a) := thread?_setThread (t := tretThread t fr a) ht
  refine ⟨w, d, ?_⟩
  rw [trapReturn_goes_on h, State.thread?, core_setCore_placed (s := s) (by rfl) (by rfl), ← e]
  exact (thread?_waitMet ..).trans (by rw [hput]; rfl)

end Sys2Proof.Machine

namespace Sys2Proof.Proofs
open Sys2Proof Sys2Proof.Machine Sys2Proof.Claims

section Tret
variable {o : Ops} {s : State} {i : Issue} {k : Nat} {c : Core} {g : Group} {t : Thread}

/-- tret with a valid frame is the return from the trap, with the action that its operand gives for the frame's cause. -/
theorem exec_tret_of_frame {fr : TrapFrame} (hs : Serves s i k c g t 0x011 o) (hd : (Instr.tret o).detail = none) (hun : opUniform 0x011 o = false)
    (hb : c.bkpten = false) (hfr : t.frame = some fr) :
    exec (.tret o) s = .next { (retiredAll s i).trapReturn i.cl i.co (retire t) fr (tretAction (o.imm.toNat % 4) fr.cause) with
      cur := some (i.finished false) } := by
  have hk : i.threads = [k] := hs.one hun
  have hslot := slotThread_retiredAll hs.slot (hk ▸ List.mem_singleton_self k)
  have hcore : s.core i.cl i.co = c := (slotThread_core hs.slot).1
  have hoff : ((retiredAll s i).core i.cl i.co).bkpten = false := (retiredAll_bkpten s i).trans (hcore ▸ hb)
  have hframe : (retire t).frame = some fr := hfr
  rw [show exec (.tret o) s = execTret o s from rfl, execTret, ← hun]
  refine runOp_next hs.cur hk (fun _ => rfl) hs.slot hs.guard hs.upset hd ?_
  simp only [show (retiredAll s i).slotThread { i with soft := isSoft 0x011 } k = _ from hslot, hframe, audit_eq_self hoff, opImm]

/-- tret without one stops its thread with class 2 (R224). -/
theorem exec_tret_of_no_frame (hs : Serves s i k c g t 0x011 o) (hd : (Instr.tret o).detail = none) (hun : opUniform 0x011 o = false)
    (hfr : t.frame = none) : StopsAt (.tret o) s i (0x20 + qualifier i) k 0 t.path := by
  have hslot := slotThread_onThread hs.slot retire (fun _ => rfl)
  have hframe : (retire t).frame = none := hfr
  refine runOp_trap (posn := true) hs.cur (hs.one hun) hun hs.slot hs.guard hs.upset hd ?_
  simp only [show (s.onThread i.cl i.co t.tid retire).slotThread { i with soft := isSoft 0x011 } k = _ from hslot, hframe]

/-- The thread that a pass serves, once retired, is on its core. -/
theorem thread?_retiredAll {opc : Nat} (hs : Serves s i k c g t opc o) (hk : k ∈ i.threads) :
    (retiredAll s i).thread? i.cl i.co (retire t).tid = some (retire t) := by
  obtain ⟨-, -, hat⟩ := slotThread_core (slotThread_retiredAll hs.slot hk)
  exact (threadAt_tid hat).2

end Tret

/-- Settles O21, by the two outcomes of tret with a valid frame, the return of its thread and its end, and by its stop without one. -/
theorem trapReturns : Obligations.TrapReturns := by
  intro o s i k c g t hs hd hun hb
  refine ⟨?_, exec_tret_of_no_frame hs hd hun⟩
  intro fr hfr a skip
  have ht := thread?_retiredAll hs (hs.one hun ▸ List.mem_singleton_self k)
  refine ⟨_, exec_tret_of_frame hs hd hun hb hfr, rfl, ?_⟩
  by_cases ha : a = 3
  · have hquit : tretAction a fr.cause = .quit := tretAction_eq_quit.mpr (by omega)
    rw [if_pos ha, show tretAction (o.imm.toNat % 4) fr.cause = .quit from hquit, trapReturn_quit]
    exact ⟨_, thread?_endThread ht, rfl, rfl⟩
  · have hgoes : tretAction a fr.cause ≠ .quit := fun h => by
      have := tretAction_eq_quit.mp h
      omega
    obtain ⟨w, d, hu⟩ := thread?_trapReturn ht fr hgoes
    rw [if_neg ha]
    refine ⟨_, hu, rfl, rfl, rfl, rfl, rfl, rfl, rfl, fun hskip => ?_, fun hskip => ?_, fun n hn => ?_⟩
    · exact tretAct_of_not_skip (fun h => hskip (tretAction_eq_skip.mp h)) fr.act
    · exact (congrArg (fun x => tretAct x fr.act) (tretAction_eq_skip.mpr hskip)).trans (tretAct_skip fr.act)
    · exact stk_tretThread (retire t) (tretAction a fr.cause) hn

end Sys2Proof.Proofs

/-! PROOFS. Calls and returns: what a call writes to its thread's stack, what a return leaves there, and which return is due (R71 to R73, R78,
R104, R215). -/

namespace Sys2Proof.Machine

/-! ### The thread of a call (R71, R78) -/

@[simp] theorem linkWords_length (p : Path) : (linkWords p).length = 4 := by simp [linkWords]

theorem getElem_linkWords (p : Path) {j : Nat} (h : j < (linkWords p).length) :
    (linkWords p)[j] = ⟨BitVec.ofNat 32 ({ p with op := 1 }.encode / 2 ^ (32 * j)), false⟩ := by
  simp [linkWords]

/-- A thread with the link of its position below its callee's window. -/
def Thread.linked (t : Thread) (off : Nat) : Thread := t.setWords (wordsFrom (t.wb + off - 4) (linkWords t.path))

/-- Zeros for the words from one place to below another. -/
def zeroWords (lo hi : Nat) : List (Nat × PWord) := (List.range' lo (hi - lo)).map (fun w => (w, ⟨0, false⟩))

theorem mem_zeroWords {lo hi : Nat} {y : Nat × PWord} : y ∈ zeroWords lo hi ↔ (lo ≤ y.1 ∧ y.1 < hi) ∧ y.2 = ⟨0, false⟩ := by
  simp only [zeroWords, List.mem_map, List.mem_range'_1]
  constructor
  · rintro ⟨w, hw, rfl⟩
    exact ⟨by omega, rfl⟩
  · rintro ⟨hw, hy⟩
    exact ⟨y.1, by omega, Prod.ext rfl hy.symm⟩

section CallThread
variable (t : Thread) (p off f fc : Nat) (trips : List (Nat × Nat))

/-- The words of a thread that has made a call: its link, then the zeroed words between the tops of the two windows. -/
theorem callThread_stk :
    (callThread t p off f fc trips).stk = ((t.linked off).setWords (zeroWords (t.wb + f) (t.wb + off + fc))).stk := by
  simp only [callThread, Thread.linked, Thread.setWords, wordsFrom, zeroWords, List.foldl_map]

theorem callThread_tid : (callThread t p off f fc trips).tid = t.tid := by
  have h : (callThread t p off f fc trips).tid = ((t.linked off).setWords (zeroWords (t.wb + f) (t.wb + off + fc))).tid := by
    simp only [callThread, Thread.linked, Thread.setWords, wordsFrom, zeroWords, List.foldl_map]
  simpa [Thread.linked] using h

variable {t off f fc}

/-- The link stands below the callee's window (R71, R72). -/
theorem callThread_link (h4 : 4 ≤ off) (hf : off ≤ f) {j : Nat} (hj : j < 4) :
    assocGet ⟨0, false⟩ (callThread t p off f fc trips).stk (t.wb + off - 4 + j) =
      ⟨BitVec.ofNat 32 ({ t.path with op := 1 }.encode / 2 ^ (32 * j)), false⟩ := by
  have hlen : j < (linkWords t.path).length := (linkWords_length t.path).symm ▸ hj
  have hzero : ∀ y ∈ zeroWords (t.wb + f) (t.wb + off + fc), y.1 ≠ t.wb + off - 4 + j := fun y hy => by
    have := (mem_zeroWords.mp hy).1
    omega
  rw [callThread_stk, stk_setWords_other hzero]
  exact (stk_setWords_wordsFrom hlen).trans (getElem_linkWords t.path hlen)

/-- The fresh words of the callee read zero (R71). -/
theorem callThread_fresh {w : Nat} (hlo : t.wb + f ≤ w) (hhi : w < t.wb + off + fc) :
    assocGet ⟨0, false⟩ (callThread t p off f fc trips).stk w = ⟨0, false⟩ := by
  rw [callThread_stk]
  exact stk_setWords (fun y hy _ => (mem_zeroWords.mp hy).2) (.inl ⟨(w, ⟨0, false⟩), mem_zeroWords.mpr ⟨⟨hlo, hhi⟩, rfl⟩, rfl⟩)

/-- Every other word is as before: the caller's below the link, the arguments above it, and what no frame holds (R70, R71). -/
theorem callThread_kept (h4 : 4 ≤ off) {w : Nat} (hlink : w < t.wb + off - 4 ∨ t.wb + off ≤ w) (hfresh : w < t.wb + f ∨ t.wb + off + fc ≤ w) :
    assocGet ⟨0, false⟩ (callThread t p off f fc trips).stk w = assocGet ⟨0, false⟩ t.stk w := by
  have hzero : ∀ y ∈ zeroWords (t.wb + f) (t.wb + off + fc), y.1 ≠ w := fun y hy => by
    have := (mem_zeroWords.mp hy).1
    omega
  rw [callThread_stk, stk_setWords_other hzero]
  exact stk_setWords_wordsFrom_other (by rw [linkWords_length]; omega)

/-- The caller's counters, where it has any, are its trip record (R78). -/
theorem callThread_record (h : trips ≠ []) :
    assocGet [] (callThread t p off f fc trips).tripRecs t.depth = trips.map Prod.snd := by
  have hne : trips.isEmpty = false := by simpa using h
  simp [callThread, hne]

end CallThread

/-! ### The outcome of a call (R38, R71, R213) -/

/-- The node calls the procedure at the offset: as its header says, or by its register, which names one of its targets (R38). -/
def Thread.Calls (t : Thread) (k : NodeKind) (p off : Nat) : Prop :=
  k = .call p off ∨ ∃ (v : Fin 128) (ts : List Nat), k = .callI v off ts ∧ (t.v v.val).poison = false ∧
    ts.contains (t.v v.val).val.toNat = true ∧ p = (t.v v.val).val.toNat

section CallOutcome
variable {s : State} {cl co tid : Nat} {t : Thread} {k : NodeKind} {p off : Nat}

theorem callee_of_calls (h : t.Calls k p off) (hp : (s.proc? t.image p).isSome = true) : s.callee t k = .ok (p, off) := by
  rcases h with rfl | ⟨v, ts, rfl, hpois, hts, rfl⟩
  · simp only [State.callee, hp, if_true]
  · simp only [State.callee, hpois, hts, hp, Bool.not_true, Bool.false_eq_true, if_false, if_true]

/-- The address above the callee's window, which may not lie above the stack's limit (R71). -/
def State.calleeTop (s : State) (t : Thread) (p off : Nat) : Nat := t.sptr.toNat + t.p + 4 * (t.wb + off + s.frameSize t.image p)

theorem callResult_room (hc : s.callee t k = .ok (p, off)) (hroom : s.calleeTop t p off ≤ t.slim.toNat)
    (htrips : tripsAt t.trips t.path = [] ∨ t.depth < t.td) :
    s.callResult t k = .ok (callThread t p off (s.frameOf t) (s.frameSize t.image p) (tripsAt t.trips t.path)) := by
  have hrec : (!(tripsAt t.trips t.path).isEmpty && decide (t.td ≤ t.depth)) = false := by
    rcases htrips with h | h
    · simp [h]
    · simp [Nat.not_le.mpr h]
  simp only [State.callResult, hc, hrec, Bool.false_eq_true, if_false]
  exact if_neg (Nat.not_lt.mpr hroom)

theorem callResult_full (hc : s.callee t k = .ok (p, off)) (hfull : t.slim.toNat < s.calleeTop t p off) :
    s.callResult t k = .error (0xA0, BitVec.ofNat 64 (s.calleeTop t p off)) := by
  simp only [State.callResult, hc]
  exact if_pos hfull

/-- A call that is due is made, of a thread with no failed chunk move to report. -/
theorem exec_call (ht : (s.core cl co).thread? tid = some t) (hr : s.callReady (s.core cl co) t = true) (hp : t.pagerFault = none) :
    exec (.call cl co tid) s = .next (s.makeCall (s.core cl co) t) := by
  show execCall cl co tid s = _
  simp [execCall, ht, hr, hp]

theorem makeCall_ok {c : Core} {t' : Thread} (hk : s.restNode t = .ok k) (h : s.callResult t k = .ok t') :
    s.makeCall c t = s.setCore (c.setThread t') := by
  simp only [State.makeCall, hk, h]

theorem makeCall_trap {c : Core} {cause : Nat} {addr : DWord} (hk : s.restNode t = .ok k) (h : s.callResult t k = .error (cause, addr)) :
    s.makeCall c t = s.setCore (c.trapThread t cause addr) := by
  simp only [State.makeCall, hk, h]

end CallOutcome

/-! ### Returns (R73, R104, R215) -/

section Return
variable {s : State} {cl co tid : Nat} {t : Thread}

/-- A return that is due is made, of a thread with no failed chunk move to report. -/
theorem exec_returnFrame (ht : (s.core cl co).thread? tid = some t) (hr : s.returnReady (s.core cl co) t = true) (hp : t.pagerFault = none) :
    exec (.returnFrame cl co tid) s = .next (s.makeReturn (s.core cl co) t) := by
  show execReturnFrame cl co tid s = _
  simp [execReturnFrame, ht, hr, hp]

theorem returns_last (ho : t.overlay = .none) (hf : t.frame = none) (hw : t.wb = 0) : t.returns = .last := by
  simp [Thread.returns, ho, hf, hw]

theorem returns_link (ho : t.overlay = .none) (hf : t.frame = none) (hw : t.wb ≠ 0) : t.returns = .link := by
  simp [Thread.returns, ho, hf, hw]

/-- A restore procedure ends where the thread has made as many calls as when it entered it (R104). -/
theorem returns_restored {sp d : Nat} {p : Path} {r : DWord} (ho : t.overlay = .restore sp d p r) (hf : t.frame = none)
    (hd : t.calls.length = d) : t.returns = .restored p := by
  simp [Thread.returns, ho, hf, hd]

/-- The caller's counters that a return by link brings back: those of the bounded loops around the call node (R73, R78). -/
def State.loopsAround (s : State) (t : Thread) (p : Path) : List Nat := match s.codeOf t t.image with | some i => s.boundedAt i p | none => []

theorem makeReturn_link {c : Core} {p : Path} {off : Nat} (hr : t.returns = .link) (hl : s.linkNode t = .ok (p, off)) :
    s.makeReturn c t = s.setCore (c.setThread (returnThread t p off (s.frameSize t.image p.proc) (s.loopsAround t p))) := by
  rw [State.makeReturn, hl, hr]
  rfl

theorem makeReturn_badLink {c : Core} {cause : Nat} (hr : t.returns = .link) (hl : s.linkNode t = .error (.link cause)) :
    s.makeReturn c t = s.setCore (c.trapThread t.returning cause 0) := by
  rw [State.makeReturn, hl, hr]

theorem makeReturn_last {c : Core} (hr : t.returns = .last) : s.makeReturn c t = s.endThread c.cl c.co t.tid := by
  rw [State.makeReturn, hr]

theorem makeReturn_restored {c : Core} {p : Path} (hr : t.returns = .restored p) :
    s.makeReturn c t = s.setCore (c.setThread { t with path := p, overlay := .none, trips := s.zeroTrips t.image p, act := .move .complete }) := by
  rw [State.makeReturn, hr]

/-- The words of the caller's window and below stand (R72, R73). -/
theorem returnThread_kept (t : Thread) (p : Path) (off f : Nat) (loops : List Nat) {w : Nat} (h : w < t.wb - off + f) :
    assocGet ⟨0, false⟩ (returnThread t p off f loops).stk w = assocGet ⟨0, false⟩ t.stk w :=
  assocGet_filter_kept _ (fun _ => decide_eq_true (Nat.lt_of_lt_of_le h (Nat.le_max_left ..))) _

end Return

end Sys2Proof.Machine

namespace Sys2Proof.Proofs
open Sys2Proof Sys2Proof.Machine Sys2Proof.Claims

/-- A call that has room: the thread stands at the callee's root, above its link (R71, R78). -/
theorem call_enters {s : State} {cl co tid : Nat} {t : Thread} {k : NodeKind} {p off : Nat} (ht : (s.core cl co).thread? tid = some t)
    (hr : s.callReady (s.core cl co) t = true) (hpf : t.pagerFault = none) (hk : s.restNode t = .ok k) (hc : s.callee t k = .ok (p, off))
    (hroom : s.calleeTop t p off ≤ t.slim.toNat) (htrips : tripsAt t.trips t.path = [] ∨ t.depth < t.td) :
    Then (.call cl co tid) s (fun u => u.mem = s.mem ∧
      Has u cl co tid (· = callThread t p off (s.frameOf t) (s.frameSize t.image p) (tripsAt t.trips t.path))) := by
  obtain rfl := tid_of_thread? ht
  have htid := callThread_tid t p off (s.frameOf t) (s.frameSize t.image p) (tripsAt t.trips t.path)
  exact ⟨_, (exec_call ht hr hpf).trans (congrArg _ (makeCall_ok hk (callResult_room hc hroom htrips))), rfl, _,
    htid ▸ thread?_setCore_setThread s (by rw [htid]; exact ht), rfl⟩

/-- The outermost return ends the thread (R215). -/
theorem return_ends {s : State} {cl co tid : Nat} {t : Thread} (ht : (s.core cl co).thread? tid = some t)
    (hr : s.returnReady (s.core cl co) t = true) (hpf : t.pagerFault = none) (hl : t.returns = .last) :
    Then (.returnFrame cl co tid) s (fun u => Has u cl co tid (· = t.atEnd)) := by
  obtain rfl := tid_of_thread? ht
  obtain ⟨hcl, hco⟩ := core_cl_co s cl co
  refine ⟨_, (exec_returnFrame ht hr hpf).trans (congrArg _ (makeReturn_last hl)), _, ?_, rfl⟩
  rw [hcl, hco]
  exact thread?_endThread ht

/-- A return that puts its thread in place and does nothing else (R73, R104). -/
theorem return_puts {s : State} {cl co tid : Nat} {t t' : Thread} (ht : (s.core cl co).thread? tid = some t)
    (hr : s.returnReady (s.core cl co) t = true) (hpf : t.pagerFault = none)
    (hm : s.makeReturn (s.core cl co) t = s.setCore ((s.core cl co).setThread t')) (htid : t'.tid = t.tid) :
    Then (.returnFrame cl co tid) s (fun u => u.mem = s.mem ∧ Has u cl co tid (· = t')) := by
  obtain rfl := tid_of_thread? ht
  exact ⟨_, (exec_returnFrame ht hr hpf).trans (congrArg _ hm), rfl, _, htid ▸ thread?_setCore_setThread s (by rw [htid]; exact ht), rfl⟩

/-- Settles O29, by the two outcomes of a call and the four returns, with what `callThread` and `returnThread` make of the words of the stack. -/
theorem callsAndReturns : Obligations.CallsAndReturns := by
  refine ⟨?_, ?_⟩
  · intro s cl co tid t k p off c ht hr hpf hk hcalls hp h4 hf told tnew top link
    have hc : s.callee t k = .ok (p, off) := callee_of_calls hcalls hp
    refine ⟨fun hroom htrips => ?_, fun hfull => ?_⟩
    · obtain ⟨u, hu, hmem, x, hx, rfl⟩ := call_enters ht hr hpf hk hc hroom htrips
      refine ⟨u, hu, hmem, _, hx, rfl, rfl, rfl, rfl, rfl, callThread_record p _, fun j hj => callThread_link p _ h4 hf hj,
        fun w hlo hhi => callThread_fresh p _ hlo hhi, fun w hw => callThread_kept p _ h4 ?_ ?_⟩ <;> omega
    · exact (exec_call ht hr hpf).trans (congrArg _ (makeCall_trap hk (callResult_full hc hfull)))
  · intro s cl co tid t c ht hr hpf hfr
    refine ⟨fun ho hw => ?_, fun p off ho hw hl => ?_, fun cause ho hw hl => ?_, fun sp d p r ho hd => ?_⟩
    · obtain ⟨u, hu, x, hx, rfl⟩ := return_ends ht hr hpf (returns_last ho hfr hw)
      exact ⟨u, hu, _, hx, rfl, ungrouped_stk t⟩
    · obtain ⟨u, hu, hmem, x, hx, rfl⟩ := return_puts ht hr hpf (makeReturn_link (returns_link ho hfr hw) hl) rfl
      exact ⟨u, hu, hmem, _, hx, rfl, rfl, rfl, rfl, fun w hw => returnThread_kept t p off _ _ hw⟩
    · exact (exec_returnFrame ht hr hpf).trans (congrArg _ (makeReturn_badLink (returns_link ho hfr hw) hl))
    · obtain ⟨u, hu, hmem, x, hx, rfl⟩ := return_puts ht hr hpf (makeReturn_restored (returns_restored ho hfr hd)) rfl
      exact ⟨u, hu, hmem, _, hx, rfl, rfl, rfl, rfl⟩

end Sys2Proof.Proofs

/-! PROOFS. The pager: how a transfer starts, and what the words of its chunk read when it is done (R58, R75, R80, R81). -/

namespace Sys2Proof.Machine

/-! ### Items in and out of the register file (R79, R80) -/

theorem contains_setInsert (l : List Nat) (n : Nat) : (setInsert l n).contains n = true := by
  induction l with
  | nil => simp [setInsert]
  | cons k l ih =>
    simp only [setInsert]
    split
    · simp
    · split
      · simp [*]
      · rw [List.contains_cons, ih, Bool.or_true]

section Items
variable (t : Thread) (x : PagerItem) (j : Nat) (l : List PWord)

@[simp] theorem markOut_tid (out : Bool) : (markOut t x out).tid = t.tid := by cases x <;> rfl
@[simp] theorem markOut_stk (out : Bool) : (markOut t x out).stk = t.stk := by cases x <;> rfl

@[simp] theorem itemOut_markOut_true : itemOut (markOut t x true) x = true := by
  cases x <;> exact contains_setInsert ..

@[simp] theorem itemOut_markOut_false : itemOut (markOut t x false) x = false := by
  cases x <;> simp [markOut, itemOut]

theorem putChunk_eq_setWords : putChunk t j l = t.setWords (wordsFrom (8 * j) l) := by
  simp only [putChunk, Thread.setWords, wordsFrom, List.foldl_map]

@[simp] theorem putChunk_tid : (putChunk t j l).tid = t.tid := by rw [putChunk_eq_setWords, setWords_tid]
@[simp] theorem putChunk_spilled : (putChunk t j l).spilled = t.spilled := by rw [putChunk_eq_setWords, setWords_spilled]

@[simp] theorem putItem_tid : (putItem t x l).tid = t.tid := by
  cases x with
  | chunk j => simp [putItem]
  | trip j => simp only [putItem]; split <;> simp

@[simp] theorem dropItem_tid : (dropItem t x).tid = t.tid := by
  cases x with
  | chunk j => exact putChunk_tid ..
  | trip j => rfl

variable {l}

/-- A filled chunk is in the register file. -/
theorem itemOut_putItem_chunk : itemOut (putItem t (.chunk j) l) (.chunk j) = false :=
  itemOut_markOut_false (putChunk t j l) (.chunk j)

/-- Its words are in their places. -/
theorem putItem_chunk_words {n : Nat} (h : n < l.length) : assocGet ⟨0, false⟩ (putItem t (.chunk j) l).stk (8 * j + n) = l[n] := by
  rw [putItem, markOut_stk, putChunk_eq_setWords]
  exact stk_setWords_wordsFrom h

/-- Every other word is as before. -/
theorem putItem_chunk_kept (hl : l.length = 8) {w : Nat} (h : w < 8 * j ∨ 8 * j + 8 ≤ w) :
    assocGet ⟨0, false⟩ (putItem t (.chunk j) l).stk w = assocGet ⟨0, false⟩ t.stk w := by
  rw [putItem, markOut_stk, putChunk_eq_setWords]
  exact stk_setWords_wordsFrom_other (hl ▸ h)

/-- So are those outside a chunk that leaves the register file. -/
theorem dropItem_chunk_kept {w : Nat} (h : w < 8 * j ∨ 8 * j + 8 ≤ w) :
    assocGet ⟨0, false⟩ (dropItem t (.chunk j)).stk w = assocGet ⟨0, false⟩ t.stk w := by
  rw [dropItem, putChunk_eq_setWords]
  exact stk_setWords_wordsFrom_other (by rwa [List.length_replicate])

end Items

/-! ### The start of a transfer (R75, R80) -/

/-- The transfer that starts for an item. -/
def State.newXfer (s : State) (t : Thread) (x : PagerItem) (fill : Bool) : Transfer :=
  { id := s.nextId, tid := t.tid, item := x, fill := fill, va := BitVec.ofNat 64 (itemVa t x) }

/-- A thread whose item a spill takes out of the register file. -/
def Thread.spilling (x : PagerItem) (t : Thread) : Thread := { markOut t x true with respill := if t.respill == some x then none else t.respill }

@[simp] theorem spilling_tid (x : PagerItem) (t : Thread) : (t.spilling x).tid = t.tid := markOut_tid ..
@[simp] theorem spilling_stk (x : PagerItem) (t : Thread) : (t.spilling x).stk = t.stk := markOut_stk ..
@[simp] theorem itemOut_spilling (x : PagerItem) (t : Thread) : itemOut (t.spilling x) x = true := by
  have h := itemOut_markOut_true t x
  cases x <;> exact h

/-- The start of a fill adds its transfer to the core and takes it from what is asked for. -/
theorem core_startXfer_fill (s : State) (cl co : Nat) (t : Thread) (x : PagerItem) :
    (s.startXfer cl co t x true).core cl co =
      { s.core cl co with xfers := (s.core cl co).xfers ++ [s.newXfer t x true], wants := (s.core cl co).wants.filter (· != (t.tid, x)) } :=
  core_onCore _ cl co _ rfl rfl

/-- The start of a spill adds its transfer to the core, and the item is out. -/
theorem core_startXfer_spill (s : State) (cl co : Nat) (t : Thread) (x : PagerItem) :
    (s.startXfer cl co t x false).core cl co =
      ({ s.core cl co with xfers := (s.core cl co).xfers ++ [s.newXfer t x false] } : Core).onThread t.tid (Thread.spilling x) :=
  core_onCore _ cl co _ rfl rfl

section Start
variable {s : State} {cl co tid : Nat} {t : Thread} {x : PagerItem}

theorem exec_chunkSpill (ht : (s.core cl co).thread? tid = some t) (hv : (tid, x) ∈ s.victims (s.core cl co))
    (ho : s.outstanding (s.core cl co) < Config.requestCount) : exec (.chunkSpill cl co tid x) s = .next (s.startXfer cl co t x false) := by
  show execChunkSpill cl co tid x s = _
  simp [execChunkSpill, ht, hv, ho]

theorem exec_chunkFill (ht : (s.core cl co).thread? tid = some t) (hf : s.fillReady (s.core cl co) t x = true) :
    exec (.chunkFill cl co tid x) s = .next (s.startXfer cl co t x true) := by
  show execChunkFill cl co tid x s = _
  simp [execChunkFill, ht, hf]

end Start

/-! ### The end of a transfer (R58, R80) -/

@[simp] theorem logLatent_cores (s : State) (cl co ctx gs k cause addr path : Nat) : (s.logLatent cl co ctx gs k cause addr path).cores = s.cores :=
  logCtx_cores ..

@[simp] theorem spillLatent_cores (s : State) (cl co : Nat) (t : Thread) (ctx va : Nat) (l : List PWord) :
    (s.spillLatent cl co t ctx va l).cores = s.cores :=
  foldl_keeps State.cores (fun _ _ => logLatent_cores ..) _ s

/-- Words of which none is poisoned leave nothing logged. -/
theorem spillLatent_eq_self {l : List PWord} (h : ∀ y ∈ l, y.poison = false) (s : State) (cl co : Nat) (t : Thread) (ctx va : Nat) :
    s.spillLatent cl co t ctx va l = s := by
  have hnone : l.zipIdx.filter (fun y => y.1.poison) = [] :=
    List.filter_eq_nil_iff.mpr (fun y hy => by simp [h y.1 (List.fst_mem_of_mem_zipIdx hy)])
  rw [State.spillLatent, hnone]
  rfl

theorem tripLatent_chunk {x : Transfer} {j : Nat} (h : x.item = .chunk j) (s : State) (cl co : Nat) (t : Thread) (ctx : Nat) (l : List PWord) :
    s.tripLatent cl co t ctx x l = s := by
  simp only [State.tripLatent, h]

/-- A transfer is off its core, and its thread is changed. -/
def State.xferOver (s : State) (cl co id tid : Nat) (f : Thread → Thread) : State :=
  (s.onCore cl co (fun k => { k with xfers := k.xfers.filter (fun y => y.id != id) })).onThread cl co tid f

theorem thread?_xferOver {s : State} {cl co tid : Nat} {f : Thread → Thread} (hf : ∀ t, (f t).tid = t.tid) (id : Nat) :
    (s.xferOver cl co id tid f).thread? cl co tid = (s.thread? cl co tid).map f := by
  rw [State.thread?, State.xferOver, core_onThread, thread?_onThread _ _ hf, core_onCore _ _ _ _ rfl rfl]
  rfl

/-- The transfer of a number is under way on a core for a thread, and its item is out: nothing holds its end back. -/
structure State.Ending (s : State) (id : Nat) (c : Core) (x : Transfer) (t : Thread) : Prop where
  core : s.cores.find? (fun c => c.xfers.any (fun x => x.id == id)) = some c
  xfer : c.xfers.find? (fun x => x.id == id) = some x
  free : s.xferFree x = true
  thread : c.thread? x.tid = some t
  out : itemOut t x.item = true

/-- The context that a thread's chunks are moved in (R75). -/
def State.ctxOfThread (s : State) (t : Thread) : Context := s.ctxOf (((s.launch? t.launch).map (fun l => l.ctx)).getD 0)

section Ending
variable {s s1 : State} {id : Nat} {c : Core} {x : Transfer} {t : Thread}

theorem exec_chunkTransferDone_fill {l : List PWord} (h : s.Ending id c x t) (hfill : x.fill = true)
    (hr : s.itemRead c.cl c.co (s.ctxOfThread t) x.va.toNat = (s1, .ok l)) :
    exec (.chunkTransferDone id) s =
      .next ((s1.tripLatent c.cl c.co t (s.ctxOfThread t).ctx x l).xferOver c.cl c.co id x.tid (fun u => putItem u x.item l)) := by
  obtain ⟨hcore, hxfer, hfree, hthread, hout⟩ := h
  simp only [State.ctxOfThread] at hr
  show execChunkTransferDone id s = _
  simp only [execChunkTransferDone, hcore, hxfer, hfree, hthread, hout, hfill, hr, Bool.not_true, Bool.false_eq_true, if_false, if_true]
  rfl

theorem exec_chunkTransferDone_spill (h : s.Ending id c x t) (hfill : x.fill = false)
    (hw : s.itemWrite c.cl c.co (s.ctxOfThread t) x.va.toNat (itemWords t x.item) = (s1, .ok ())) :
    exec (.chunkTransferDone id) s =
      .next ((s1.spillLatent c.cl c.co t (s.ctxOfThread t).ctx x.va.toNat (itemWords t x.item)).xferOver c.cl c.co id x.tid
        (fun u => dropItem u x.item)) := by
  obtain ⟨hcore, hxfer, hfree, hthread, hout⟩ := h
  simp only [State.ctxOfThread] at hw
  show execChunkTransferDone id s = _
  simp only [execChunkTransferDone, hcore, hxfer, hfree, hthread, hout, hfill, hw, Bool.not_true, Bool.false_eq_true, if_false]
  rfl

end Ending

end Sys2Proof.Machine

namespace Sys2Proof.Proofs
open Sys2Proof Sys2Proof.Machine Sys2Proof.Claims

/-- A transfer of an item of the thread starts on its core, to or from the item's place in the thread's stack region (R75, R78). -/
def TransferStarts (s : State) (cl co : Nat) (t : Thread) (x : PagerItem) (fill : Bool) (u : State) : Prop :=
  u.mem = s.mem ∧ ∃ y, (u.core cl co).xfers = (s.core cl co).xfers ++ [y] ∧ y.tid = t.tid ∧ y.item = x ∧ y.fill = fill ∧
    y.va = BitVec.ofNat 64 (itemVa t x)

/-- A spill starts for a victim (R80). -/
theorem chunkSpill_starts {s : State} {cl co : Nat} {t : Thread} {x : PagerItem} (ht : (s.core cl co).thread? t.tid = some t)
    (hv : (t.tid, x) ∈ s.victims (s.core cl co)) (ho : s.outstanding (s.core cl co) < Config.requestCount) :
    Then (.chunkSpill cl co t.tid x) s (fun u => TransferStarts s cl co t x false u ∧
      Has u cl co t.tid (fun t' => itemOut t' x = true ∧ t'.stk = t.stk)) := by
  refine ⟨_, exec_chunkSpill ht hv ho, ⟨rfl, s.newXfer t x false, ?_, rfl, rfl, rfl, rfl⟩, t.spilling x, ?_, itemOut_spilling x t, spilling_stk x t⟩
  · rw [core_startXfer_spill]
    rfl
  · rw [State.thread?, core_startXfer_spill, thread?_onThread _ _ (spilling_tid x)]
    exact congrArg (Option.map (Thread.spilling x)) ht

/-- A fill starts for an item that is out (R80). -/
theorem chunkFill_starts {s : State} {cl co : Nat} {t : Thread} {x : PagerItem} (ht : (s.core cl co).thread? t.tid = some t)
    (hf : s.fillReady (s.core cl co) t x = true) :
    Then (.chunkFill cl co t.tid x) s (fun u => TransferStarts s cl co t x true u ∧ Has u cl co t.tid (fun t' => t' = t)) := by
  refine ⟨_, exec_chunkFill ht hf, ⟨rfl, s.newXfer t x true, ?_, rfl, rfl, rfl, rfl⟩, t, ?_, rfl⟩
  · rw [core_startXfer_fill]
  · rw [State.thread?, core_startXfer_fill]
    exact ht

section Ends
variable {s s1 : State} {id j : Nat} {c : Core} {x : Transfer} {t : Thread}

/-- A thread is on its core still where the cores are as they were. -/
theorem thread?_of_ending {u : State} (h : s.Ending id c x t) (hc : s.core c.cl c.co = c) (hu : u.cores = s.cores) :
    u.thread? c.cl c.co x.tid = some t := by
  rw [State.thread?, core_of_cores hu, hc]
  exact h.thread

/-- A fill of a chunk is done: its words are as memory held them (R80). -/
theorem fill_ends {l : List PWord} (h : s.Ending id c x t) (hc : s.core c.cl c.co = c) (hj : x.item = .chunk j) (hfill : x.fill = true)
    (hr : s.itemRead c.cl c.co (s.ctxOfThread t) x.va.toNat = (s1, .ok l)) (h1 : s1.cores = s.cores) :
    Then (.chunkTransferDone id) s (fun u => u.mem = s1.mem ∧ Has u c.cl c.co x.tid (· = putItem t (.chunk j) l)) := by
  have hexec := exec_chunkTransferDone_fill h hfill hr
  rw [tripLatent_chunk hj, hj] at hexec
  refine ⟨_, hexec, rfl, _, ?_, rfl⟩
  rw [thread?_xferOver (fun u => putItem_tid u _ l), thread?_of_ending h hc h1]
  rfl

/-- A spill of a chunk is done: its words are in memory and no longer in the register file (R58, R80). -/
theorem spill_ends (h : s.Ending id c x t) (hc : s.core c.cl c.co = c) (hj : x.item = .chunk j) (hfill : x.fill = false)
    (hw : s.itemWrite c.cl c.co (s.ctxOfThread t) x.va.toNat (chunkWords t j) = (s1, .ok ())) (h1 : s1.cores = s.cores) :
    Then (.chunkTransferDone id) s (fun u => ((∀ y ∈ chunkWords t j, y.poison = false) → u.mem = s1.mem ∧ u.poison = s1.poison) ∧
      Has u c.cl c.co x.tid (· = dropItem t (.chunk j))) := by
  have hwords : itemWords t x.item = chunkWords t j := by rw [hj]; rfl
  have hexec := exec_chunkTransferDone_spill h hfill (hwords.symm ▸ hw)
  rw [hwords, hj] at hexec
  refine ⟨_, hexec, fun hp => ?_, _, ?_, rfl⟩
  · rw [spillLatent_eq_self hp]
    exact ⟨rfl, rfl⟩
  · rw [thread?_xferOver (fun u => dropItem_tid u _), thread?_of_ending h hc ((spillLatent_cores ..).trans h1)]
    rfl

end Ends

/-- Settles O33, by the two starts and the two ends of a transfer. -/
theorem pagerMoves : Obligations.PagerMoves := by
  refine ⟨?_, ?_⟩
  · intro s cl co tid x t c ht htid Started
    subst htid
    have hstarted : ∀ u fill, TransferStarts s cl co t x fill u → Started u fill := fun u fill h => by
      obtain ⟨hmem, y, hy⟩ := h
      cases x <;> exact ⟨hmem, y, hy⟩
    refine ⟨fun hv ho => ?_, fun hf => ?_⟩
    · obtain ⟨u, hu, hstart, hhas⟩ := chunkSpill_starts ht hv ho
      exact ⟨u, hu, hstarted u false hstart, hhas⟩
    · obtain ⟨u, hu, hstart, hhas⟩ := chunkFill_starts ht hf
      exact ⟨u, hu, hstarted u true hstart, hhas⟩
  · intro s id j c x t s1 l hcore hc hxfer hfree ht hj hout cx
    have hend : s.Ending id c x t := ⟨hcore, hxfer, hfree, ht, by rw [hj]; exact List.contains_iff_mem.mpr hout⟩
    refine ⟨fun hfill hr h1 hl => ?_, fun hfill hw h1 => ?_⟩
    · obtain ⟨u, hu, hmem, t', ht', rfl⟩ := fill_ends hend hc hj hfill hr h1
      exact ⟨u, hu, hmem, _, ht', hj ▸ itemOut_putItem_chunk t j, fun n hn => putItem_chunk_words t j hn, fun w hw => putItem_chunk_kept t j hl hw⟩
    · obtain ⟨u, hu, hmem, t', ht', rfl⟩ := spill_ends hend hc hj hfill hw h1
      refine ⟨u, hu, hmem, _, ht', ?_, fun w hw => dropItem_chunk_kept t j hw⟩
      rw [hj, itemOut, dropItem, putChunk_spilled]
      exact List.contains_iff_mem.mpr hout

end Sys2Proof.Proofs

/-! PROOFS. What reset leaves (R110, R154, R365, R388, R392). -/

namespace Sys2Proof.Proofs
open Sys2Proof Sys2Proof.Machine Sys2Proof.Claims

/-- After reset every core is as it is before anything has touched it: no core is listed in the state. -/
theorem core_reset (cl co : Nat) : State.reset.core cl co = Core.fresh cl co := rfl

/-- Settles O57: every store and list is empty, every core is fresh, and the package's word and limit are the stated ones. That memory has nothing
listed and nothing poisoned is the model's choice (log entry 1), and so are the stores that the manual gives no state for (log entry 4). -/
theorem resetState : Obligations.ResetState := by
  refine ⟨rfl, rfl, rfl, rfl, fun cl co => ?_, rfl, rfl, rfl, by decide⟩
  rw [core_reset]
  exact ⟨rfl, rfl, rfl, fun _ => rfl⟩

end Sys2Proof.Proofs

/-! PROOFS. What one thread's serving comes to: the state after an operation that completes, and where a pass stops whose operation does not (R46, R47,
R54). -/

namespace Sys2Proof.Machine

/-! ### Where a pass stops (R54, R57) -/

/-- Where an operation that stops it leaves a pass: the state, with the pass as it stopped. -/
def State.stopped (s : State) (i : Issue) (k : Nat) (path : Path) (ctx : Nat) (h : Halt) : State :=
  { (stopAt s i k path ctx h).1 with cur := some (stopAt s i k path ctx h).2 }

/-- A stop does not look at whether the operation takes faults, and leaves that as it is. -/
theorem stopAt_soft (b : Bool) (s : State) (i : Issue) (k : Nat) (path : Path) (ctx : Nat) (h : Halt) :
    stopAt s { i with soft := b } k path ctx h = ((stopAt s i k path ctx h).1, { (stopAt s i k path ctx h).2 with soft := b }) := by
  induction h generalizing s with
  | seen s1 h ih => exact ih (s.keepChecks s1)
  | _ => rfl

theorem stopAt_keeps_soft (s : State) (i : Issue) (k : Nat) (path : Path) (ctx : Nat) (h : Halt) : (stopAt s i k path ctx h).2.soft = i.soft := by
  induction h generalizing s with
  | seen s1 h ih => exact ih (s.keepChecks s1)
  | _ => rfl

/-- A fault that takes no position qualifier stops the pass with its cause, and changes nothing else. -/
theorem stopped_trap (s : State) (i : Issue) (k : Nat) (path : Path) (ctx base : Nat) (addr : DWord) :
    s.stopped i k path ctx (.trap base false addr) = { s with cur := some { i with stop := some (.trap base k addr path) } } := rfl

/-- What stops the pass after checks of memory keeps what these have loaded (R331). -/
theorem stopped_seen (s : State) (i : Issue) (k : Nat) (path : Path) (ctx : Nat) (s1 : State) (h : Halt) :
    s.stopped i k path ctx (.seen s1 h) = (s.keepChecks s1).stopped i k path ctx h := rfl

/-- The stop of an operation of one active thread, of whatever kind, is the stop of its pass. -/
theorem serveOne_error {opc : Nat} {o : Ops} {f : Serve} {s : State} {i : Issue} {k : Nat} {h : Halt} {c : Core} {g : Group} {t : Thread}
    (ht : s.slotThread i k = some (c, g, t)) (hg : guardVal o t = ⟨true, false⟩) (hu : s.upsetOf i k = none)
    (hf : f i k (s.onThread i.cl i.co t.tid retire) = .error h) :
    serveOne f opc o s i k = stopAt s i k t.path (Env.of s c g).ctx h := by
  simp only [serveOne, ht, hg]
  simp [State.struck, hu, hf]

/-- So is that of a uniform operation, at its lowest thread (R57). -/
theorem serveUniform_error {f : Serve} {s : State} {i : Issue} {k : Nat} {l : List Nat} {h : Halt} {c : Core} {g : Group} {t : Thread}
    (hk : i.threads = k :: l) (ht : s.slotThread i k = some (c, g, t)) (hu : s.upsetOf i k = none) (hf : f i k (retiredAll s i) = .error h) :
    serveUniform f s i = stopAt s i k t.path (Env.of s c g).ctx h := by
  have hf' : f i k (i.threads.foldl (retireSlot i) s) = .error h := hf
  unfold serveUniform
  split
  · next h0 => simp [hk] at h0
  · next k' l' h0 =>
    obtain rfl : k = k' := (List.cons.inj (hk.symm.trans h0)).1
    simp [ht, State.struck, hu, hf']

end Sys2Proof.Machine

namespace Sys2Proof.Proofs
open Sys2Proof Sys2Proof.Machine Sys2Proof.Claims

section Serves
variable {ins : Instr} {opc : Nat} {o : Ops} {f : Serve} {s : State} {i : Issue} {k : Nat} {c : Core} {g : Group} {t : Thread}

/-- The served thread comes first in its pass. -/
theorem threads_of_serves (hs : Serves s i k c g t opc o) : ∃ l, i.threads = k :: l :=
  List.head?_eq_some_iff.mp hs.head

/-- The served thread, as its operation finds it: it and the others of the pass have retired. -/
theorem slotThread_of_serves (hs : Serves s i k c g t opc o) :
    (retiredAll s i).slotThread i k = some ((retiredAll s i).core i.cl i.co, g, retire t) := by
  obtain ⟨l, hk⟩ := threads_of_serves hs
  exact slotThread_retiredAll hs.slot (hk ▸ List.mem_cons_self)

/-- An operation that completes for the served thread is a step to the state it gives (R46, R47). -/
theorem runOp_of_ok {s2 : State} (hs : Serves s i k c g t opc o) (hd : ins.detail = none)
    (hf : f { i with soft := isSoft opc } k (retiredAll s i) = .ok s2) :
    runOp ins opc o f s = .next { s2 with cur := some (i.finished (opUniform opc o)) } := by
  obtain ⟨l, hk⟩ := threads_of_serves hs
  exact runOp_next hs.cur hk (fun h => (List.cons.inj (hk.symm.trans (hs.one h))).2) hs.slot hs.guard hs.upset hd hf

/-- One that does not complete stops its pass at the served thread (R54, R57). -/
theorem runOp_of_error {h : Halt} (hs : Serves s i k c g t opc o) (hd : ins.detail = none)
    (hf : f { i with soft := isSoft opc } k (retiredAll s i) = .error h) :
    runOp ins opc o f s = .next (s.stopped i k t.path (Env.of s c g).ctx h) := by
  obtain ⟨l, hk⟩ := threads_of_serves hs
  have hserved : (if opUniform opc o then serveUniform f s { i with soft := isSoft opc } else serveAll f opc o i.threads s { i with soft := isSoft opc }) =
      stopAt s { i with soft := isSoft opc } k t.path (Env.of s c g).ctx h := by
    cases hun : opUniform opc o with
    | true => exact serveUniform_error hk hs.slot hs.upset hf
    | false =>
      have hone := hs.one hun
      have hr : retiredAll s i = s.onThread i.cl i.co t.tid retire := by simp [retiredAll, hone, retireSlot, hs.slot]
      calc serveAll f opc o i.threads s { i with soft := isSoft opc }
          _ = serveAll f opc o [k] s { i with soft := isSoft opc } := congrArg (fun ks => serveAll f opc o ks s _) hone
          _ = serveOne f opc o s { i with soft := isSoft opc } k := serveAll_singleton ..
          _ = _ := serveOne_error hs.slot hs.guard hs.upset (hr ▸ hf)
  have hsoft : (stopAt s i k t.path (Env.of s c g).ctx h).2.soft = i.soft := stopAt_keeps_soft ..
  simp only [runOp, hs.cur, hd, hserved, stopAt_soft, ← hsoft]
  rfl

/-- An operation on registers that completes puts its thread and its group in place. -/
theorem runLane_of_ok {f : LaneOp} {x : Thread × Group} (hs : Serves s i k c g t opc o) (hd : ins.detail = none)
    (hf : f (Env.of s c g) (retire t) g = .ok x) : runLane ins opc o f s = After s i (opUniform opc o) x := by
  obtain ⟨l, hk⟩ := threads_of_serves hs
  exact runLane_next hs.cur hk (fun h => (List.cons.inj (hk.symm.trans (hs.one h))).2) hs.slot hs.guard hs.upset hd hf

end Serves

end Sys2Proof.Proofs

/-! PROOFS. Logic, moves, selects and lea: the results of lane operations as functions of their operands (R105, R237 to R241). -/

namespace Sys2Proof.Machine

/-! ### bool3 (R237) -/

/-- A sum of distinct powers of two stays below the next one. -/
theorem sum_bits_lt (p : Nat → Bool) (n : Nat) : ((List.range n).map (fun j => if p j then 2 ^ j else 0)).foldl (· + ·) 0 < 2 ^ n := by
  induction n with
  | zero => exact Nat.one_pos
  | succ n ih =>
    simp only [List.range_succ, List.map_append, List.foldl_append, List.map_cons, List.map_nil, List.foldl_cons, List.foldl_nil]
    have hbit : (if p n then 2 ^ n else 0) ≤ 2 ^ n := by split <;> omega
    omega

theorem bit_bits_of_lt {w i : Nat} (h : i < w) (n : Nat) : bit (bits n 0 w) i = n.testBit i := by
  have hmod : (bits n 0 w).testBit i = n.testBit i := by simp [bits, Nat.testBit_mod_two_pow, h]
  rw [← hmod, Nat.testBit_eq_decide_div_mod_eq]
  rfl

/-- A number below 2^n is itself modulo 2^n. -/
theorem wrapInt_of_lt {n x : Nat} (h : x < 2 ^ n) : wrapInt n x = BitVec.ofNat 64 x := by
  have hmod : ((x : Int) % (2 ^ n : Int)).toNat = x := by
    norm_cast
    exact Nat.mod_eq_of_lt h
  rw [wrapInt, hmod]

/-- bool3's result, with the map read from the immediate's low byte. -/
theorem resBool3_eq (imm : Word) (n : Nat) (sg : Bool) (a b c : DWord) :
    resBool3 (bits imm.toNat 0 8) n sg a b c = wrapInt n (((List.range n).map (fun j =>
      if imm.getLsbD ((if a.getLsbD j then 1 else 0) + (if b.getLsbD j then 2 else 0) + (if c.getLsbD j then 4 else 0)) then 2 ^ j
      else 0)).foldl (· + ·) 0 : Nat) := by
  have hbit : ∀ j, bit (bits imm.toNat 0 8) ((if a.getLsbD j then 1 else 0) + (if b.getLsbD j then 2 else 0) + (if c.getLsbD j then 4 else 0)) =
      imm.getLsbD ((if a.getLsbD j then 1 else 0) + (if b.getLsbD j then 2 else 0) + (if c.getLsbD j then 4 else 0)) := fun j =>
    bit_bits_of_lt (by grind) imm.toNat
  rw [wrapInt_of_lt (sum_bits_lt _ n), List.foldl_map, resBool3]
  simp only [hbit]

end Sys2Proof.Machine

namespace Sys2Proof.Proofs
open Sys2Proof Sys2Proof.Machine Sys2Proof.Claims

/-- A lane operation with one destination gives it its result, where the result does not look at the retirement. -/
theorem gives_of_laneRes {ins : Instr} {opc : Nat} {o : Ops} {f val : Env → Thread → Group → DWord}
    (hexec : ∀ s, exec ins s = runLane ins opc o (laneRes opc o f) s) (hval : ∀ e t g, f e (retire t) g = val e t g) : Gives ins opc o val := by
  intro s i k c g t hs hd hr
  have hread : operandHalt (retire t) g o (widths opc o) 0 0 0 = none := hr
  rw [hexec]
  refine runLane_of_ok hs hd ?_
  simp only [laneRes, hread, hval]

/-- An integer operation whose function does not look at the width gives every bit of it. -/
theorem givesBits_of_runInt {mk : Ops → Instr} {opc : Nat} {f : DWord → DWord → DWord → DWord}
    (hexec : ∀ o s, exec (mk o) s = runInt (mk o) opc o (fun _ _ => f) s) : GivesBits mk opc f :=
  fun o => gives_of_laneRes (hexec o) (fun _ _ _ => rfl)

theorem givesInt_bool3 : GivesInt .bool3 0x095 (fun o n _ a b c => (((List.range n).map (fun j =>
    if o.imm.getLsbD ((if a.getLsbD j then 1 else 0) + (if b.getLsbD j then 2 else 0) + (if c.getLsbD j then 4 else 0)) then 2 ^ j
    else 0)).foldl (· + ·) 0 : Nat)) := by
  intro o
  exact gives_of_laneRes (fun _ => rfl) (fun _ _ _ => resBool3_eq o.imm (opBits o) (opSigned o) _ _ _)

/-- Settles O4: each operation is a lane operation with one destination, and its result is the stated one; for bool3 the sum of its bits. -/
theorem logicResults : Obligations.LogicResults := by
  refine ⟨?_, ?_, ?_, ?_, ?_, givesInt_bool3, ?_, ?_, fun o => ?_, fun o => ?_, fun o => ?_⟩
  case refine_1 | refine_2 | refine_3 | refine_4 | refine_5 | refine_6 | refine_7 => exact givesBits_of_runInt (fun _ _ => rfl)
  · exact gives_of_laneRes (f := fun e t g => srcRes 0x0C2 o (opSigned o) (fun a b _ => if rdP o t g o.c then a else b) e t g)
      (fun _ => rfl) (fun _ _ _ => rfl)
  · exact gives_of_laneRes (f := fun _ t g => if rdP o t g o.a then 1 else 0) (fun _ => rfl) (fun _ _ _ => rfl)
  · exact gives_of_laneRes (f := fun e t g => effAddr e o t g o.imm) (fun _ => rfl) (fun _ _ _ => rfl)

end Sys2Proof.Proofs

/-! PROOFS. How an access is checked and issued: the order of its checks, what issuing it leaves of the state, and the stop of a pass whose check
fails (R105, R106, R113, R116, R264, R265, R331, R334). -/

namespace Sys2Proof.Machine

/-! ### Where a check fails (R106, R113, R264, R265) -/

/-- An access whose first byte, and whose first byte on a second page where it reaches one, have canonical addresses (R265). -/
def WholeCanonical (a n : Nat) : Prop :=
  canonicalVa a = true ∧ ((a / 4096 + 1) * 4096 < a + n → canonicalVa ((a / 4096 + 1) * 4096 % 2 ^ 64) = true)

theorem firstNonCanonical_first {a : Nat} (h : canonicalVa a = false) (n : Nat) : firstNonCanonical a n = some a := by
  simp [firstNonCanonical, h]

theorem firstNonCanonical_second {a n : Nat} (h : canonicalVa a = true) (hlt : (a / 4096 + 1) * 4096 < a + n)
    (h2 : canonicalVa ((a / 4096 + 1) * 4096 % 2 ^ 64) = false) : firstNonCanonical a n = some ((a / 4096 + 1) * 4096 % 2 ^ 64) := by
  simp only [firstNonCanonical, h, hlt, h2]
  rfl

theorem firstNonCanonical_none {a n : Nat} (h : WholeCanonical a n) : firstNonCanonical a n = none := by
  obtain ⟨h1, h2⟩ := h
  simpa [firstNonCanonical, h1] using h2

section Checks
variable {s : State} {cl co : Nat} {c : Context} {t : Thread} {acc a n : Nat}

theorem checkAccess_gm_noncanonical {b : Nat} (h : firstNonCanonical a n = some b) :
    s.checkAccess cl co c t 0 acc a n = (s, .error (spaceFault 4 0 acc b)) := by
  simp [State.checkAccess, h]

theorem checkAccess_gm_misaligned (h : WholeCanonical a n) (hacc : acc = 2) (hn : a % n ≠ 0) :
    s.checkAccess cl co c t 0 acc a n = (s, .error (spaceFault 7 0 acc a)) := by
  simp [State.checkAccess, firstNonCanonical_none h, hacc, hn]

theorem checkAccess_gm_page {s1 : State} {f : PageFault} (h : WholeCanonical a n) (hacc : acc = 2 → a % n = 0)
    (hf : s.checkGm cl co c ⟨acc, acc != 1, acc != 0, recordAccess c t a n && acc != 2⟩ a n = (s1, .error f)) :
    s.checkAccess cl co c t 0 acc a n = (s1, .error (.seen s1 (pageHalt c acc f))) := by
  have hal : (acc == 2 && a % n != 0) = false := by simpa using hacc
  simp only [State.checkAccess, firstNonCanonical_none h, hal]
  rw [show (!(acc == 2)) = (acc != 2) from rfl, hf]
  rfl

theorem checkAccess_sp_window (h : s.spPart cl c.ctx a n = none) : s.checkAccess cl co c t 1 acc a n = (s, .error (spaceFault 8 1 acc a)) := by
  simp [State.checkAccess, h]

theorem checkAccess_sp_misaligned {p : Part} (h : s.spPart cl c.ctx a n = some p) (hn : a % n ≠ 0) :
    s.checkAccess cl co c t 1 acc a n = (s, .error (spaceFault 7 1 acc a)) := by
  simp [State.checkAccess, h, hn]

theorem checkAccess_bk_window (h : bkPart c a n = none) : s.checkAccess cl co c t 2 acc a n = (s, .error (spaceFault 9 2 acc a)) := by
  simp [State.checkAccess, h]

theorem checkAccess_bk_misaligned {p : Part} (h : bkPart c a n = some p) (hn : a % n ≠ 0) :
    s.checkAccess cl co c t 2 acc a n = (s, .error (spaceFault 7 2 acc a)) := by
  simp [State.checkAccess, h, hn]

/-- The core that a register address names (R113). -/
def rgCore (a : Nat) : Nat := a / 2 ^ 25 % 2 ^ 7

/-- The thread that a register address names (R113). -/
def State.rgThread (s : State) (cl a : Nat) : Option Thread :=
  ((s.core cl (rgCore a)).group? (a / 2 ^ 19 % 2 ^ 6)).bind (fun h => (s.core cl (rgCore a)).threadAt h (a / 2 ^ 14 % 2 ^ 5))

/-- A register access lies in the registers of a live thread, its zero fields zero (R113). -/
abbrev State.RgInside (s : State) (x : Thread) (a n : Nat) : Prop := a / 2 ^ 7 % 2 ^ 7 = 0 ∧ x.live = true ∧ a % 2 ^ 7 + n / 4 ≤ s.frameOf x

theorem checkAccess_rg_nobody (h : s.rgThread cl a = none) : s.checkAccess cl co c t 3 acc a n = (s, .error (spaceFault 4 3 acc a)) := by
  have hx : ((s.core cl (bits a 25 7)).group? (bits a 19 6)).bind (fun g => (s.core cl (bits a 25 7)).threadAt g (bits a 14 5)) = none := h
  simp only [State.checkAccess, rgFound, hx]

/-- The checks of a register access to a thread that is there, one after the other (R113, R264). -/
theorem checkAccess_rg {x : Thread} (h : s.rgThread cl a = some x) :
    s.checkAccess cl co c t 3 acc a n = (s,
      if ¬ s.RgInside x a n then .error (spaceFault 4 3 acc a)
      else if t.level = .user ∧ rgCore a ≠ co then .error (spaceFault 5 3 acc a)
      else if n = 8 ∧ a % 2 ^ 7 % 2 ≠ 0 then .error (spaceFault 7 3 acc a)
      else .ok (.reg cl (rgCore a) x.tid (x.wb + a % 2 ^ 7))) := by
  have hx : ((s.core cl (bits a 25 7)).group? (bits a 19 6)).bind (fun g => (s.core cl (bits a 25 7)).threadAt g (bits a 14 5)) = some x := h
  have hin : (bits a 7 7 != 0 || !x.live || decide (s.frameOf x < bits a 0 7 + n / 4)) = true ↔ ¬ s.RgInside x a n := by
    simp only [bits, State.RgInside]
    simp
    grind
  have hlev : (t.level == .user && bits a 25 7 != co) = true ↔ t.level = .user ∧ rgCore a ≠ co := by simp [bits, rgCore]
  have hodd : (n == 8 && bits a 0 7 % 2 != 0) = true ↔ n = 8 ∧ a % 2 ^ 7 % 2 ≠ 0 := by simp [bits]
  simp only [State.checkAccess, rgFound, hx, hin, hlev, hodd]
  simp [bits, rgCore]

theorem checkAccess_rg_outside {x : Thread} (h : s.rgThread cl a = some x) (hout : ¬ s.RgInside x a n) :
    s.checkAccess cl co c t 3 acc a n = (s, .error (spaceFault 4 3 acc a)) := by
  rw [checkAccess_rg h, if_pos hout]

theorem checkAccess_rg_elsewhere {x : Thread} (h : s.rgThread cl a = some x) (hin : s.RgInside x a n) (hlev : t.level = .user) (hco : rgCore a ≠ co) :
    s.checkAccess cl co c t 3 acc a n = (s, .error (spaceFault 5 3 acc a)) := by
  rw [checkAccess_rg h, if_neg (not_not_intro hin), if_pos ⟨hlev, hco⟩]

theorem checkAccess_rg_misaligned {x : Thread} (h : s.rgThread cl a = some x) (hin : s.RgInside x a n) (hlev : ¬ (t.level = .user ∧ rgCore a ≠ co))
    (hn : n = 8) (hodd : a % 2 ^ 7 % 2 ≠ 0) : s.checkAccess cl co c t 3 acc a n = (s, .error (spaceFault 7 3 acc a)) := by
  rw [checkAccess_rg h, if_neg (not_not_intro hin), if_neg hlev, if_pos ⟨hn, hodd⟩]

end Checks

/-! ### Room for a request (R116) -/

/-- What an access asks room for: its own requests, or those of a register access (R116). -/
def State.roomForFound (s : State) (i : Issue) (op : AccOp) (f : Found) : Bool :=
  match f with
  | .parts ps => s.roomFor i op ps
  | .reg cl co tid w => s.roomFor i (.rgLoad cl co tid w) []

section Found
variable {s s1 : State} {i : Issue} {e : Env} {t : Thread} {sp acc ea n : Nat} {op : AccOp} {f : Found}

theorem found_error {h : Halt} (hc : s.checkAccess e.cl e.co (s.ctxOf e.ctx) t sp acc ea n = (s1, .error h)) :
    s.found i e t sp acc ea n op = .error h := by
  simp only [State.found, hc]

theorem found_ok (hc : s.checkAccess e.cl e.co (s.ctxOf e.ctx) t sp acc ea n = (s1, .ok f)) (hr : s1.roomForFound i op f = true) :
    s.found i e t sp acc ea n op = .ok (s1, f) := by
  simp only [State.found, hc]
  exact if_pos hr

/-- Without a free request entry the access waits, with the translations that its checks have loaded (R116, R331). -/
theorem found_full (hc : s.checkAccess e.cl e.co (s.ctxOf e.ctx) t sp acc ea n = (s1, .ok f)) (hr : s1.roomForFound i op f = false) :
    s.found i e t sp acc ea n op = .error (.seen s1 .room) := by
  simp only [State.found, hc]
  exact if_neg (Bool.not_eq_true _ ▸ hr)

end Found

/-! ### What issuing changes (R65, R116, R120, R123, R382) -/

/-- A state with other cores, and otherwise as it was. -/
def State.OnlyCores (s u : State) : Prop := ∃ cs, u = { s with cores := cs }

theorem State.OnlyCores.refl (s : State) : s.OnlyCores s := ⟨s.cores, rfl⟩

theorem State.OnlyCores.trans {s u v : State} (h1 : s.OnlyCores u) (h2 : u.OnlyCores v) : s.OnlyCores v := by
  obtain ⟨cs, rfl⟩ := h1
  obtain ⟨cs', rfl⟩ := h2
  exact ⟨cs', rfl⟩

theorem onlyCores_setCore (s : State) (c : Core) : s.OnlyCores (s.setCore c) := ⟨_, rfl⟩

theorem onlyCores_onGroup (s : State) (cl co gs : Nat) (f : Group → Group) : s.OnlyCores (s.onGroup cl co gs f) := onlyCores_setCore s _

theorem onlyCores_onThread (s : State) (cl co tid : Nat) (f : Thread → Thread) : s.OnlyCores (s.onThread cl co tid f) := onlyCores_setCore s _

theorem onlyCores_foldl {α : Type} {f : State → α → State} (h : ∀ (s : State) x, s.OnlyCores (f s x)) (l : List α) (s : State) :
    s.OnlyCores (l.foldl f s) := by
  induction l generalizing s with
  | nil => exact .refl s
  | cons x l ih => exact (h s x).trans (ih (f s x))

/-- The store hash is a matter of groups and threads (R382). -/
theorem onlyCores_hashKnown (s : State) (cl co gs ck : Nat) : s.OnlyCores (s.hashKnown cl co gs ck) := by
  unfold State.hashKnown
  split
  · exact .refl s
  · exact (onlyCores_onGroup ..).trans (onlyCores_foldl (fun st x => onlyCores_onThread st ..) _ _)

theorem onlyCores_hashWrite (s : State) (cl co gs tid : Nat) (x : Session) (space : Space) (ea n data : Nat) (acc : Option Nat) :
    s.OnlyCores (s.hashWrite cl co gs tid x space ea n data acc) := by
  simp only [State.hashWrite]
  split
  · split
    · exact .refl s
    · exact (onlyCores_onGroup ..).trans (onlyCores_hashKnown ..)
  · exact .refl s

/-- What an access asks for, as its thread issues it (R266). -/
structure Access.Asks (a : Access) (o : Ops) (t : Thread) (op : AccOp) (ea : DWord) (ps : List Part) (width : Nat) (long : Option Nat) (sext : Bool) :
    Prop where
  op : a.op = op
  ea : a.ea = ea
  parts : a.parts = ps
  width : a.width = width
  long : a.long = long
  sext : a.sext = sext
  tid : a.tid = t.tid
  ord : a.ord = ordOf o

/-- The accesses once one more is issued: a release fence covers those before it (R123). -/
def accsWith (l : List Access) (a : Access) : List Access := if a.releases then fenceMissed a l ++ [a] else l ++ [a]

/-- Issuing an access adds it to those not yet performed, and hashes it in its group; nothing else changes. -/
theorem issueAccess_adds (s : State) (i : Issue) (e : Env) (o : Ops) (t : Thread) (also : List Nat) (op : AccOp) (ea : DWord) (ps : List Part)
    (width : Nat) (long : Option Nat) (sext : Bool) : ∃ a : Access, a.Asks o t op ea ps width long sext ∧
      State.OnlyCores { s with nextId := s.nextId + 1, accs := accsWith s.accs a } (s.issueAccess i e o t also op ea ps width long sext) := by
  simp only [State.issueAccess, State.freshId]
  split
  · exact ⟨_, ⟨rfl, rfl, rfl, rfl, rfl, rfl, rfl, rfl⟩, onlyCores_hashWrite ..⟩
  · exact ⟨_, ⟨rfl, rfl, rfl, rfl, rfl, rfl, rfl, rfl⟩, .refl _⟩

/-- A long operation as it starts: its thread, the words it will write, its result where that is known already (R65, R199). -/
structure LongOp.Starts (l : LongOp) (t : Thread) (dests : List Dest) (data : Option (List PWord)) : Prop where
  tid : l.tid = t.tid
  dests : l.dests = dests
  data : l.data = data

/-- Starting a long operation adds it to those that have not landed, and counts it in its flag; nothing else changes. -/
theorem startLong_adds (s : State) (i : Issue) (t : Thread) (also : List Nat) (dests : List Dest) (data : Option (List PWord)) :
    ∃ l : LongOp, l.Starts t dests data ∧ (s.startLong i t also dests data).1 = l.id ∧
      State.OnlyCores { s with nextId := s.nextId + 1, longs := s.longs ++ [l] } (s.startLong i t also dests data).2 :=
  ⟨_, ⟨rfl, rfl, rfl⟩, rfl, _, rfl⟩

/-- An access that is no fence covers none before it. -/
theorem accsWith_of_not_fence {a : Access} (h : a.isFence = false) (l : List Access) : accsWith l a = l ++ [a] := by
  simp [accsWith, Access.releases, h]

/-- No register access of a user is audited (R342). -/
theorem auditRg_user {t : Thread} (h : t.level = .user) (s : State) (i : Issue) (d : Nat) : s.auditRg i t d = s := by
  simp [State.auditRg, h]

/-- What issuing leaves of the state that its checks left: one more access, perhaps a long operation, memory as it was. -/
structure Adds (s u : State) (a : Access) (ls : List LongOp) : Prop where
  accs : u.accs = accsWith s.accs a
  longs : u.longs = s.longs ++ ls
  mem : u.mem = s.mem

/-- An access that lands no word. -/
theorem issueAccess_alone (s : State) (i : Issue) (e : Env) (o : Ops) (t : Thread) (also : List Nat) (op : AccOp) (ea : DWord) (ps : List Part)
    (width : Nat) (sext : Bool) :
    ∃ a, a.Asks o t op ea ps width none sext ∧ Adds s (s.issueAccess i e o t also op ea ps width none sext) a [] := by
  obtain ⟨a, ha, cs, hu⟩ := issueAccess_adds s i e o t also op ea ps width none sext
  exact ⟨a, ha, by rw [hu], by rw [hu, List.append_nil], by rw [hu]⟩

/-- An access with a long operation that lands its words. -/
theorem issueAccess_long (s : State) (i : Issue) (e : Env) (o : Ops) (t : Thread) (also : List Nat) (dests : List Dest) (op : AccOp) (ea : DWord)
    (ps : List Part) (width : Nat) (sext : Bool) :
    ∃ a l, a.Asks o t op ea ps width (some l.id) sext ∧ l.Starts t dests none ∧
      Adds s ((s.startLong i t also dests none).2.issueAccess i e o t also op ea ps width (some (s.startLong i t also dests none).1) sext) a [l] := by
  obtain ⟨l, hl, hid, cs, hs⟩ := startLong_adds s i t also dests none
  obtain ⟨a, ha, cs', hu⟩ := issueAccess_adds (s.startLong i t also dests none).2 i e o t also op ea ps width (some l.id) sext
  rw [hid]
  exact ⟨a, l, ha, hl, by rw [hu, hs], by rw [hu, hs], by rw [hu, hs]⟩

end Sys2Proof.Machine

namespace Sys2Proof.Proofs
open Sys2Proof Sys2Proof.Machine Sys2Proof.Claims

/-! ### The stop of a pass whose check fails (R54, R264, R334) -/

section Stops
variable {ins : Instr} {s : State} {i : Issue} {k : Nat} {path : Path} {ctx : Nat}

/-- A check that fails on a space and kind of access stops the pass with the class, the qualifier of both and the address (R106). -/
theorem stopsAt_of_spaceFault {cls sp acc a : Nat} (h : exec ins s = .next (s.stopped i k path ctx (spaceFault cls sp acc a))) :
    StopsAt ins s i (16 * cls + 4 * sp + acc) k (BitVec.ofNat 64 a) path := by
  rw [spaceFault, stopped_trap] at h
  rw [StopsAt, h, Nat.mul_comm 16, Nat.mul_comm 4]

/-- So does a page that a check finds unfit, but for one that resolve mode waits for, and one that cannot be reached now (R334, R376). -/
theorem pageStops_of_pageHalt {c : Context} {acc : Nat} {s1 : State} {f : PageFault} (hacc : acc ≤ 2)
    (h : exec ins s = .next (s.stopped i k path ctx (.seen s1 (pageHalt c acc f)))) : PageStops ins s i c acc k path f := by
  rw [stopped_seen] at h
  cases f with
  | translation inv va =>
    by_cases hw : inv = true ∧ c.trapMode = false
    · obtain ⟨rfl, hm⟩ := hw
      have hkind : accKind acc = if acc = 0 then .read else if acc = 1 then .write else .atomic := by
        obtain rfl | rfl | rfl : acc = 0 ∨ acc = 1 ∨ acc = 2 := by omega
        all_goals rfl
      have hp : pageHalt c acc (.translation true va) = .page va (accKind acc) := by simp [pageHalt, hm]
      rw [hp] at h
      simp only [PageStops, hm, and_self, if_true]
      exact ⟨_, h, rfl, rfl, rfl, rfl, _, rfl, rfl, rfl, rfl, rfl, hkind, rfl⟩
    · have hp : pageHalt c acc (.translation inv va) = spaceFault 4 0 acc va := by
        have hb : (inv && !c.trapMode) = false := by simpa using hw
        simp [pageHalt, hb]
      rw [hp] at h
      simp only [PageStops, hw, if_false]
      exact ⟨_, h, rfl, rfl, rfl, rfl, rfl, rfl⟩
  | permission va => exact ⟨_, h, rfl, rfl, rfl, rfl, rfl, rfl⟩
  | protection va => exact ⟨_, h, rfl, rfl, rfl, rfl, rfl, rfl⟩
  | unreachable va => exact ⟨_, h, rfl, rfl, rfl, rfl, rfl, rfl⟩

/-- Without a free request entry the pass waits at its thread (R116). -/
theorem waits_of_room {s1 : State} (h : exec ins s = .next (s.stopped i k path ctx (.seen s1 .room))) :
    Then ins s (fun u => u.accs = s.accs ∧ u.longs = s.longs ∧ u.cores = s.cores ∧ u.cur = some { i with wait := some .requests }) :=
  ⟨_, h, rfl, rfl, rfl, rfl⟩

end Stops

/-- An operation on memory that, once its operands can be read, has its access found, and stops where that fails: `op` is what it asks of memory, all
of which ask for the same room, and `ea` its effective address, which does not look at the retirement. -/
structure Accesses (ins : Instr) (opc acc : Nat) (o : Ops) (op : AccOp → Prop) (ea : Env → Thread → Group → Nat) (f : Serve) : Prop where
  runs : ∀ s, exec ins s = runOp ins opc o f s
  kind : acc ≤ 2
  alike : ∀ x y, op x → op y → ∀ (s : State) i ps, s.roomFor i x ps = s.roomFor i y ps
  place : ∀ e t g, ea e (retire t) g = ea e t g
  stops : ∀ (s : State) i k c g t, s.slotThread i k = some (c, g, t) →
    operandHalt t g o (widths opc o) (sourceRoles opc).1 (sourceRoles opc).2.1 (sourceRoles opc).2.2 = none →
    ∃ x, op x ∧ ∀ h, s.found i (Env.of s c g) t (spOf o) acc (ea (Env.of s c g) t g) (memBytes o.t.val) x = .error h → f i k s = .error h

section Accesses
variable {ins : Instr} {opc acc : Nat} {o : Ops} {op : AccOp → Prop} {ea : Env → Thread → Group → Nat} {f : Serve}
  {s : State} {i : Issue} {k : Nat} {c : Core} {g : Group} {t : Thread}

/-- The access is found in the state and for the thread that the pass leaves once it has retired; where it is not, the pass stops. -/
theorem exec_of_not_found (ha : Accesses ins opc acc o op ea f) (hs : Serves s i k c g t opc o) (hd : ins.detail = none)
    (hr : operandHalt t g o (widths opc o) (sourceRoles opc).1 (sourceRoles opc).2.1 (sourceRoles opc).2.2 = none) :
    ∃ x, op x ∧ ∀ h, (retiredAll s i).found i (Env.of s c g) (retire t) (spOf o) acc (ea (Env.of s c g) t g) (memBytes o.t.val) x = .error h →
      exec ins s = .next (s.stopped i k t.path (Env.of s c g).ctx h) := by
  obtain ⟨x, hx, hstop⟩ := ha.stops (retiredAll s i) { i with soft := isSoft opc } k _ g (retire t) (slotThread_of_serves hs) hr
  rw [env_retiredAll hs.slot, ha.place] at hstop
  exact ⟨x, hx, fun h hf => (ha.runs s).trans (runOp_of_error hs hd (hstop h hf))⟩

/-- So a check that fails stops the pass. -/
theorem exec_of_check_error {h : Halt} {s1 : State} (ha : Accesses ins opc acc o op ea f) (hs : Serves s i k c g t opc o) (hd : ins.detail = none)
    (hr : operandHalt t g o (widths opc o) (sourceRoles opc).1 (sourceRoles opc).2.1 (sourceRoles opc).2.2 = none)
    (hc : (retiredAll s i).checkAccess (Env.of s c g).cl (Env.of s c g).co ((retiredAll s i).ctxOf (Env.of s c g).ctx) (retire t) (spOf o) acc
      (ea (Env.of s c g) t g) (memBytes o.t.val) = (s1, .error h)) :
    exec ins s = .next (s.stopped i k t.path (Env.of s c g).ctx h) := by
  obtain ⟨x, -, hstop⟩ := exec_of_not_found ha hs hd hr
  exact hstop h (found_error hc)

/-- And so does a core without room for the access. -/
theorem exec_of_no_room {s1 : State} {fd : Found} {x : AccOp} (ha : Accesses ins opc acc o op ea f) (hs : Serves s i k c g t opc o)
    (hd : ins.detail = none) (hr : operandHalt t g o (widths opc o) (sourceRoles opc).1 (sourceRoles opc).2.1 (sourceRoles opc).2.2 = none)
    (hc : (retiredAll s i).checkAccess (Env.of s c g).cl (Env.of s c g).co ((retiredAll s i).ctxOf (Env.of s c g).ctx) (retire t) (spOf o) acc
      (ea (Env.of s c g) t g) (memBytes o.t.val) = (s1, .ok fd)) (hx : op x) (hroom : s1.roomForFound i x fd = false) :
    exec ins s = .next (s.stopped i k t.path (Env.of s c g).ctx (.seen s1 .room)) := by
  obtain ⟨y, hy, hstop⟩ := exec_of_not_found ha hs hd hr
  have hroom' : s1.roomForFound i y fd = false := by
    cases fd with
    | parts ps => exact (ha.alike y x hy hx s1 i ps).trans hroom
    | reg => exact hroom
  exact hstop _ (found_full hc hroom')

/-- An operation on memory stops its pass in the order of R264, each check by its own lemma. -/
theorem checksFail_of_accesses (ha : Accesses ins opc acc o op ea f) : ChecksFail ins opc acc o op ea := by
  intro s i k c g t hs hd hr e r cx a n Stop
  have stop : ∀ {s1 : State} {cls sp b : Nat}, spOf o = sp →
      r.checkAccess e.cl e.co cx (retire t) sp acc a n = (s1, .error (spaceFault cls sp acc b)) → Stop cls b := by
    intro s1 cls sp b hsp hc
    subst hsp
    exact stopsAt_of_spaceFault (exec_of_check_error ha hs hd hr hc)
  refine ⟨fun hsp => ?_, fun hsp => ?_, fun hsp => ?_, fun hsp => ?_, fun s1 fd x hc hx hroom => ?_⟩
  · refine ⟨fun h => ?_, fun h hlt h2 => ?_, fun hw hacc hn => ?_, fun hw hacc s1 f hf => ?_⟩
    · exact stop hsp (checkAccess_gm_noncanonical (firstNonCanonical_first h n))
    · exact stop hsp (checkAccess_gm_noncanonical (firstNonCanonical_second h hlt h2))
    · exact stop hsp (checkAccess_gm_misaligned hw hacc hn)
    · exact pageStops_of_pageHalt ha.kind (exec_of_check_error ha hs hd hr (hsp ▸ checkAccess_gm_page hw hacc hf))
  · exact ⟨fun h => stop hsp (checkAccess_sp_window h), fun p h hn => stop hsp (checkAccess_sp_misaligned h hn)⟩
  · exact ⟨fun h => stop hsp (checkAccess_bk_window h), fun p h hn => stop hsp (checkAccess_bk_misaligned h hn)⟩
  · refine ⟨fun h => stop hsp (checkAccess_rg_nobody h), fun x hx => ⟨fun hout => ?_, fun hin hlev hco => ?_, fun hin hlev hn hodd => ?_⟩⟩
    · exact stop hsp (checkAccess_rg_outside hx hout)
    · exact stop hsp (checkAccess_rg_elsewhere hx hin hlev hco)
    · exact stop hsp (checkAccess_rg_misaligned hx hin hlev hn hodd)
  · refine waits_of_room (exec_of_no_room ha hs hd hr hc hx ?_)
    cases fd <;> exact hroom

end Accesses

end Sys2Proof.Proofs

/-! PROOFS. Loads and stores as they issue, and where their checks fail (R116, R204, R264, R267, R268). -/

namespace Sys2Proof.Machine

section Serve
variable {s s1 : State} {i : Issue} {k : Nat} {c : Core} {g : Group} {t : Thread} {o : Ops} {e : Env}

/-! ### What ld and st do for one thread (R114, R267, R268) -/

/-- The address of a load as its access holds it. -/
theorem ofNat_memEa (e : Env) (o : Ops) (t : Thread) (g : Group) : BitVec.ofNat 64 (memEa e o t g) = effAddr e o t g o.imm :=
  BitVec.ofNat_toNat .. |>.trans (BitVec.setWidth_eq _)

/-- What the operands of a store move, lowest byte first (R268). -/
def storeData (e : Env) (o : Ops) (t : Thread) (g : Group) : List Byte :=
  ((storeWords e o t g (memWords o.t.val)).flatMap (fun x => leBytes 4 x.toNat)).take (memBytes o.t.val)

section Ld
variable (hslot : s.slotThread i k = some (c, g, t)) (he : Env.of s c g = e) (hr : operandHalt t g o (widths 0x1C0 o) 1 1 0 = none)
include hslot he hr

theorem serveLd_error {h : Halt} (hf : s.found i e t (spOf o) 0 (memEa e o t g) (memBytes o.t.val) .load = .error h) :
    serveLd o i k s = .error h := by
  simp only [serveLd, hslot, he, hr, hf]

/-- A load of memory issues an access for its parts, with a long operation that lands its words (R267). -/
theorem serveLd_parts {ps : List Part}
    (hf : s.found i e t (spOf o) 0 (memEa e o t g) (memBytes o.t.val) .load = .ok (s1, .parts ps)) :
    ∃ u a l, serveLd o i k s = .ok u ∧ Adds s1 u a [l] ∧ l.Starts t (longDests t o.d (widths 0x1C0 o).d) none ∧
      a.Asks o t .load (effAddr e o t g o.imm) ps (memBytes o.t.val) (some l.id) (o.t.val == 1 || o.t.val == 3) := by
  obtain ⟨a, l, ha, hl, hu⟩ := issueAccess_long s1 i e o t (s.others i t (opUniform 0x1C0 o)) (longDests t o.d (widths 0x1C0 o).d) .load
    (effAddr e o t g o.imm) ps (memBytes o.t.val) (o.t.val == 1 || o.t.val == 3)
  refine ⟨_, a, l, ?_, hu, hl, ha⟩
  simp only [serveLd, hslot, he, hr, hf, ofNat_memEa]

/-- A load of a register issues one for the register (R114). -/
theorem serveLd_reg {cl co tid w : Nat} (hlev : t.level = .user)
    (hf : s.found i e t (spOf o) 0 (memEa e o t g) (memBytes o.t.val) .load = .ok (s1, .reg cl co tid w)) :
    ∃ u a l, serveLd o i k s = .ok u ∧ Adds s1 u a [l] ∧ l.Starts t (longDests t o.d (widths 0x1C0 o).d) none ∧
      a.Asks o t (.rgLoad cl co tid w) (effAddr e o t g o.imm) [] (memBytes o.t.val) (some l.id) false := by
  obtain ⟨a, l, ha, hl, hu⟩ := issueAccess_long s1 i e o t (s.others i t (opUniform 0x1C0 o)) (longDests t o.d (widths 0x1C0 o).d)
    (.rgLoad cl co tid w) (effAddr e o t g o.imm) [] (memBytes o.t.val) false
  refine ⟨_, a, l, ?_, hu, hl, ha⟩
  simp only [serveLd, hslot, he, hr, hf, ofNat_memEa, auditRg_user hlev]

end Ld

section St
variable (hslot : s.slotThread i k = some (c, g, t)) (he : Env.of s c g = e) (hr : operandHalt t g o (widths 0x1C1 o) 1 1 2 = none)
include hslot he hr

theorem serveSt_error {h : Halt} (hf : s.found i e t (spOf o) 1 (effAddr e o t g (memDisp o)).toNat (memBytes o.t.val)
    (.store (storeData e o t g)) = .error h) : serveSt o i k s = .error h := by
  rw [storeData] at hf
  simp only [serveSt, hslot, he, hr, hf]

/-- A store to memory issues an access with its bytes (R268). -/
theorem serveSt_parts {ps : List Part}
    (hf : s.found i e t (spOf o) 1 (effAddr e o t g (memDisp o)).toNat (memBytes o.t.val)
      (.store (storeData e o t g)) = .ok (s1, .parts ps)) :
    ∃ u a, serveSt o i k s = .ok u ∧ Adds s1 u a [] ∧ a.Asks o t (.store (storeData e o t g))
      (effAddr e o t g (memDisp o)) ps (memBytes o.t.val) none false := by
  obtain ⟨a, ha, hu⟩ := issueAccess_alone s1 i e o t (s.others i t (opUniform 0x1C1 o)) (.store (storeData e o t g))
    (effAddr e o t g (memDisp o)) ps (memBytes o.t.val) false
  refine ⟨_, a, ?_, hu, ha⟩
  rw [storeData] at hf ⊢
  simp only [serveSt, hslot, he, hr, hf, BitVec.ofNat_toNat, BitVec.setWidth_eq]

/-- A store to a register is a long operation that lands no word of its thread (R114). -/
theorem serveSt_reg {cl co tid w : Nat} (hlev : t.level = .user)
    (hf : s.found i e t (spOf o) 1 (effAddr e o t g (memDisp o)).toNat (memBytes o.t.val)
      (.store (storeData e o t g)) = .ok (s1, .reg cl co tid w)) :
    ∃ u a l, serveSt o i k s = .ok u ∧ Adds s1 u a [l] ∧ l.Starts t [] none ∧
      a.Asks o t (.rgStore cl co tid w ((storeWords e o t g (memWords o.t.val)).take (memBytes o.t.val / 4)))
        (effAddr e o t g (memDisp o)) [] (memBytes o.t.val) (some l.id) false := by
  obtain ⟨a, l, ha, hl, hu⟩ := issueAccess_long s1 i e o t (s.others i t (opUniform 0x1C1 o)) []
    (.rgStore cl co tid w ((storeWords e o t g (memWords o.t.val)).take (memBytes o.t.val / 4)))
    (effAddr e o t g (memDisp o)) [] (memBytes o.t.val) false
  refine ⟨_, a, l, ?_, hu, hl, ha⟩
  rw [storeData] at hf
  simp only [serveSt, hslot, he, hr, hf, BitVec.ofNat_toNat, BitVec.setWidth_eq, auditRg_user hlev]

end St

end Serve

end Sys2Proof.Machine

namespace Sys2Proof.Proofs
open Sys2Proof Sys2Proof.Machine Sys2Proof.Claims

theorem isFence_of_asks {a : Access} {o : Ops} {t : Thread} {op : AccOp} {ea : DWord} {ps : List Part} {width : Nat} {long : Option Nat} {sext : Bool}
    (ha : a.Asks o t op ea ps width long sext) (hop : ∀ y lo hi, op ≠ .fence y lo hi) : a.isFence = false := by
  unfold Access.isFence
  rw [ha.op]
  cases op with
  | fence y lo hi => exact absurd rfl (hop y lo hi)
  | _ => rfl

/-- An access that is no fence comes behind those issued before it, which stay as they were. -/
theorem accs_of_adds {s u : State} {a : Access} {ls : List LongOp} {o : Ops} {t : Thread} {op : AccOp} {ea : DWord} {ps : List Part} {width : Nat}
    {long : Option Nat} {sext : Bool} (hu : Adds s u a ls) (ha : a.Asks o t op ea ps width long sext) (hop : ∀ y lo hi, op ≠ .fence y lo hi) :
    u.accs = s.accs ++ [a] :=
  hu.accs.trans (accsWith_of_not_fence (isFence_of_asks ha hop) _)

/-- The displacement of a store as the statements write it (R196, R261). -/
theorem memDisp_eq (o : Ops) : memDisp o = if o.b = .imm ∨ o.c = .imm then 0 else o.imm := by
  simp [memDisp]

theorem accesses_ld {ins : Instr} {o : Ops} (hexec : ∀ s, exec ins s = runOp ins 0x1C0 o (serveLd o) s) :
    Accesses ins 0x1C0 0 o (· = .load) (fun e t g => (effAddr e o t g o.imm).toNat) (serveLd o) where
  runs := hexec
  kind := by decide
  alike := fun x y hx hy s i ps => by rw [hx, hy]
  place := fun _ _ _ => rfl
  stops := fun s i k c g t hslot hr => ⟨.load, rfl, fun h hf => serveLd_error hslot rfl hr hf⟩

theorem accesses_st {ins : Instr} {o : Ops} (hexec : ∀ s, exec ins s = runOp ins 0x1C1 o (serveSt o) s) :
    Accesses ins 0x1C1 1 o (fun x => ∃ l, x = .store l) (storeEa o) (serveSt o) where
  runs := hexec
  kind := by decide
  alike := fun x y hx hy s i ps => by
    obtain ⟨l, rfl⟩ := hx
    obtain ⟨l', rfl⟩ := hy
    rfl
  place := fun _ _ _ => rfl
  stops := fun s i k c g t hslot hr => ⟨_, ⟨_, rfl⟩, fun h hf => serveSt_error hslot rfl hr (by rw [memDisp_eq]; exact hf)⟩

/-- Every form of ld issues its access, of memory or of a register (R267). -/
theorem loads_of_serveLd {ins : Instr} {o : Ops} (hexec : ∀ s, exec ins s = runOp ins 0x1C0 o (serveLd o) s) : Loads ins o := by
  intro s i k c g t s1 hs hd hr e r ea chk Done
  have hslot := slotThread_of_serves hs
  have henv : Env.of r (r.core i.cl i.co) g = e := env_retiredAll hs.slot
  have done : ∀ {op : AccOp} {ps : List Part} {sx : Bool}, (∀ y lo hi, op ≠ .fence y lo hi) →
      (∃ u a l, serveLd o { i with soft := isSoft 0x1C0 } k r = .ok u ∧ Adds s1 u a [l] ∧
        l.Starts (retire t) (longDests (retire t) o.d (widths 0x1C0 o).d) none ∧
        a.Asks o (retire t) op (effAddr e o (retire t) g o.imm) ps (memBytes o.t.val) (some l.id) sx) → Done op ps sx := by
    rintro op ps sx hop ⟨u, a, l, hserve, hu, hl, ha⟩
    have haccs := accs_of_adds hu ha hop
    exact ⟨_, a, l, (hexec s).trans (runOp_of_ok hs hd hserve), haccs, hu.longs, rfl, hu.mem,
      ha.op, ha.parts, ha.ea, ha.width, ha.tid, ha.ord, ha.sext, ha.long, hl.tid, hl.dests, hl.data⟩
  exact ⟨fun ps hc hroom => done nofun (serveLd_parts hslot henv hr (found_ok hc hroom)),
    fun cl co tid w hc hroom hlev => done nofun (serveLd_reg hslot henv hr hlev (found_ok hc hroom))⟩

/-- Every form of st issues its access, to memory or to a register (R268). -/
theorem stores_of_serveSt {ins : Instr} {o : Ops} (hexec : ∀ s, exec ins s = runOp ins 0x1C1 o (serveSt o) s) : Stores ins o := by
  intro s i k c g t s1 hs hd hr e r ea n chk words data Done
  have hslot := slotThread_of_serves hs
  have henv : Env.of r (r.core i.cl i.co) g = e := env_retiredAll hs.slot
  have hea : effAddr e o (retire t) g (memDisp o) = ea := congrArg (effAddr e o t g) (memDisp_eq o)
  refine ⟨fun ps hc hroom => ?_, fun cl co tid w hc hroom hlev => ?_⟩
  · obtain ⟨u, a, hserve, hu, ha⟩ := serveSt_parts (i := { i with soft := isSoft 0x1C1 }) hslot henv hr (by rw [hea]; exact found_ok hc hroom)
    have haccs := accs_of_adds hu ha nofun
    exact ⟨_, a, (hexec s).trans (runOp_of_ok hs hd hserve), haccs, rfl, hu.mem,
      ha.op, ha.parts, ha.ea.trans hea, ha.width, ha.tid, ha.ord, ha.long, hu.longs.trans (List.append_nil _)⟩
  · obtain ⟨u, a, l, hserve, hu, hl, ha⟩ := serveSt_reg (i := { i with soft := isSoft 0x1C1 }) hslot henv hr hlev
      (by rw [hea]; exact found_ok hc hroom)
    have haccs := accs_of_adds hu ha nofun
    exact ⟨_, a, (hexec s).trans (runOp_of_ok hs hd hserve), haccs, rfl, hu.mem,
      ha.op, ha.parts, ha.ea.trans hea, ha.width, ha.tid, ha.ord, l, hu.longs, ha.long, hl.tid, hl.dests⟩

theorem loadFails_of_serveLd {ins : Instr} {o : Ops} (hexec : ∀ s, exec ins s = runOp ins 0x1C0 o (serveLd o) s) : LoadFails ins o :=
  checksFail_of_accesses (accesses_ld hexec)

theorem storeFails_of_serveSt {ins : Instr} {o : Ops} (hexec : ∀ s, exec ins s = runOp ins 0x1C1 o (serveSt o) s) : StoreFails ins o :=
  checksFail_of_accesses (accesses_st hexec)

/-- Settles O13: every form of ld runs as ld does, and every form of st as st does, with the fields it expands to.
The checks of a register access are those made as it issues (log entry 18). -/
theorem loadsAndStoresIssue : Obligations.LoadsAndStoresIssue := by
  refine ⟨⟨?_, ?_, ?_, ?_, ?_⟩, ⟨?_, ?_, ?_, ?_, ?_⟩, ⟨?_, ?_, ?_, ?_, ?_⟩, ?_, ?_, ?_, ?_, ?_⟩
  case refine_1 | refine_2 | refine_3 | refine_4 | refine_5 => intros; exact loadFails_of_serveLd (fun _ => rfl)
  case refine_6 | refine_7 | refine_8 | refine_9 | refine_10 => intros; exact storeFails_of_serveSt (fun _ => rfl)
  case refine_11 | refine_12 | refine_13 | refine_14 | refine_15 => intros; exact loads_of_serveLd (fun _ => rfl)
  all_goals intros; exact stores_of_serveSt (fun _ => rfl)

end Sys2Proof.Proofs

/-! PROOFS. Atomics, reductions, pool loads, prefetches, cctl and fences as they issue (R115, R116, R264, R269 to R273, R276 to R278). -/

namespace Sys2Proof.Machine

/-! ### Atomics and reductions (R264, R272, R273) -/

/-- The address of an atomic or a reduction (R105, R261). -/
def atomPlace (e : Env) (o : Ops) (t : Thread) (g : Group) : DWord :=
  let base : Int := if spOf o < 2 then (rd64 e o t g o.a false).toNat else (rd32 e o t g o.a).toNat
  wrapInt (if spOf o < 2 then 64 else 32) (base + (memDisp o).toInt)

/-- The update that an atomic or a reduction makes (R271). -/
def atomOp (opc : Nat) (e : Env) (o : Ops) (t : Thread) (g : Group) : AccOp :=
  .update (o.mod.extractLsb' 8 4).toNat (atomSrc e o t g o.b) (atomSrc e o t g o.c) (opc == 0x1C5)

/-- The words that an atomic writes; a reduction writes none (R272, R273). -/
def atomDests (opc : Nat) (o : Ops) (t : Thread) : List Dest := if opc == 0x1C4 then longDests t o.d (widths opc o).d else []

section Atom
variable {s s1 : State} {i : Issue} {k opc : Nat} {c : Core} {g : Group} {t : Thread} {o : Ops} {e : Env}
variable (hslot : s.slotThread i k = some (c, g, t)) (he : Env.of s c g = e) (hr : operandHalt t g o (widths opc o) 1 2 2 = none)
include hslot he hr

theorem serveAtom_error {h : Halt} (hf : s.found i e t (spOf o) 2 (atomPlace e o t g).toNat (memBytes o.t.val)
    (atomOp opc e o t g) = .error h) : serveAtom opc o i k s = .error h := by
  simp only [atomPlace, atomOp] at hf
  simp only [serveAtom, hslot, he, hr, hf]

/-- One that writes no word is an access alone (R273). -/
theorem serveAtom_alone {ps : List Part} (hd : atomDests opc o t = [])
    (hf : s.found i e t (spOf o) 2 (atomPlace e o t g).toNat (memBytes o.t.val) (atomOp opc e o t g) =
      .ok (s1, .parts ps)) :
    ∃ u a, serveAtom opc o i k s = .ok u ∧ Adds s1 u a [] ∧
      a.Asks o t (atomOp opc e o t g) (atomPlace e o t g) ps (memBytes o.t.val) none false := by
  obtain ⟨a, ha, hu⟩ := issueAccess_alone s1 i e o t (s.others i t (opUniform opc o)) (atomOp opc e o t g)
    (atomPlace e o t g) ps (memBytes o.t.val) false
  refine ⟨_, a, ?_, hu, ha⟩
  simp only [atomPlace, atomOp, atomDests] at hf hd ⊢
  simp only [serveAtom, hslot, he, hr, hf, hd, List.isEmpty_nil, if_true, BitVec.ofNat_toNat, BitVec.setWidth_eq]

/-- One that writes a register lands its words as a load does (R272). -/
theorem serveAtom_long {ps : List Part} (hd : atomDests opc o t ≠ [])
    (hf : s.found i e t (spOf o) 2 (atomPlace e o t g).toNat (memBytes o.t.val) (atomOp opc e o t g) =
      .ok (s1, .parts ps)) :
    ∃ u a l, serveAtom opc o i k s = .ok u ∧ Adds s1 u a [l] ∧ l.Starts t (atomDests opc o t) none ∧
      a.Asks o t (atomOp opc e o t g) (atomPlace e o t g) ps (memBytes o.t.val) (some l.id) false := by
  obtain ⟨a, l, ha, hl, hu⟩ := issueAccess_long s1 i e o t (s.others i t (opUniform opc o)) (atomDests opc o t)
    (atomOp opc e o t g) (atomPlace e o t g) ps (memBytes o.t.val) false
  refine ⟨_, a, l, ?_, hu, hl, ha⟩
  have hempty := List.isEmpty_eq_false_iff.mpr hd
  simp only [atomPlace, atomOp, atomDests] at hf hempty ⊢
  simp only [serveAtom, hslot, he, hr, hf, hempty, Bool.false_eq_true, if_false, BitVec.ofNat_toNat, BitVec.setWidth_eq]

end Atom

/-! ### The constant pool (R115, R269) -/

/-- A range on one code page that can be fetched from is stopped by no page. -/
theorem codeFault_of_one_page {s : State} {img : Image} {off n : Nat} {lf : Leaf} (hp : s.codePage img off = .ok lf) (hn : off % 4096 + n ≤ 4096) :
    s.codeFault img off n = none := by
  have hpage : (decide (n = 0) || decide ((off + n - 1) / 4096 = off / 4096)) = true := by
    simp only [Bool.or_eq_true, decide_eq_true_eq]
    omega
  simp only [State.codeFault, hp, hpage, if_true]

/-- Its bytes are those of memory behind the page, with the poison of their words, where the page is not protected. -/
theorem poolBytes_of_one_page {s : State} {img : Image} {off n : Nat} {lf : Leaf} (hp : s.codePage img off = .ok lf) (hplain : lf.prot = false)
    (hn : off % 4096 + n ≤ 4096) :
    s.poolBytes img off n = .ok ((s.mem.readBytes (lf.phys + off % 4096) n).zipIdx.map
      (fun x => (x.1, s.poison.contains ((lf.phys + off % 4096 + x.2) / 4)))) := by
  have hmin : min n (4096 - off % 4096) = n := by omega
  simp [State.poolBytes, codeFault_of_one_page hp hn, State.codePoisons, hmin, State.codeOn, hp, hplain]

/-- ldk of readable words starts a long operation with them (R115, R269). -/
theorem serveLdk_ok {s : State} {i : Issue} {k : Nat} {c : Core} {g : Group} {t : Thread} {o : Ops} {e : Env} {img : Image} {p : Proc}
    {l : List (Byte × Bool)} (hslot : s.slotThread i k = some (c, g, t)) (he : Env.of s c g = e)
    (hr : operandHalt t g o (widths 0x1C2 o) 0 0 0 = none) (himg : s.codeOf t t.image = some img)
    (hp : s.proc? t.image t.path.proc = some p) (hal : (rd32 e o t g o.a).toNat % memBytes o.t.val = 0)
    (hin : (rd32 e o t g o.a).toNat + memBytes o.t.val ≤ p.poolLen)
    (hl : s.poolBytes img (p.pool + (rd32 e o t g o.a).toNat) (memBytes o.t.val) = .ok l) :
    serveLdk o i k s = .ok (s.startLong i t (s.others i t (opUniform 0x1C2 o)) (longDests t o.d (widths 0x1C2 o).d)
      (some (loadWords (o.t.val == 1 || o.t.val == 3) (memBytes o.t.val) (l.zipIdx.map (fun x => (x.2, x.1.1, x.1.2)))))).2 := by
  have hbad : ((rd32 e o t g o.a).toNat % memBytes o.t.val != 0 ||
      decide ((rd32 e o t g o.a).toNat + memBytes o.t.val > p.poolLen)) = false := by
    simp [hal, hin]
  simp only [serveLdk, hslot, he, hr, himg, hp, hbad, hl, Bool.false_eq_true, if_false]

/-! ### Prefetches (R270) -/

section Prf
variable {s s1 : State} {i : Issue} {k : Nat} {c : Core} {g : Group} {t : Thread} {o : Ops} {e : Env}
variable (hslot : s.slotThread i k = some (c, g, t)) (he : Env.of s c g = e) (hr : operandHalt t g o (widths 0x1C3 o) 1 1 0 = none)
include hslot he hr

theorem servePrf_noncanonical (h : canonicalVa (memEa e o t g) = false) : servePrf o i k s = .ok s := by
  simp [servePrf, hslot, he, hr, h]

section Canonical
variable (h : canonicalVa (memEa e o t g) = true) (hcode : s.onCode e.ctx (memEa e o t g) = false)
include h hcode

/-- A prefetch from a page that no load could read is dropped. -/
theorem servePrf_dropped {f : PageFault} (hc : s.checkGm e.cl e.co (s.ctxOf e.ctx) ⟨0, true, false, false⟩
    (memEa e o t g) 1 = (s1, .error f)) : servePrf o i k s = .ok s1 := by
  simp [servePrf, hslot, he, hr, h, hcode, hc]

/-- Any other takes a request. -/
theorem servePrf_requests {ps : List Part} (hc : s.checkGm e.cl e.co (s.ctxOf e.ctx) ⟨0, true, false, false⟩
    (memEa e o t g) 1 = (s1, .ok ps)) (hroom : s1.roomFor i .prefetch ps = true) :
    ∃ u a, servePrf o i k s = .ok u ∧ Adds s1 u a [] ∧ a.Asks o t .prefetch (effAddr e o t g o.imm) ps 1 none false := by
  obtain ⟨a, ha, hu⟩ := issueAccess_alone s1 i e o t (s.others i t (opUniform 0x1C3 o)) .prefetch
    (effAddr e o t g o.imm) ps 1 false
  refine ⟨_, a, ?_, hu, ha⟩
  simp [servePrf, hslot, he, hr, h, hcode, hc, hroom, ofNat_memEa]

end Canonical

end Prf

/-! ### The threads of a pass as they retire (R46) -/

theorem onlyCores_retiredAll (s : State) (i : Issue) : s.OnlyCores (retiredAll s i) := by
  refine onlyCores_foldl (fun st k => ?_) i.threads s
  unfold retireSlot
  split
  · exact .refl st
  · exact onlyCores_onThread ..

@[simp] theorem retiredAll_accs (s : State) (i : Issue) : (retiredAll s i).accs = s.accs := by
  obtain ⟨cs, h⟩ := onlyCores_retiredAll s i
  rw [h]

@[simp] theorem retiredAll_mem (s : State) (i : Issue) : (retiredAll s i).mem = s.mem := by
  obtain ⟨cs, h⟩ := onlyCores_retiredAll s i
  rw [h]

/-! ### Fences (R125, R276, R277) -/

/-- The range of a fence as an access holds it. -/
def fenceOp (range : Option (Space × Nat × Nat)) : AccOp :=
  match range with
  | some (y, lo, hi) => .fence (some y) lo hi
  | none => .fence none 0 0

/-- A fence.r of readable words is issued with the range that they give (R125, R276). -/
theorem serveFenceR_ok {s : State} {i : Issue} {k : Nat} {c : Core} {g : Group} {t : Thread} {o : Ops} {e : Env}
    (hslot : s.slotThread i k = some (c, g, t)) (he : Env.of s c g = e)
    (ha : poisonOf t g o.a (widths 0x1C8 o).a 1 = none) (hb : poisonOf t g o.b (widths 0x1C8 o).b 0 = none) {base lo hi : Nat}
    (hbase : base = if spOf o < 2 then (rd64 e o t g o.a false).toNat else (rd32 e o t g o.a).toNat)
    (hrange : fenceRange (spOf o) base (rd64 e o t g o.b false).toNat = (lo, hi)) :
    serveFenceR o i k s = .ok (s.issueFence i e o t (s.others i t (opUniform 0x1C8 o)) (some (spaceOf (spOf o), lo, hi))) := by
  simp only [serveFenceR, hslot, he, ha, hb, ← hbase, hrange]

/-- A fence is an access alone, with no parts. -/
theorem issueFence_adds (s : State) (i : Issue) (e : Env) (o : Ops) (t : Thread) (also : List Nat) (range : Option (Space × Nat × Nat)) :
    ∃ a, a.Asks o t (fenceOp range) 0 [] 0 none false ∧ Adds s (s.issueFence i e o t also range) a [] :=
  issueAccess_alone s i e o t also (fenceOp range) 0 [] 0 false

end Sys2Proof.Machine

namespace Sys2Proof.Proofs
open Sys2Proof Sys2Proof.Machine Sys2Proof.Claims

/-! ### Atomics and reductions -/

/-- The address of an atomic as the statements write it (R196, R261). -/
theorem atomEa_eq (o : Ops) (e : Env) (t : Thread) (g : Group) : atomEa o e t g = (atomPlace e o t g).toNat := by
  simp only [atomEa, atomPlace, memDisp_eq]

/-- The opcode of an atomic or of a reduction. -/
abbrev atomOpc (red : Bool) : Nat := if red then 0x1C5 else 0x1C4

/-- An atomic or a reduction. -/
abbrev atomIns (red : Bool) (o : Ops) : Instr := if red then .red o else .atom o

theorem atomOp_atomOpc (red : Bool) (e : Env) (o : Ops) (t : Thread) (g : Group) :
    atomOp (atomOpc red) e o t g = .update (o.mod.extractLsb' 8 4).toNat (atomSrc e o t g o.b) (atomSrc e o t g o.c) red := by
  cases red <;> rfl

theorem atomOp_ne_fence (opc : Nat) (e : Env) (o : Ops) (t : Thread) (g : Group) (y : Option Space) (lo hi : Nat) :
    atomOp opc e o t g ≠ .fence y lo hi := nofun

/-- An atomic writes its register's words, a reduction none. -/
theorem atomDests_atomOpc (red : Bool) (o : Ops) (t : Thread) :
    atomDests (atomOpc red) o t = if red then [] else longDests t o.d (widths (atomOpc red) o).d := by
  cases red <;> rfl

theorem accesses_atom (red : Bool) (o : Ops) :
    Accesses (atomIns red o) (atomOpc red) 2 o (fun x => ∃ op b c, x = .update op b c red) (atomEa o) (serveAtom (atomOpc red) o) where
  runs := fun s => by cases red <;> rfl
  kind := by decide
  alike := fun x y hx hy s i ps => by
    obtain ⟨_, _, _, rfl⟩ := hx
    obtain ⟨_, _, _, rfl⟩ := hy
    rfl
  place := fun _ _ _ => rfl
  stops := fun s i k c g t hslot hr => by
    have hroles : sourceRoles (atomOpc red) = (1, 2, 2) := by cases red <;> rfl
    rw [hroles] at hr
    exact ⟨_, ⟨_, _, _, atomOp_atomOpc ..⟩, fun h hf => serveAtom_error hslot rfl hr (atomEa_eq o .. ▸ hf)⟩

/-- So a load from the pool takes the bytes as a load from that part of memory would. -/
theorem zipIdx_poolBytes (s : State) (a n : Nat) :
    (((s.mem.readBytes a n).zipIdx.map (fun x => (x.1, s.poison.contains ((a + x.2) / 4)))).zipIdx.map (fun x => (x.2, x.1.1, x.1.2))) =
      bytesOf s { addr := a, len := n } := by
  refine List.ext_getElem (by simp [bytesOf]) (fun j h1 h2 => ?_)
  simp [bytesOf]


/-! ### The other clauses, each by what its operation does for the served thread -/

section Clauses
variable {o : Ops} {s s1 : State} {i : Issue} {k : Nat} {c : Core} {g : Group} {t : Thread}

/-- What an atomic or a reduction issues: an access with its update, and a long operation where it writes a word (R272, R273). -/
theorem atom_issues {red : Bool} {ps : List Part} (hs : Serves s i k c g t (atomOpc red) o) (hd : (atomIns red o).detail = none)
    (hr : operandHalt t g o (widths (atomOpc red) o) 1 2 2 = none)
    (hc : (retiredAll s i).checkAccess (Env.of s c g).cl (Env.of s c g).co ((retiredAll s i).ctxOf (Env.of s c g).ctx) (retire t) (spOf o) 2
      (atomPlace (Env.of s c g) o t g).toNat (memBytes o.t.val) = (s1, .ok (.parts ps)))
    (hroom : s1.roomFor i (atomOp (atomOpc red) (Env.of s c g) o t g) ps = true) :
    ∃ (u : State) (a : Access), exec (atomIns red o) s = .next u ∧ u.accs = s1.accs ++ [a] ∧ u.mem = s1.mem ∧
      u.cur = some (i.finished (opUniform (atomOpc red) o)) ∧
      a.op = atomOp (atomOpc red) (Env.of s c g) o t g ∧ a.parts = ps ∧ a.ea = atomPlace (Env.of s c g) o t g ∧ a.tid = t.tid ∧
      (if red = true ∨ longDests t o.d (widths (atomOpc red) o).d = [] then a.long = none ∧ u.longs = s1.longs
       else ∃ l, u.longs = s1.longs ++ [l] ∧ a.long = some l.id ∧ l.dests = longDests t o.d (widths (atomOpc red) o).d ∧ l.data = none) := by
  have hslot := slotThread_of_serves hs
  have henv := env_retiredAll hs.slot
  have hruns := (accesses_atom red o).runs s
  have hdests : atomDests (atomOpc red) o (retire t) = if red then [] else longDests t o.d (widths (atomOpc red) o).d := atomDests_atomOpc ..
  by_cases hnone : red = true ∨ longDests t o.d (widths (atomOpc red) o).d = []
  · have hnil : atomDests (atomOpc red) o (retire t) = [] := hdests.trans (by rcases hnone with h | h <;> simp [h])
    obtain ⟨u, a, hserve, hu, ha⟩ := serveAtom_alone (i := { i with soft := isSoft (atomOpc red) }) hslot henv hr hnil (found_ok hc hroom)
    have haccs := accs_of_adds hu ha (atomOp_ne_fence _ _ _ _ _)
    exact ⟨_, a, hruns.trans (runOp_of_ok hs hd hserve), haccs, hu.mem, rfl,
      ha.op, ha.parts, ha.ea, ha.tid, by rw [if_pos hnone]; exact ⟨ha.long, hu.longs.trans (List.append_nil _)⟩⟩
  · have hsome : atomDests (atomOpc red) o (retire t) = longDests t o.d (widths (atomOpc red) o).d := hdests.trans (if_neg (not_or.mp hnone).1)
    obtain ⟨u, a, l, hserve, hu, hl, ha⟩ := serveAtom_long (i := { i with soft := isSoft (atomOpc red) }) hslot henv hr
      (hsome ▸ (not_or.mp hnone).2) (found_ok hc hroom)
    have haccs := accs_of_adds hu ha (atomOp_ne_fence _ _ _ _ _)
    exact ⟨_, a, hruns.trans (runOp_of_ok hs hd hserve), haccs, hu.mem, rfl,
      ha.op, ha.parts, ha.ea, ha.tid, by rw [if_neg hnone]; exact ⟨l, hu.longs, ha.long, hl.dests.trans hsome, hl.data⟩⟩

/-- ldk starts a long operation with the words of its pool. It takes no request entry: R116 names none for the pool, and that it needs none is the
model's choice (log entry 39). -/
theorem ldk_starts {img : Image} {p : Proc} {lf : Leaf} (hs : Serves s i k c g t 0x1C2 o) (hd : (Instr.ldk o).detail = none)
    (hr : Readable 0x1C2 o t g) (himg : (retiredAll s i).codeOf t t.image = some img)
    (hp : (retiredAll s i).proc? t.image t.path.proc = some p) (hal : (rd32 (Env.of s c g) o t g o.a).toNat % memBytes o.t.val = 0)
    (hin : (rd32 (Env.of s c g) o t g o.a).toNat + memBytes o.t.val ≤ p.poolLen)
    (hpage : (retiredAll s i).codePage img (p.pool + (rd32 (Env.of s c g) o t g o.a).toNat) = .ok lf) (hplain : lf.prot = false)
    (hone : (p.pool + (rd32 (Env.of s c g) o t g o.a).toNat) % 4096 + memBytes o.t.val ≤ 4096) :
    exec (.ldk o) s = Started s i t (opUniform 0x1C2 o) (longDests t o.d (widths 0x1C2 o).d) (some (loadWords (o.t.val == 1 || o.t.val == 3)
      (memBytes o.t.val) (bytesOf (retiredAll s i)
        { addr := lf.phys + (p.pool + (rd32 (Env.of s c g) o t g o.a).toNat) % 4096, len := memBytes o.t.val }))) := by
  have hslot := slotThread_of_serves hs
  have henv := env_retiredAll hs.slot
  have hserve := serveLdk_ok (i := { i with soft := isSoft 0x1C2 }) hslot henv hr himg hp hal hin
    (poolBytes_of_one_page hpage hplain hone)
  rw [zipIdx_poolBytes] at hserve
  exact runOp_of_ok hs hd hserve

/-- prf is dropped, or takes one request; it changes no value (R116, R270). -/
theorem prf_issues (hs : Serves s i k c g t 0x1C3 o) (hd : (Instr.prf o).detail = none) (hr : operandHalt t g o (widths 0x1C3 o) 1 1 0 = none) :
    let e := Env.of s c g
    let r := retiredAll s i
    let ea := effAddr e o t g o.imm
    let chk := r.checkGm e.cl e.co (r.ctxOf e.ctx) ⟨0, true, false, false⟩ ea.toNat 1
    (canonicalVa ea.toNat = false → NoEffect (.prf o) s i (opUniform 0x1C3 o)) ∧
    (canonicalVa ea.toNat = true → r.onCode e.ctx ea.toNat = false →
      (∀ s1 h, chk = (s1, .error h) → exec (.prf o) s = .next { s1 with cur := some (i.finished (opUniform 0x1C3 o)) }) ∧
      (∀ s1 ps, chk = (s1, .ok ps) → s1.roomFor i .prefetch ps = true → ∃ (u : State) (a : Access), exec (.prf o) s = .next u ∧
        u.mem = s1.mem ∧ u.longs = s1.longs ∧ u.accs = s1.accs ++ [a] ∧ a.op = .prefetch ∧ a.parts = ps ∧ a.ea = ea ∧ a.tid = t.tid ∧
        u.cur = some (i.finished (opUniform 0x1C3 o)))) := by
  intro e r ea chk
  have hruns : exec (.prf o) s = runOp (.prf o) 0x1C3 o (servePrf o) s := rfl
  have hslot := slotThread_of_serves hs
  have henv : Env.of r (r.core i.cl i.co) g = e := env_retiredAll hs.slot
  refine ⟨fun h => hruns.trans (runOp_of_ok hs hd (servePrf_noncanonical hslot henv hr h)),
    fun h hcode => ⟨fun s1 f hc => ?_, fun s1 ps hc hroom => ?_⟩⟩
  · exact hruns.trans (runOp_of_ok hs hd (servePrf_dropped hslot henv hr h hcode hc))
  · obtain ⟨u, a, hserve, hu, ha⟩ := servePrf_requests (i := { i with soft := isSoft 0x1C3 }) hslot henv hr h hcode hc hroom
    have haccs := accs_of_adds hu ha nofun
    exact ⟨_, a, hruns.trans (runOp_of_ok hs hd hserve), hu.mem, hu.longs.trans (List.append_nil _), haccs,
      ha.op, ha.parts, ha.ea, ha.tid, rfl⟩

theorem cctl_noEffect (hs : Serves s i k c g t 0x1CA o) (hd : (Instr.cctl o).detail = none) (ha : poisonOf t g o.a 2 1 = none)
    (hb : poisonOf t g o.b 2 0 = none) : NoEffect (.cctl o) s i (opUniform 0x1CA o) := by
  have hslot := slotThread_of_serves hs
  have ha' : poisonOf (retire t) g o.a 2 1 = none := ha
  have hb' : poisonOf (retire t) g o.b 2 0 = none := hb
  refine runOp_of_ok hs hd ?_
  simp only [show (retiredAll s i).slotThread { i with soft := isSoft 0x1CA } k = _ from hslot, ha', hb']

/-- The accesses behind a fence, as the statements write them (R123). -/
theorem accsWith_fence {a : Access} (h : a.isFence = true) (l : List Access) : accsWith l a = FenceAfter l a := by
  simp only [accsWith, FenceAfter, Access.releases, h, Bool.true_and, Bool.or_eq_true, beq_iff_eq]
  split <;> rfl

/-- An operation that issues a fence for its thread adds the fence to the thread's accesses (R276, R277). -/
theorem fence_adds {ins : Instr} {opc : Nat} {f : Serve} {also : List Nat} {range : Option (Space × Nat × Nat)} (hs : Serves s i k c g t opc o)
    (hd : ins.detail = none) (hexec : exec ins s = runOp ins opc o f s) (hf : f { i with soft := isSoft opc } k (retiredAll s i) =
      .ok ((retiredAll s i).issueFence { i with soft := isSoft opc } (Env.of s c g) o (retire t) also range)) :
    ∃ (u : State) (a : Access), exec ins s = .next u ∧ u.accs = FenceAfter s.accs a ∧ u.mem = s.mem ∧ a.ord = ordOf o ∧ a.tid = t.tid ∧
      a.op = fenceOp range := by
  obtain ⟨a, ha, hu⟩ := issueFence_adds (retiredAll s i) { i with soft := isSoft opc } (Env.of s c g) o (retire t) also range
  have hfence : a.isFence = true := by
    unfold Access.isFence
    rw [ha.op]
    cases range <;> rfl
  exact ⟨_, a, hexec.trans (runOp_of_ok hs hd hf), by rw [← accsWith_fence hfence, ← retiredAll_accs s i]; exact hu.accs,
    hu.mem.trans (retiredAll_mem s i), ha.ord, ha.tid, ha.op⟩

theorem fence_issues (hs : Serves s i k c g t 0x1C9 o) (hd : (Instr.fence o).detail = none) :
    ∃ (u : State) (a : Access), exec (.fence o) s = .next u ∧ u.accs = FenceAfter s.accs a ∧ u.mem = s.mem ∧ a.op = .fence none 0 0 ∧
      a.ord = ordOf o ∧ a.tid = t.tid := by
  have hslot := slotThread_of_serves hs
  obtain ⟨u, a, hexec, haccs, hmem, hord, htid, hop⟩ := fence_adds (ins := .fence o) (range := none) hs hd rfl
    (by simp only [show (retiredAll s i).slotThread { i with soft := isSoft 0x1C9 } k = _ from hslot, env_retiredAll hs.slot]; rfl)
  exact ⟨u, a, hexec, haccs, hmem, hop, hord, htid⟩

theorem fenceR_issues (hs : Serves s i k c g t 0x1C8 o) (hd : (Instr.fenceR o).detail = none) (ha : poisonOf t g o.a (widths 0x1C8 o).a 1 = none)
    (hb : poisonOf t g o.b (widths 0x1C8 o).b 0 = none) :
    let e := Env.of s c g
    let base := if spOf o < 2 then (rd64 e o t g o.a false).toNat else (rd32 e o t g o.a).toNat
    let lo := if spOf o = 1 then base - base / 2 ^ 34 % 2 ^ 6 * 2 ^ 34 else base
    ∃ (u : State) (a : Access), exec (.fenceR o) s = .next u ∧ u.accs = FenceAfter s.accs a ∧ u.mem = s.mem ∧ a.ord = ordOf o ∧ a.tid = t.tid ∧
      a.op = .fence (some (spaceOf (spOf o))) lo (min (lo + (rd64 e o t g o.b false).toNat) (2 ^ 64)) := by
  intro e base lo
  have henv := env_retiredAll hs.slot
  have hrange : fenceRange (spOf o) base (rd64 e o t g o.b false).toNat = (lo, min (lo + (rd64 e o t g o.b false).toNat) (2 ^ 64)) := by
    unfold fenceRange
    simp only [beq_iff_eq]
    rfl
  have hslot := slotThread_of_serves hs
  have hserve := serveFenceR_ok (i := { i with soft := isSoft 0x1C8 }) hslot henv ha hb (base := base) (lo := lo)
    (hi := min (lo + (rd64 e o t g o.b false).toNat) (2 ^ 64)) rfl hrange
  exact fence_adds (ins := .fenceR o) hs hd rfl hserve

end Clauses

/-- Settles O14, clause by clause. ldk needs no request entry, by the model's choice (log entry 39). -/
theorem otherAccessesIssue : Obligations.OtherAccessesIssue := by
  refine ⟨fun red o => checksFail_of_accesses (accesses_atom red o), ?_, ?_, ?_, ?_, ?_, ?_⟩
  · intro red o s i k c g t s1 ps opc ins hs hd hr e r base ea op hc hroom
    have hop : atomOp opc e o t g = op := atomOp_atomOpc red e o t g
    have hea : atomPlace e o t g = ea := by simp only [atomPlace, memDisp_eq, ea, base]
    have hissues := atom_issues hs hd hr (hea ▸ hc) (hop ▸ hroom)
    rwa [hop, hea] at hissues
  · intro o s i k c g t img p lf hs hd hr e r off n
    exact ldk_starts hs hd hr
  · intro o s i k c g t hs hd hr
    exact prf_issues hs hd hr
  · intro o s i k c g t hs hd ha hb
    exact cctl_noEffect hs hd ha hb
  · intro o s i k c g t hs hd
    exact fence_issues hs hd
  · intro o s i k c g t hs hd ha hb
    exact fenceR_issues hs hd ha hb

end Sys2Proof.Proofs

/-! PROOFS. What the checks of memory, the integrity unit and the error records leave of a state: everything but memory, what they hold of it, and the
records themselves (R327 to R333, R341, R349, R354 to R359). -/

namespace Sys2Proof.Machine

/-! ### The part of a state that they leave -/

/-- A state without what the checks of memory, the integrity unit and the error records work on. -/
def State.outside (s : State) : State :=
  { s with mem := [], poison := [], tlb := [], walks := [], oracle := [], tick := 0, parts := [], nextId := 0, accs := [], ctxs := [], lateLogs := [],
           outputs := [] }

theorem outside_of_walks (s : State) (l : List WalkEntry) : ({ s with walks := l } : State).outside = s.outside := rfl
theorem outside_of_mem (s : State) (m : Memory) : ({ s with mem := m } : State).outside = s.outside := rfl
theorem outside_of_poison (s : State) (l : List Nat) : ({ s with poison := l } : State).outside = s.outside := rfl
@[simp] theorem State.storeLe_outside (s : State) (a n x : Nat) : (s.storeLe a n x).outside = s.outside := rfl
theorem State.onCtx_outside (s : State) (n : Nat) (f : Context → Context) : (s.onCtx n f).outside = s.outside := rfl
theorem State.emit_outside (s : State) (x : Output) : (s.emit x).outside = s.outside := rfl
@[simp] theorem State.store_outside (s : State) (a : Nat) (l : List Byte) : (s.store a l).outside = s.outside := rfl
@[simp] theorem State.onPart_outside (s : State) (n : Nat) (f : Partition → Partition) : (s.onPart n f).outside = s.outside := rfl

@[simp] theorem choose_outside (s : State) : s.choose.2.outside = s.outside := by
  unfold State.choose
  split <;> rfl

@[simp] theorem useLeaf_outside (s : State) (a e : Nat) (dirty : Bool) : (s.useLeaf a e dirty).1.outside = s.outside := by
  simp only [State.useLeaf]
  grind [State.storeLe_outside]

@[simp] theorem tlbHold_outside (s : State) (cl co ctx va size leaf : Nat) : (s.tlbHold cl co ctx va size leaf).outside = s.outside := rfl

@[simp] theorem tlbForget_outside (s : State) (ctx va : Nat) : (s.tlbForget ctx va).outside = s.outside := rfl

@[simp] theorem walkHold_outside (s : State) (cl : Nat) (c : Context) (va : Nat) (l : List (Nat × Nat)) : (s.walkHold cl c va l).outside = s.outside :=
  foldl_keeps State.outside (by intros; rfl) l s

@[simp] theorem walkStart_outside (s : State) (cl : Nat) (c : Context) (va : Nat) (l : List Nat) : (s.walkStart cl c va l).1.outside = s.outside := by
  induction l generalizing s with
  | nil => rfl
  | cons k l ih =>
    unfold State.walkStart
    split
    · exact ih s
    · grind [choose_outside, outside_of_walks]

@[simp] theorem walkFrom_outside (s : State) (cl : Nat) (c : Context) (va : Nat) : (s.walkFrom cl c va).1.outside = s.outside := by
  simp [State.walkFrom]

@[simp] theorem tlbLoad_outside (s : State) (cl co : Nat) (c : Context) (va : Nat) (dirty : Bool) : (s.tlbLoad cl co c va dirty).1.outside = s.outside := by
  have h := walkFrom_outside s cl c va
  unfold State.tlbLoad
  grind [useLeaf_outside, choose_outside, tlbHold_outside]

@[simp] theorem translate_outside (s : State) (cl co : Nat) (c : Context) (va : Nat) (write : Bool) :
    (s.translate cl co c va write).1.outside = s.outside := by
  unfold State.translate
  grind [tlbLoad_outside, tlbForget_outside]

@[simp] theorem markDirty_outside (s : State) (cl co : Nat) (c : Context) (va : Nat) : (s.markDirty cl co c va).outside = s.outside := by
  simp only [State.markDirty]
  split <;> simp

@[simp] theorem checkPage_outside (s : State) (cl co : Nat) (c : Context) (u : GmUse) (va : Nat) : (s.checkPage cl co c u va).1.outside = s.outside := by
  unfold State.checkPage
  grind [translate_outside]

@[simp] theorem checkGm_outside (s : State) (cl co : Nat) (c : Context) (u : GmUse) (va n : Nat) : (s.checkGm cl co c u va n).1.outside = s.outside := by
  unfold State.checkGm
  grind [checkPage_outside, markDirty_outside]

/-! ### The integrity unit leaves the rest (R354 to R359) -/

@[simp] theorem integFailed_outside (s : State) (part : Nat) : (s.integFailed part).outside = s.outside := rfl

@[simp] theorem cacheAdd_outside (s : State) (part : Nat) (n : TreeNode) : (s.cacheAdd part n).outside = s.outside := rfl

@[simp] theorem treeSet_outside (s : State) (part : Nat) (path : List (Nat × Nat × Nat)) (k x : Nat) : (s.treeSet part path k x).outside = s.outside := rfl

@[simp] theorem holdTag_outside (s : State) (part ta line tag : Nat) : (s.holdTag part ta line tag).outside = s.outside := rfl

theorem treeFetch_outside {s s1 : State} {part : Nat} {path : List (Nat × Nat × Nat)} {ctrs : List Nat} (h : s.treeFetch part path = some (s1, ctrs)) :
    s1.outside = s.outside := by
  induction path generalizing s1 ctrs with
  | nil =>
    obtain ⟨p, -, hp⟩ := Option.map_eq_some_iff.mp h
    exact congrArg (fun r => r.1.outside) hp.symm
  | cons x up ih =>
    unfold State.treeFetch at h
    grind [cacheAdd_outside]

@[simp] theorem treeEvict_outside (s : State) (part age : Nat) : (s.treeEvict part age).outside = s.outside := by
  unfold State.treeEvict
  grind [treeFetch_outside, treeSet_outside, State.onPart_outside, State.store_outside]

@[simp] theorem trimDie_outside (s : State) (die n : Nat) : (s.trimDie die n).outside = s.outside := by
  induction n generalizing s with
  | zero => rfl
  | succ n ih =>
    unfold State.trimDie
    grind [treeEvict_outside]

@[simp] theorem treeTrim_outside (s : State) : s.treeTrim.outside = s.outside :=
  foldl_keeps State.outside (fun st die => trimDie_outside st die 64) _ s

@[simp] theorem lineRead_outside (s : State) (c : Context) (line : Nat) : (s.lineRead c line).1.outside = s.outside := by
  unfold State.lineRead
  grind [treeFetch_outside, treeTrim_outside, holdTag_outside]

theorem lineWrite_outside {s s1 : State} {c : Context} {line : Nat} {l : List Byte} (h : s.lineWrite c line l = .ok s1) : s1.outside = s.outside := by
  unfold State.lineWrite at h
  grind [treeFetch_outside, treeTrim_outside, holdTag_outside, treeSet_outside, State.storeLe_outside, outside_of_mem]

@[simp] theorem seal_outside (s : State) (c : Context) (line lo len : Nat) (l : List Byte) : (s.seal c line lo len l).1.outside = s.outside := by
  unfold State.seal
  grind [lineWrite_outside, integFailed_outside, outside_of_poison]

@[simp] theorem fillWhole_outside (s : State) (c : Context) (by_ line lo : Nat) (l : List Byte) : (s.fillWhole c by_ line lo l).1.outside = s.outside := by
  simp only [State.fillWhole]
  split <;> simp

@[simp] theorem protRead_outside (s : State) (c : Context) (a n : Nat) : (s.protRead c a n).1.outside = s.outside := by
  refine foldl_keeps (fun r : State × Option (List Byte) => r.1.outside) ?_ _ _
  grind [lineRead_outside, integFailed_outside]

@[simp] theorem protWrite_outside (s : State) (c : Context) (by_ : Nat) (whole : Nat → Bool) (a : Nat) (l : List Byte) :
    (s.protWrite c by_ whole a l).1.outside = s.outside := by
  refine foldl_keeps (fun r : State × Bool => r.1.outside) ?_ _ _
  grind [lineRead_outside, integFailed_outside, seal_outside, fillWhole_outside]

/-! ### So do the machine's own accesses to global memory (R349) -/

@[simp] theorem readPart_outside (s : State) (c : Context) (p : Part) : (s.readPart c p).1.outside = s.outside := by
  unfold State.readPart
  grind [protRead_outside]

@[simp] theorem writePart_outside (s : State) (c : Context) (p : Part) (data : List Byte) : (s.writePart c p data).outside = s.outside := by
  simp only [State.writePart]
  split <;> simp

@[simp] theorem gmRead_outside (s : State) (cl co : Nat) (c : Context) (prot : Bool) (va n : Nat) : (s.gmRead cl co c prot va n).1.outside = s.outside := by
  have hparts := fun (ps : List Part) (x : State × List (Nat × Byte × Bool)) => foldl_keeps (fun r : State × List (Nat × Byte × Bool) => r.1.outside)
    (f := fun acc p => ((acc.1.readPart c p).1, acc.2 ++ (acc.1.readPart c p).2)) (fun acc p => readPart_outside acc.1 c p) ps x
  simp only [State.gmRead]
  grind [checkGm_outside]

@[simp] theorem gmWrite_outside (s : State) (cl co : Nat) (c : Context) (prot : Bool) (va : Nat) (l : List Byte) :
    (s.gmWrite cl co c prot va l).1.outside = s.outside := by
  have hparts := fun (ps : List Part) (st : State) => foldl_keeps State.outside
    (f := fun st p => st.writePart c p l) (fun st p => writePart_outside st c p l) ps st
  unfold State.gmWrite
  grind [checkGm_outside]

/-! ### So does an entry in an error record (R345, R349) -/

@[simp] theorem releasesOutside_outside (s : State) : s.releasesOutside.outside = s.outside := rfl

@[simp] theorem ctxRd_outside (cl co : Nat) (c : Context) (s : State) (a n : Nat) : (ctxRd cl co c s a n).1.outside = s.outside := by
  unfold ctxRd
  grind [gmRead_outside]

@[simp] theorem ctxWr_outside (cl co : Nat) (c : Context) (s : State) (a : Nat) (l : List Byte) : (ctxWr cl co c s a l).1.outside = s.outside := by
  unfold ctxWr
  grind [gmWrite_outside]

theorem outside_of_fst {α : Type} {s s1 : State} {x : State × α} {r : α} (hx : x = (s1, r)) (h : x.1.outside = s.outside) : s1.outside = s.outside := by
  rwa [hx] at h

section Record
variable {rd : State → Nat → Nat → State × Option Nat} {wr : State → Nat → List Byte → State × Bool}

/-- An entry leaves the rest where the reads and writes of the record do. -/
theorem recordWrite_outside (hr : ∀ s a n, (rd s a n).1.outside = s.outside) (hw : ∀ s a l, (wr s a l).1.outside = s.outside) (base : Nat) (e : ErrEntry)
    (s : State) : (recordWrite rd wr base e s).1.outside = s.outside := by
  simp only [recordWrite]
  split
  · next hrd => exact outside_of_fst hrd (hr ..)
  · next s1 h hrd =>
    have h1 : s1.outside = s.outside := outside_of_fst hrd (hr ..)
    split
    · simp only [hw, h1]
    · split
      · next s2 hwr => exact outside_of_fst hwr (by rw [hw, h1])
      · next s2 hwr =>
        have h2 : s2.outside = s.outside := outside_of_fst hwr (by rw [hw, h1])
        split <;> simp only [releasesOutside_outside, hw, h2]

end Record

@[simp] theorem writeLog_outside (s : State) (cl co : Nat) (c : Context) (e : ErrEntry) : (s.writeLog cl co c e).outside = s.outside := by
  have h := recordWrite_outside (ctxRd_outside cl co c) (ctxWr_outside cl co c) c.errrec.toNat e s
  simp only [State.writeLog]
  split
  · exact (State.onCtx_outside ..).trans h
  · exact (State.emit_outside ..).trans ((State.onCtx_outside ..).trans h)

@[simp] theorem logCtx_outside (s : State) (cl co ctx : Nat) (e : ErrEntry) : (s.logCtx cl co ctx e).outside = s.outside := by
  unfold State.logCtx
  split
  · rfl
  · split
    · rfl
    · exact writeLog_outside ..

@[simp] theorem noteAbort_outside (s : State) (m : Cmd) (dests : List DestPart) (apart : Bool) (code addr : Nat) :
    (s.noteAbort m dests apart code addr).outside = s.outside := by
  unfold State.noteAbort
  split
  · rfl
  · exact logCtx_outside ..
end Sys2Proof.Machine

/-! PROOFS. How a fill enters its queue, and how the expectation of a command's part reaches its destination (R111, R155, R156, R164, R279). -/

namespace Sys2Proof.Machine

/-! ### Commands of a state that was changed -/

/-- A command that is put in the place of the one of its number is the one found. -/
theorem find_replaced {m m' : Cmd} {id : Nat} (h' : m'.id = id) {l : List Cmd} (h : l.find? (fun c => c.id == id) = some m) :
    (mapIf (fun c => c.id == id) (fun _ => m') l).find? (fun c => c.id == id) = some m' := by
  induction l with
  | nil => cases h
  | cons x l ih =>
    cases hx : x.id == id with
    | true => simp only [mapIf, List.map_cons, hx, if_true, List.find?_cons, h', beq_self_eq_true]
    | false =>
      simp only [List.find?_cons, hx] at h
      simp only [mapIf, List.map_cons, hx, Bool.false_eq_true, if_false, List.find?_cons]
      exact ih h

theorem cmd?_setCmd {s : State} {m m' : Cmd} (h : s.cmd? m'.id = some m) : (s.setCmd m').cmd? m'.id = some m' :=
  find_replaced rfl h

/-- A command that moves to the end of the list is the one of its number. -/
theorem find_moved {m : Cmd} {id : Nat} (h : m.id = id) (l : List Cmd) :
    (l.filter (fun c => c.id != id) ++ [m]).find? (fun c => c.id == id) = some m := by
  have hnone : (l.filter (fun c => c.id != id)).find? (fun c => c.id == id) = none := by simp [List.find?_eq_none]
  simp [List.find?_append, hnone, h]

@[simp] theorem onIssuer_cmds (s : State) (m : Cmd) (f : CCell → CCell) : (s.onIssuer m f).cmds = s.cmds := by
  unfold State.onIssuer
  split
  · rfl
  · dsimp only
    split <;> rfl

@[simp] theorem onDest_cmds (s : State) (m : Cmd) (d : DestPart) (f : CCell → CCell) : (s.onDest m d f).cmds = s.cmds := by
  unfold State.onDest
  split
  · rfl
  · dsimp only
    split <;> rfl

/-- Noting an abort leaves the commands. -/
@[simp] theorem noteAbort_cmds (s : State) (m : Cmd) (dests : List DestPart) (apart : Bool) (code addr : Nat) :
    (s.noteAbort m dests apart code addr).cmds = s.cmds :=
  show (s.noteAbort m dests apart code addr).outside.cmds = s.outside.cmds by rw [noteAbort_outside]

/-! ### The entry of a fill (R160, R164, R279) -/

theorem engSpace_gm {a : DWord} (h : a.toNat / 2 ^ 60 = 0) : engSpace a = some .gm := by
  simp only [engSpace, h]

theorem engSpace_isSome {a : DWord} (h : a.toNat / 2 ^ 60 ≤ 2) : ∃ y, engSpace a = some y := by
  obtain h | h | h : a.toNat / 2 ^ 60 = 0 ∨ a.toNat / 2 ^ 60 = 1 ∨ a.toNat / 2 ^ 60 = 2 := by omega
  · exact ⟨.gm, by simp only [engSpace, h]⟩
  · exact ⟨.sp, by simp only [engSpace, h]⟩
  · exact ⟨.bk, by simp only [engSpace, h]⟩

theorem engSpace_none {a : DWord} (h : 2 < a.toNat / 2 ^ 60) : engSpace a = none := by
  unfold engSpace
  split
  · omega
  · omega
  · omega
  · rfl

/-- A fill as it enters its queue to write global memory. -/
def Cmd.filling (m : Cmd) (dst : DWord) (n : Nat) (pat : Word) : Cmd := { m with kind := .fill dst n pat, todo := [(0, n / 4)], dests := [] }

/-- A command that has entered its queue: the bytes that it owes, and the generations its addresses are stamped with (R110, R155). -/
def Cmd.inQueue (m : Cmd) (total : Nat) (gens : Assoc Nat) : Cmd := { m with entered := true, owed := total, gens := gens }

section Fill
variable {s : State} {m : Cmd} {dst : DWord} {n : Nat} {y : Space}

theorem enterFill_gm (hy : engSpace dst = some .gm) (hd : dst.toNat % 4 = 0) (hn : n % 4 = 0) (h0 : n ≠ 0) (pat : Word) :
    s.enterFill m dst n pat = s.enterCmd (m.filling dst n pat) n := by
  simp [State.enterFill, hy, hd, hn, h0, Cmd.filling]

theorem enterFill_empty (hy : engSpace dst = some y) (hd : dst.toNat % 4 = 0) (h0 : n = 0) (pat : Word) :
    s.enterFill m dst n pat = s.endAtOnce m none := by
  simp [State.enterFill, hy, hd, h0]

theorem enterFill_badSpace (hy : engSpace dst = none) (pat : Word) : s.enterFill m dst n pat = s.endAtOnce m (some (0x09, 0)) := by
  simp only [State.enterFill, hy]

theorem enterFill_misaligned (hy : engSpace dst = some y) (h : dst.toNat % 4 ≠ 0 ∨ n % 4 ≠ 0) (pat : Word) :
    s.enterFill m dst n pat = s.endAtOnce m (some (0x07, dst.toNat)) := by
  have hodd : (dst.toNat % 4 != 0 || n % 4 != 0) = true := by simpa using h
  simp only [State.enterFill, hy, hodd, if_true]

theorem exec_engineQueueEntry_fill {pat : Word} (hm : s.cmd? m.id = some m) (he : s.mayEnter m = true) (hk : m.kind = .fill dst n pat) :
    exec (.engineQueueEntry m.id) s = .next (s.enterFill m dst n pat) := by
  show execEngineQueueEntry m.id s = _
  simp [execEngineQueueEntry, hm, he, hk]

end Fill

/-- What PEND holds of a cell: 40 bits, signed (R154). -/
theorem pendOk_iff {x : Int} : pendOk x = true ↔ -(2 ^ 39 : Int) ≤ x ∧ x ≤ 2 ^ 39 - 1 := by
  simp [pendOk]

/-! ### The arrival of an expectation (R155) -/

section Arrive
variable {s : State} {m : Cmd} {d : DestPart}

theorem exec_destExpectationArrive (hm : s.cmd? m.id = some m) (he : m.entered = true)
    (hd : m.dests.find? (fun x => x.co == d.co && x.expect && !x.posted && !x.finished) = some d) (hgen : (s.core m.cl d.co).gen = d.gen)
    {n : Nat} (hc : m.cell = some n) (hp : pendOk (((s.core m.cl d.co).cell n).pend + d.owed) = true) :
    exec (.destExpectationArrive m.id d.co) s = .next ((s.onDest m d (CCell.more d.owed)).setCmd
      { m with dests := mapIf (fun x => x.co == d.co) (fun x => { x with posted := true }) m.dests }) := by
  show execDestExpectationArrive m.id d.co s = _
  simp [execDestExpectationArrive, hm, he, hd, hgen, hc, hp]

theorem exec_destExpectationArrive_stale (hm : s.cmd? m.id = some m) (he : m.entered = true)
    (hd : m.dests.find? (fun x => x.co == d.co && x.expect && !x.posted && !x.finished) = some d) (hgen : (s.core m.cl d.co).gen ≠ d.gen) :
    exec (.destExpectationArrive m.id d.co) s = .next (s.abortPart m d 0x01 0 (m.isFor d.co)) := by
  show execDestExpectationArrive m.id d.co s = _
  simp [execDestExpectationArrive, hm, he, hd, hgen]

theorem onDest_of_counts {n : Nat} (hc : m.cell = some n) (hgen : (s.core m.cl d.co).gen = d.gen)
    (hepoch : ((s.core m.cl d.co).cell n).epoch = d.epoch) (f : CCell → CCell) :
    s.onDest m d f = s.setCore ((s.core m.cl d.co).onCell n f) := by
  simp [State.onDest, hc, hgen, hepoch]

/-- The part of a command for one core, aborted. -/
def Cmd.without (m : Cmd) (d : DestPart) (mine : Nat → Bool) : Cmd :=
  { m with owed := m.owed - d.owed, todo := (indexes m.todo).foldl (fun l k => if mine k then takeIndex k l else l) m.todo,
           early := m.early.filter (fun x => x.2 != some d.co),
           dests := mapIf (fun x => x.co == d.co) (fun x => { x with owed := 0, aborted := true, finished := true }) m.dests }

/-- A part that aborts leaves the other commands, and its own without it. -/
theorem cmd?_abortPart (hm : s.cmd? m.id = some m) (code addr : Nat) (mine : Nat → Bool) :
    (s.abortPart m d code addr mine).cmd? m.id = some (m.without d mine) := by
  unfold State.abortPart
  refine cmd?_setCmd (m := m) (m' := m.without d mine) ?_
  have hm' : s.cmds.find? (fun c => c.id == m.id) = some m := hm
  simpa [State.cmd?, Cmd.without] using hm'

theorem mem_mapIf {α : Type} {p : α → Bool} {f : α → α} {l : List α} {x : α} : x ∈ mapIf p f l ↔ ∃ y ∈ l, (if p y then f y else y) = x :=
  List.mem_map

end Arrive

end Sys2Proof.Machine

namespace Sys2Proof.Proofs
open Sys2Proof Sys2Proof.Machine Sys2Proof.Claims

section Entry
variable {s : State} {m : Cmd} {k : Nat}

/-- A command whose expectation fits enters: PEND rises by its bytes, and it waits with its elements (R155, R279). -/
theorem enterCmd_counts {total : Nat} (hc : Counts s m k) (hp : pendOk ((cellIn s m k).pend + total) = true) :
    (s.enterCmd m total).mem = s.mem ∧ cellIn (s.enterCmd m total) m k = { cellIn s m k with pend := (cellIn s m k).pend + total } ∧
      (s.enterCmd m total).cmd? m.id = some (m.inQueue total (s.stamps m)) := by
  have hp' : pendOk (((s.core m.cl m.co).cell k).pend + total) = true := hp
  have henter : s.enterCmd m total = { s.onIssuer m (CCell.more total) with
      cmds := ((s.onIssuer m (CCell.more total)).cmds.filter (fun c => c.id != m.id)) ++ [m.inQueue total (s.stamps m)] } := by
    simp [State.enterCmd, hc.cell, hp', Cmd.inQueue]
  rw [henter]
  refine ⟨onIssuer_mem .., ?_, find_moved (m := m.inQueue total (s.stamps m)) rfl _⟩
  exact cellIn_ended hc (CCell.more total)

/-- A command that makes no access counts in DONE at once, gives its code to a cell whose ERR is 0, and is gone (R155, R279). -/
theorem endAtOnce_counts (hc : Counts s m k) (hd : (cellIn s m k).done < 65535) (err : Option (Nat × Nat)) :
    (s.endAtOnce m err).cmd? m.id = none ∧ cellIn (s.endAtOnce m err) m k = { cellIn s m k with
      done := (cellIn s m k).done + 1, err := if (cellIn s m k).err = 0 then (err.map Prod.fst).getD 0 else (cellIn s m k).err } := by
  cases err with
  | none =>
    refine ⟨cmd?_dropCmd .., (cellIn_ended hc CCell.count).trans ?_⟩
    have herr : (if (cellIn s m k).err = 0 then 0 else (cellIn s m k).err) = (cellIn s m k).err := by split <;> omega
    simp [count_of_lt hd, herr]
  | some e =>
    have hcores := noteAbort_cores s m [] false e.1 e.2
    have hcell : cellIn (s.noteAbort m [] false e.1 e.2) m k = cellIn s m k := congrArg (fun c => c.cell k) (core_of_cores hcores m.cl m.co)
    refine ⟨cmd?_dropCmd .., (cellIn_ended (counts_of_cores hcores hc) (fun x => (x.setErr e.1).count)).trans ?_⟩
    have hcount := aborted_cell e.1 0 hd
    rw [hcell]
    simpa [CCell.less] using hcount

/-- A fill with bytes to write enters its queue. -/
theorem fill_enters {dst : DWord} {n : Nat} {pat : Word} (hm : s.cmd? m.id = some m) (he : s.mayEnter m = true) (hk : m.kind = .fill dst n pat)
    (hc : Counts s m k) (hcode : dst.toNat / 2 ^ 60 = 0) (hd : dst.toNat % 4 = 0) (hn : n % 4 = 0) (h0 : n ≠ 0)
    (hp : pendOk ((cellIn s m k).pend + n) = true) :
    Then (.engineQueueEntry m.id) s (fun u => u.mem = s.mem ∧ cellIn u m k = { cellIn s m k with pend := (cellIn s m k).pend + n } ∧
      ∃ m', u.cmd? m.id = some m' ∧ m'.entered = true ∧ m'.kind = .fill dst n pat ∧ m'.owed = n ∧ m'.todo = [(0, n / 4)]) := by
  have hc' : Counts s (m.filling dst n pat) k := ⟨hc.cell, hc.gen, hc.epoch⟩
  obtain ⟨hmem, hcell, hcmd⟩ := enterCmd_counts hc' hp
  exact ⟨_, (exec_engineQueueEntry_fill hm he hk).trans (congrArg _ (enterFill_gm (engSpace_gm hcode) hd hn h0 pat)), hmem, hcell, _, hcmd,
    rfl, rfl, rfl, rfl⟩

/-- A fill that ends as it enters counts, with its code. -/
theorem fill_endsAtOnce {dst : DWord} {n : Nat} {pat : Word} {err : Option (Nat × Nat)} (hm : s.cmd? m.id = some m) (he : s.mayEnter m = true)
    (hk : m.kind = .fill dst n pat) (hc : Counts s m k) (hdone : (cellIn s m k).done < 65535) (hend : s.enterFill m dst n pat = s.endAtOnce m err) :
    Then (.engineQueueEntry m.id) s (fun u => u.cmd? m.id = none ∧ cellIn u m k = { cellIn s m k with
      done := (cellIn s m k).done + 1, err := if (cellIn s m k).err = 0 then (err.map Prod.fst).getD 0 else (cellIn s m k).err }) :=
  ⟨_, (exec_engineQueueEntry_fill hm he hk).trans (congrArg _ hend), endAtOnce_counts hc hdone err⟩

end Entry

section Arrive
variable {s : State} {m : Cmd} {d : DestPart}

/-- An expectation that arrives in time raises PEND of its core's cell, and the part may land. -/
theorem expectation_arrives {n : Nat} (hm : s.cmd? m.id = some m) (he : m.entered = true) (hc : m.cell = some n)
    (hd : m.dests.find? (fun x => x.co == d.co && x.expect && !x.posted && !x.finished) = some d) (hgen : (s.core m.cl d.co).gen = d.gen)
    (hepoch : ((s.core m.cl d.co).cell n).epoch = d.epoch) (hp : pendOk (((s.core m.cl d.co).cell n).pend + d.owed) = true) :
    Then (.destExpectationArrive m.id d.co) s (fun u => u.mem = s.mem ∧
      (u.core m.cl d.co).cell n = { (s.core m.cl d.co).cell n with pend := ((s.core m.cl d.co).cell n).pend + d.owed } ∧
      ∃ m', u.cmd? m.id = some m' ∧ ∃ x ∈ m'.dests, x.co = d.co ∧ x.posted = true) := by
  have hexec := exec_destExpectationArrive hm he hd hgen hc hp
  rw [onDest_of_counts hc hgen hepoch] at hexec
  have hcore : (s.setCore ((s.core m.cl d.co).onCell n (CCell.more d.owed))).core m.cl d.co = (s.core m.cl d.co).onCell n (CCell.more d.owed) :=
    core_setCore_placed rfl rfl
  refine ⟨_, hexec, rfl, (congrArg (fun c => c.cell n) hcore).trans (cell_onCell ..), _, cmd?_setCmd (m := m) hm,
    { d with posted := true }, ?_, rfl, rfl⟩
  exact mem_mapIf.mpr ⟨d, List.mem_of_find?_eq_some hd, by simp⟩

/-- One that meets a newer generation aborts its part (R111, R156). -/
theorem expectation_stale (hm : s.cmd? m.id = some m) (he : m.entered = true)
    (hd : m.dests.find? (fun x => x.co == d.co && x.expect && !x.posted && !x.finished) = some d) (hgen : (s.core m.cl d.co).gen ≠ d.gen) :
    Then (.destExpectationArrive m.id d.co) s (fun u =>
      ∃ m', u.cmd? m.id = some m' ∧ m'.owed = m.owed - d.owed ∧ ∀ x ∈ m'.dests, x.co = d.co → x.aborted = true ∧ x.finished = true) := by
  refine ⟨_, exec_destExpectationArrive_stale hm he hd hgen, _, cmd?_abortPart hm .., rfl, fun x hx hco => ?_⟩
  obtain ⟨y, -, rfl⟩ := mem_mapIf.mp hx
  by_cases hy : y.co = d.co
  · simp [hy]
  · simp [hy] at hco

end Arrive

/-- Settles O34, by what each outcome of a fill's checks makes of the command and its cell, and by the two outcomes of an arrival. That a bad space
code gives its own code where the fill is out of alignment too is the model's choice (log entry 99). -/
theorem engineEntry : Obligations.EngineEntry := by
  refine ⟨?_, ?_⟩
  · intro s m dst n pat k hm he hk hc y code Ended
    refine ⟨fun hcode hd hn h0 hlo hhi => ?_, fun hdone hcode hd h0 => ?_, fun hdone hcode => ?_, fun hdone hcode hodd => ?_⟩
    · exact fill_enters hm he hk hc hcode hd hn h0 (pendOk_iff.mpr ⟨hlo, hhi⟩)
    · obtain ⟨z, hz⟩ := engSpace_isSome hcode
      exact fill_endsAtOnce hm he hk hc hdone (enterFill_empty hz hd h0 pat)
    · exact fill_endsAtOnce hm he hk hc hdone (enterFill_badSpace (engSpace_none hcode) pat)
    · obtain ⟨z, hz⟩ := engSpace_isSome hcode
      exact fill_endsAtOnce hm he hk hc hdone (enterFill_misaligned hz hodd pat)
  · intro s m d n hm he hc hd c y
    exact ⟨fun hgen hepoch hlo hhi => expectation_arrives hm he hc hd hgen hepoch (pendOk_iff.mpr ⟨hlo, hhi⟩), expectation_stale hm he hd⟩

end Sys2Proof.Proofs
